-- ==== Sys2Proof/Word.lean ====
section
/-!
DEFINITION. The word types of the SX16 (00_scope.md R6, R7): bytes, 16-, 32- and 64-bit words.
-/
namespace Sys2Proof

/-- A byte of memory or of a record (R6). -/
abbrev Byte := BitVec 8
/-- A 16-bit field. -/
abbrev Half := BitVec 16
/-- A 32-bit register, record field or FP32 encoding. -/
abbrev Word := BitVec 32
/-- A 64-bit register, record field or fabric time. -/
abbrev Dword := BitVec 64

end Sys2Proof
end

