-- ==== Sys2Proof/Syntax.lean ====
section
/-!
DEFINITION. The commands of the block: one constructor of `Instr` for each of the 177 rows of spec/opcode_table.json,
with the row's operands. The table gives no bits to any row; the operands are those that the row's rule names.
-/
namespace Sys2Proof

/-- The master identities of 00_scope.md "Names": H0–H3, the management core M, the die sequencers S0 and S1, and
the debug port D. -/
inductive Master where
  | h0 | h1 | h2 | h3 | m | s0 | s1 | d
  deriving DecidableEq, Repr

/-- The two widths of a register access (R7). -/
inductive Width where
  | w32 | w64
  deriving DecidableEq, Repr

/-- A register access: its offset in the window and its width (R7). -/
structure Access where
  off   : Nat
  width : Width
  deriving DecidableEq, Repr

/-- What the codes of a line find when it is read (R235). -/
inductive EccEvent where
  | clean | correctable | uncorrectable
  deriving DecidableEq, Repr

/-- A packet of a Rudom link: the 32-byte header of R348 and its data slots of 32 bytes, as one list of bytes. -/
structure Packet where
  dst      : Half
  src      : Half
  kind     : BitVec 4
  cls      : BitVec 2
  dl       : Bool
  hops     : Byte
  addr     : Dword
  tag      : Half
  depClass : Byte
  status   : Byte
  arg      : Word
  arg2     : Dword
  data     : List Byte
  deriving DecidableEq, Repr

/-- A ring frame (R137) as it reaches a member: the header fields and the payload. -/
structure RingFrame where
  ringTag   : Word
  origin    : Byte
  step      : Byte
  ftype     : Byte
  shapeHash : Word
  offset    : Dword
  slotBytes : Dword
  payload   : List Byte
  deriving DecidableEq, Repr

/-- A Yard frame (R375) as it reaches a member: the header fields and the payload, with the sending member's
coordinate on the axis and the departure class of its packets. -/
structure YardFrame where
  sender    : Nat
  ttClass   : Byte
  stream    : Word
  epoch     : Half
  ftype     : Byte
  mode      : Byte
  chunk     : Half
  hop       : Byte
  argb      : Byte
  gen       : Word
  shapeHash : Word
  offset    : Dword
  payload   : List Byte
  deriving DecidableEq, Repr

/-- The authenticated monotonic counter of a flash (R427): its key, once one is provisioned, and its value. -/
structure FlashCtr where
  key   : Option (List Byte)
  value : Word
  deriving DecidableEq, Repr

/-- What a board programmer has placed in the configuration flash: its size, its bytes by offset, and its counter, where it has one. -/
structure Placed where
  size  : Nat
  bytes : List (Nat × Byte)
  ctr   : Option FlashCtr
  deriving DecidableEq, Repr

/-- What built-in self-test finds at one boot (R27, R434 phase 0x5): the failed units. -/
structure BistResult where
  /-- failed core sites as (die, site index) -/
  sites      : List (Nat × Nat)
  /-- core sites whose router failed, as (die, site index) (R15) -/
  routers    : List (Nat × Nat)
  /-- failed Platform banks as (die, site index, physical bank) -/
  platBanks  : List (Nat × Nat × Nat)
  /-- failed Depot banks -/
  depotBanks : List Nat
  /-- failed Rudom lanes as (port, 0 = transmit or 1 = receive, physical lane) -/
  lanes      : List (Nat × Nat × Nat)
  /-- failed HBM rows that a spare row replaces, as (stack, 2 × channel + pseudo-channel, row address) (R26, R436) -/
  rows       : List (Nat × Nat × Nat)
  /-- pseudo-channels beyond row repair, as (stack, 2 × channel + pseudo-channel) -/
  pcs        : List (Nat × Nat)
  /-- failed update engines by stack -/
  engines    : List Nat
  /-- stacks that are absent or failed whole -/
  stacksBad  : List Nat
  /-- per die: the die network, the sequencer and the bridge to the hub pass (R445) -/
  dieOk      : Bool × Bool
  /-- the x4 groups of host lanes that pass (R446) -/
  hostGroups : List Nat
  /-- the hub fabric passes -/
  hubOk      : Bool
  deriving DecidableEq, Repr

/-- What the flash's bus carries as the counter's answer to a read or an increment (R427): the counter's own answer, or another value with
its authentication code. -/
inductive CtrResp where
  | own
  | other (v : Word) (mac : List Byte)
  deriving DecidableEq, Repr

/-- COMMIT_SVN as a channel carries it, with the counter's answer to the increment (R427, R444). -/
structure Commit where
  ch  : Nat
  ctr : CtrResp
  deriving DecidableEq, Repr

/-- The algorithms that an SPDM requester selects (R440). -/
structure AlgSel where
  baseAsymNone : Bool
  baseHashSha3 : Bool
  measHashSha3 : Bool
  extMlDsa     : Bool
  deriving DecidableEq, Repr

/-- The monitored core-logic rails (R455). -/
inductive Rail where
  | c0 | c1 | hub
  deriving DecidableEq, Repr

/-- The books of R339. -/
inductive Book where
  | linkCredits | ringCredits | admission | wagonTags | tokens | kvCounts | leases
  deriving DecidableEq, Repr

/-- The commands of the block. `flash` names what a board programmer has placed in the configuration flash since the last
boot (log 12); `verify` the power-up state of the PUF SRAM, where a key can be recovered from it (R437). The comments give the row's operands; a `slot` is one of the 4,096 command slots of
R301, a `w` a wagon in flight, `k` a host function 0–3, `port` a Rudom port 0–7. -/
inductive Instr where
  -- register access (R7, R8); the offset lies in BAR0, or, for a host, in its configuration space, BAR2 or BAR4 (log 89)
  | registerWrite (mst : Master) (off : Nat) (width : Width) (v : Dword)
  | lowHalfRead (mst : Master) (acc : Access)
  | lowHalfWrite (mst : Master) (off : Nat) (v : Word)
  | highHalfWrite (mst : Master) (off : Nat) (v : Word)
  -- table unit (R155, R156); the arguments stand in MEM_TBL_ARG0–3 of the master
  | bind (mst : Master) (kind slot ctx : Nat)
  | unbind (mst : Master) (kind slot : Nat)
  | load (mst : Master) (kind slot : Nat)
  | swap (mst : Master) (kind slot : Nat)
  | sync (mst : Master) (kind slot : Nat)
  | map (mst : Master) (kind slot : Nat)
  | fork (mst : Master) (kind slot : Nat)
  | trim (mst : Master) (kind slot : Nat)
  | move (mst : Master) (kind slot : Nat)
  | query (mst : Master) (kind slot : Nat)
  | count (mst : Master) (kind slot : Nat)
  | tableOpComplete (mst : Master)
  | copyOnWrite (slot : Nat)
  | xltInval (mst : Master) (v : Dword)
  | xltInvalComplete (mst : Master)
  -- contexts (R291–R294, R318–R321)
  | enable (mst : Master) (ctx : Nat)
  | preempt (mst : Master) (ctx : Nat)
  | ctxSaveDone (ctx : Nat)
  | restore (mst : Master) (ctx : Nat)
  | ctxRestoreDone (ctx : Nat)
  | reset (mst : Master) (ctx : Nat)
  | ctxResetDone (ctx : Nat)
  | ctxSeedWrite (mst : Master) (ctx : Nat) (v : Dword)
  | ctxStepWrite (mst : Master) (ctx : Nat) (v : Dword)
  | ctxProfWrite (mst : Master) (ctx : Nat) (v : Word)
  | ctxShareWrite (mst : Master) (ctx : Nat) (v : Dword)
  | sqDoorbell (mst : Master) (ctx queue : Nat) (tail : Word)
  | cqHeadWrite (mst : Master) (ctx : Nat) (head : Word)
  | abort (mst : Master) (ctx queue : Nat) (seq : Word)
  -- the life of a command (R295–R317)
  | cmdFetch (ctx queue : Nat)
  | cmdAdmit
  | admitTimeout (ctx queue : Nat)
  | cmdStart (slot : Nat)
  | cmdRetire (slot : Nat)
  | waitTimeout (slot : Nat)
  | stallTimeout (slot : Nat)
  | ctxWatchdog (ctx : Nat)
  | yield (slot : Nat)
  | loopIteration (slot : Nat)
  | dualPathDecision (slot : Nat)
  -- wagons (R261–R264, R209–R211)
  | wagonArrive (w : Nat)
  | wagonAck (w : Nat)
  | wagonTimeout (w : Nat)
  | readWagonServe (w : Nat) (ev : EccEvent)
  | writeWagonApply (w : Nat)
  | accWagonApply (w : Nat) (ev : EccEvent)
  | pagedWrite (slot : Nat)
  -- the work of a started command
  | matmul (slot : Nat)
  | conv (slot : Nat)
  | attnFwd (slot : Nat)
  | attnBwd (slot : Nat)
  | vecfn (slot : Nat)
  | norm (slot : Nat)
  | copy (slot : Nat)
  | migrate (slot : Nat)
  | reduce (slot : Nat)
  | gather (slot : Nat)
  | permute (slot : Nat)
  | update (slot : Nat)
  | signal (slot : Nat)
  | fence (slot : Nat)
  | stepLoop (slot : Nat)
  | fusedChain (slot : Nat)
  -- signals (R333); the signal stands in SIG_SEL of the master
  | sigBind (mst : Master) (cls ctx : Nat) (v : Word)
  | sigUnbind (mst : Master)
  | sigPost (mst : Master) (pop : Nat) (v : Word)
  | clrsat (mst : Master)
  | sigAdd (mst : Master) (n : Nat) (v : Word)
  -- mailboxes (R418, R419)
  | mbxLockRead (mst : Master) (ch : Nat)
  | mbxLockWrite (mst : Master) (ch : Nat) (v : Word)
  | mbxDbset (mst : Master) (ch : Nat) (v : Word)
  | mbxDbclr (mst : Master) (ch : Nat) (v : Word)
  | mbxMask (mst : Master) (ch : Nat) (v : Word)
  -- update requests (R442): the request words stand in the channel's message words
  | stage (k ch : Nat)
  | stageComplete (writeOk : Bool)
  | status (k ch : Nat)
  | commitSvn (k : Nat) (req : Commit)
  -- power and time-out registers (R414, R461, R464)
  | warm (mst : Master) (v : Word)
  | pwrLtrWrite (mst : Master) (v : Word)
  | pwrTmoWrite (mst : Master) (v : Word)
  -- trace and dump (R474–R482), books (R339)
  | arm (mst : Master) (v : Word)
  | mark (mst : Master) (v : Dword)
  | sample
  | go (mst : Master) (v : Dword)
  | dumpDone
  | resume (mst : Master) (v : Dword)
  | bookTimeout (book : Book)
  -- Rudom links (R345–R354)
  | train (mst : Master) (port : Nat)
  | disable (mst : Master) (port : Nat)
  | flitRx (port : Nat) (bytes : List Byte)
  | replayTimeout (port : Nat)
  | trainTimeout (port : Nat)
  | laneLockLoss (port : Nat)
  | packetRx (port : Nat)
  | rdReq (port : Nat) (p : Packet)
  | wr (port : Nat) (p : Packet)
  | wrMask (port : Nat) (p : Packet)
  | rdRsp (port : Nat) (p : Packet)
  | wrAck (port : Nat) (p : Packet)
  | errRsp (port : Nat) (p : Packet)
  | credit (port : Nat) (p : Packet)
  | creditReturnTimer (port : Nat)
  | creditStall (port vc : Nat)
  -- fabric time (R361–R365)
  | timeExchangeTimer
  | timeReq (port : Nat) (p : Packet)
  | timeRsp (port : Nat) (p : Packet)
  | timeSampleTimeout
  | holdoverTimeout
  | refSyncEdge
  | ttArm (mst : Master)
  -- the sequence-axis ring (R136–R140)
  | ringChunkRx (slot : Nat) (f : RingFrame)
  | ringCreditRx (slot : Nat) (f : RingFrame)
  | ringCancel (port : Nat) (tag : Word)
  | ringTimeout (slot : Nat)
  -- the Yard (R376, R377, R394, R395)
  | openFrame (axis : Nat) (f : YardFrame)
  | grantFrame (axis : Nat) (f : YardFrame)
  | rejectFrame (axis : Nat) (f : YardFrame)
  | dataFrame (axis : Nat) (f : YardFrame)
  | pendingOpenTimeout (entry : Nat)
  | collectiveTimeout (slot : Nat)
  | yardCancel (port : Nat) (tag : Word)
  | drainTimeout (slot : Nat)
  -- host memory (R400, R404–R406)
  | hdmRead (k addr : Nat)
  | hdmWrite (k addr : Nat) (bytes : List Byte)
  | hdmDecoderCommit (k base size ways : Nat)
  | h2dSnoop (k addr : Nat)
  -- attestation (R440, R441)
  | getVersion (k : Nat)
  | getCapabilities (k : Nat)
  | negotiateAlgorithms (k : Nat) (sel : AlgSel)
  | getDigests (k : Nat)
  | getCertificate (k slotId off len : Nat)
  | challenge (k slotId : Nat) (nonce : List Byte)
  | getMeasurements (k index : Nat) (signed : Bool) (nonce : List Byte)
  | unsupportedRequest (k code : Nat)
  -- resets and host links (R399, R413, R494)
  | perstAssert (k : Nat)
  | perstRelease (k : Nat)
  | hostLinkDown (k : Nat)
  | flr (k : Nat)
  | sysRstNAssert (ns : Nat)
  | sysRstNRelease (hpBif sbAddr : Nat)
  -- boot (R434)
  | rom (ok : Bool)
  | flash (placed : Option Placed) (probeOk : Bool)
  | verify (puf : Option (List Byte)) (ctr : CtrResp)
  | fw (ok : Bool)
  | bist (r : BistResult)
  | config
  | configLoadTimeout
  | pllLockTimeout (domain : Nat)
  -- sideband (R495)
  | sbBootStat
  | sbPwrStat
  | sbPwrTemp
  | sbPwrSupply
  | sbGctlInventory
  | sbAlertResponse
  -- supply and heat (R456–R460)
  | supplyWarning (rail : Rail)
  | warningReleased
  | warningReturn
  | holdWindowExpire
  | supplyReset (rail : Rail)
  | throttleTick (tjC0 tjC1 watts : Nat)
  | thermCrit (tjC0 tjC1 tjH : Nat)
  | thermCritClear (tjC0 tjC1 tjH : Nat)
  | thermalTrip (tjC0 tjC1 tjH tHbm : Nat)
  | hbmTempChange (stack temp : Nat)
  -- idle states (R452–R454)
  | idleEntry
  | wake
  | idleExitDone
  -- the remaining rows
  | patrolScrub (stack : Nat) (ev : EccEvent)
  | preemptRetireTimeout (slot : Nat)
  | departureWindow (port : Nat)
  | hostLinkUp (k width speed : Nat) (cxl : Bool)
  | powerUp
  | traceRecordSent
  deriving DecidableEq, Repr

end Sys2Proof
end

