-- ==== Sys2Proof/WellFormed.lean ====
section
/-!
DEFINITION. Well-formed commands: the operands lie in the ranges that the spec gives to command slots, contexts,
queues, ports, host functions, mailbox channels and flits. `exec` is total: an ill-formed command has no effect beyond
what its rule gives.
-/
namespace Sys2Proof

/-- A command slot or wagon owner: 4,096 command slots (R301). -/
def slotOk (slot : Nat) : Bool := decide (slot < 4096)

/-- A context number (R289). -/
def ctxOk (ctx : Nat) : Bool := decide (ctx < 4096)

/-- A submission queue of a context: four (R294). -/
def queueOk (q : Nat) : Bool := decide (q < 4)

/-- A Rudom port 0–7 (00 "Names"). -/
def portOk (p : Nat) : Bool := decide (p < 8)

/-- A host function 0–3 (R398). -/
def hostOk (k : Nat) : Bool := decide (k < 4)

/-- A mailbox channel 0–63 (R415). -/
def chanOk (ch : Nat) : Bool := decide (ch < 64)

/-- A table-unit kind 1–4 and its slot (R149). -/
def tblOk (kind slot : Nat) : Bool :=
  match kind with
  | 1 => decide (slot < 4096)
  | 2 => decide (slot < 4096)
  | 3 => decide (slot < 256)
  | 4 => decide (slot < 8)
  | _ => false

/-- A register offset: in the 64 MiB window of BAR0, or, as 2³² × region + offset, in the 4 KiB of the configuration space (region 1) or the
64 KiB of BAR2 (region 2) or BAR4 (region 4) (R402, log 89). -/
def offOk (off : Nat) : Bool :=
  decide (off < 0x4000000) || (off / 2 ^ 32 == 1 && decide (off % 2 ^ 32 < 0x1000))
    || ((off / 2 ^ 32 == 2 || off / 2 ^ 32 == 4) && decide (off % 2 ^ 32 < 0x10000))

/-- A packet carries whole data slots of 32 bytes, at most 256 (R348). -/
def packetOk (p : Packet) : Bool := p.data.length % 32 == 0 && decide (p.data.length ≤ 8192)

/-- A Yard frame names a coordinate of an axis of at most 32 devices (R355). -/
def yardOk (axis : Nat) (f : YardFrame) : Bool := decide (axis < 4) && decide (f.sender < 32)

/-- The well-formed commands. -/
def Instr.wf : Instr → Bool
  | .registerWrite _ off _ _ => offOk off
  | .lowHalfRead _ acc => offOk acc.off
  | .lowHalfWrite _ off _ => offOk off
  | .highHalfWrite _ off _ => offOk off
  | .bind _ kind slot ctx => tblOk kind slot && ctxOk ctx
  | .unbind _ kind slot => tblOk kind slot
  | .load _ kind slot => tblOk kind slot
  | .swap _ kind slot => tblOk kind slot
  | .sync _ kind slot => tblOk kind slot
  | .map _ kind slot => tblOk kind slot
  | .fork _ kind slot => tblOk kind slot
  | .trim _ kind slot => tblOk kind slot
  | .move _ kind slot => tblOk kind slot
  | .query _ kind slot => tblOk kind slot
  | .count _ kind slot => tblOk kind slot
  | .tableOpComplete _ => true
  | .copyOnWrite slot => slotOk slot
  | .xltInval _ _ => true
  | .xltInvalComplete _ => true
  | .enable _ ctx => ctxOk ctx
  | .preempt _ ctx => ctxOk ctx
  | .ctxSaveDone ctx => ctxOk ctx
  | .restore _ ctx => ctxOk ctx
  | .ctxRestoreDone ctx => ctxOk ctx
  | .reset _ ctx => ctxOk ctx
  | .ctxResetDone ctx => ctxOk ctx
  | .ctxSeedWrite _ ctx _ => ctxOk ctx
  | .ctxStepWrite _ ctx _ => ctxOk ctx
  | .ctxProfWrite _ ctx _ => ctxOk ctx
  | .ctxShareWrite _ ctx _ => ctxOk ctx
  | .sqDoorbell _ ctx q _ => ctxOk ctx && queueOk q
  | .cqHeadWrite _ ctx _ => ctxOk ctx
  | .abort _ ctx q _ => ctxOk ctx && queueOk q
  | .cmdFetch ctx q => ctxOk ctx && queueOk q
  | .cmdAdmit => true
  | .admitTimeout ctx q => ctxOk ctx && queueOk q
  | .cmdStart slot => slotOk slot
  | .cmdRetire slot => slotOk slot
  | .waitTimeout slot => slotOk slot
  | .stallTimeout slot => slotOk slot
  | .ctxWatchdog ctx => ctxOk ctx
  | .yield slot => slotOk slot
  | .loopIteration slot => slotOk slot
  | .dualPathDecision slot => slotOk slot
  | .wagonArrive _ => true
  | .wagonAck _ => true
  | .wagonTimeout _ => true
  | .readWagonServe _ _ => true
  | .writeWagonApply _ => true
  | .accWagonApply _ _ => true
  | .pagedWrite slot => slotOk slot
  | .matmul slot => slotOk slot
  | .conv slot => slotOk slot
  | .attnFwd slot => slotOk slot
  | .attnBwd slot => slotOk slot
  | .vecfn slot => slotOk slot
  | .norm slot => slotOk slot
  | .copy slot => slotOk slot
  | .migrate slot => slotOk slot
  | .reduce slot => slotOk slot
  | .gather slot => slotOk slot
  | .permute slot => slotOk slot
  | .update slot => slotOk slot
  | .signal slot => slotOk slot
  | .fence slot => slotOk slot
  | .stepLoop slot => slotOk slot
  | .fusedChain slot => slotOk slot
  | .sigBind _ cls ctx _ => decide (cls < 2) && ctxOk ctx
  | .sigUnbind _ => true
  | .sigPost _ pop _ => decide (pop < 8)
  | .clrsat _ => true
  | .sigAdd _ n _ => decide (n < 65536)
  | .mbxLockRead _ ch => chanOk ch
  | .mbxLockWrite _ ch _ => chanOk ch
  | .mbxDbset _ ch _ => chanOk ch
  | .mbxDbclr _ ch _ => chanOk ch
  | .mbxMask _ ch _ => chanOk ch
  | .stage k ch => hostOk k && chanOk ch
  | .stageComplete _ => true
  | .status k ch => hostOk k && chanOk ch
  | .commitSvn k req => hostOk k && chanOk req.ch
  | .warm _ _ => true
  | .pwrLtrWrite _ _ => true
  | .pwrTmoWrite _ _ => true
  | .arm _ _ => true
  | .mark _ _ => true
  | .sample => true
  | .go _ _ => true
  | .dumpDone => true
  | .resume _ _ => true
  | .bookTimeout _ => true
  | .train _ port => portOk port
  | .disable _ port => portOk port
  | .flitRx port bytes => portOk port && bytes.length == 272
  | .replayTimeout port => portOk port
  | .trainTimeout port => portOk port
  | .laneLockLoss port => portOk port
  | .packetRx port => portOk port
  | .rdReq port p => portOk port && packetOk p
  | .wr port p => portOk port && packetOk p
  | .wrMask port p => portOk port && packetOk p
  | .rdRsp port p => portOk port && packetOk p
  | .wrAck port p => portOk port && packetOk p
  | .errRsp port p => portOk port && packetOk p
  | .credit port p => portOk port && packetOk p
  | .creditReturnTimer port => portOk port
  | .creditStall port vc => portOk port && decide (vc < 8)
  | .timeExchangeTimer => true
  | .timeReq port p => portOk port && packetOk p
  | .timeRsp port p => portOk port && packetOk p
  | .timeSampleTimeout => true
  | .holdoverTimeout => true
  | .refSyncEdge => true
  | .ttArm _ => true
  | .ringChunkRx slot _ => slotOk slot
  | .ringCreditRx slot _ => slotOk slot
  | .ringCancel port _ => portOk port
  | .ringTimeout slot => slotOk slot
  | .openFrame axis f => yardOk axis f
  | .grantFrame axis f => yardOk axis f
  | .rejectFrame axis f => yardOk axis f
  | .dataFrame axis f => yardOk axis f
  | .pendingOpenTimeout _ => true
  | .collectiveTimeout slot => slotOk slot
  | .yardCancel port _ => portOk port
  | .drainTimeout slot => slotOk slot
  | .hdmRead k _ => hostOk k
  | .hdmWrite k _ bytes => hostOk k && decide (bytes.length ≤ 64)
  | .hdmDecoderCommit k _ _ _ => hostOk k
  | .h2dSnoop k _ => hostOk k
  | .getVersion k => hostOk k
  | .getCapabilities k => hostOk k
  | .negotiateAlgorithms k _ => hostOk k
  | .getDigests k => hostOk k
  | .getCertificate k _ _ _ => hostOk k
  | .challenge k _ nonce => hostOk k && nonce.length == 32
  | .getMeasurements k _ _ nonce => hostOk k && nonce.length == 32
  | .unsupportedRequest k code => hostOk k && decide (code < 256)
  | .perstAssert k => hostOk k
  | .perstRelease k => hostOk k
  | .hostLinkDown k => hostOk k
  | .flr k => hostOk k
  | .sysRstNAssert _ => true
  | .sysRstNRelease hpBif sbAddr => decide (hpBif < 4) && decide (sbAddr < 8)
  | .rom _ => true
  | .flash placed _ =>
    match placed with
    | some p => p.bytes.all (fun e => decide (e.1 < p.size))
    | none => true
  | .verify _ _ => true
  | .fw _ => true
  | .bist _ => true
  | .config => true
  | .configLoadTimeout => true
  | .pllLockTimeout domain => decide (1 ≤ domain) && decide (domain ≤ 24)
  | .sbBootStat => true
  | .sbPwrStat => true
  | .sbPwrTemp => true
  | .sbPwrSupply => true
  | .sbGctlInventory => true
  | .sbAlertResponse => true
  | .supplyWarning _ => true
  | .warningReleased => true
  | .warningReturn => true
  | .holdWindowExpire => true
  | .supplyReset _ => true
  | .throttleTick _ _ _ => true
  | .thermCrit _ _ _ => true
  | .thermCritClear _ _ _ => true
  | .thermalTrip _ _ _ _ => true
  | .hbmTempChange stack _ => decide (stack < 8)
  | .idleEntry => true
  | .wake => true
  | .idleExitDone => true
  | .patrolScrub stack _ => decide (stack < 8)
  | .preemptRetireTimeout slot => slotOk slot
  | .departureWindow port => portOk port
  | .hostLinkUp k _ _ _ => hostOk k
  | .powerUp => true
  | .traceRecordSent => true

end Sys2Proof
end

