-- ==== Sys2Proof/Machine/State.lean ====
section
/-!
DEFINITION. The state of the block: every register, table, queue and counter that the spec gives the SX16, as plain
data, in groups that follow the spec's chapters, and the state right after cold reset. Each field names its rule.
-/
namespace Sys2Proof.Machine

/-- The reasons for which a step stops with a fault. The SX16 reports every error by a status, a log entry or a
register (00_scope.md R12), so no command of the table ends in a fault; the type is closed with one reason. -/
inductive Fault where
  /-- Raised by no command: kept so that the type has a value to name. Safe. -/
  | none
  deriving DecidableEq, Repr

/-- The reasons for which a command is refused. -/
inductive Refusal where
  /-- Raised by `exec`'s arm of a command that has no meaning yet; the mnemonic is the table's. Safe: nothing is
  claimed of the command. -/
  | notModelled (mnemonic : String)
  deriving DecidableEq, Repr

/-! ## Registers' bus, identity, configuration, inventory (chapters 00, 01, 16) -/

/-- A half of a 64-bit register kept between two 32-bit accesses of one master (R8). -/
structure Latch where
  reg  : Nat
  half : Word
  deriving DecidableEq, Repr

/-- The register bus: the read latch and the held low half of each master code (R8), and the data driven in answer to
the last register read. -/
structure BusSt where
  readLatch : Tab (Option Latch)
  writeHold : Tab (Option Latch)
  resp      : Dword
  deriving DecidableEq, Repr

/-- The share of one host function: GCTL_CTX_PART (R289), SIG_PART (R323), MEM_PART (R230), MEM_TSTORE.SIZE_MIB
(R500). -/
structure HostCfg where
  ctxFirst  : Nat
  ctxCount  : Nat
  sigFirst  : Nat
  sigCount  : Nat
  h0Base    : Nat
  h0Size    : Nat
  h1Base    : Nat
  h1Size    : Nat
  dBase     : Nat
  dSize     : Nat
  tstoreMib : Nat
  deriving DecidableEq, Repr

/-- A share of nothing. -/
def HostCfg.zero : HostCfg := ⟨0, 0, 0, 0, 0, 0, 0, 0, 0, 0, 0⟩

/-- FAB_NODE (R355): coordinates and axis sizes less one, in the order D, P, T, S. -/
structure NodeCfg where
  node : Nat
  cd : Nat
  cp : Nat
  ct : Nat
  cs : Nat
  ndM1 : Nat
  npM1 : Nat
  ntM1 : Nat
  nsM1 : Nat
  deriving DecidableEq, Repr

/-- TT_PORTk (R367). -/
structure TtPort where
  periodNs : Nat
  guardNs  : Nat
  nent     : Nat
  deriving DecidableEq, Repr

/-- One departure entry TT_DEPk_n (R367). -/
structure DepEnt where
  offset : Nat
  length : Nat
  cls    : Nat
  deriving DecidableEq, Repr

/-- An export window FAB_EXPn (R360). -/
structure ExpWin where
  en      : Bool
  rd      : Bool
  wrt     : Bool
  nodeLo  : Nat
  nodeHi  : Nat
  baseGib : Nat
  sizeGib : Nat
  deriving DecidableEq, Repr

/-- A mailbox binding MBX_BINDn (R415). -/
structure MbxBind where
  sideA : Nat
  sideB : Nat
  en    : Bool
  sig   : Nat
  deriving DecidableEq, Repr

/-- The operating profiles (R5). -/
inductive Profile where
  | express | freight | sleeper
  deriving DecidableEq, Repr

/-- What the configuration image sets (R428–R432). -/
structure Cfg where
  cfgDone      : Bool
  profile      : Profile
  updHosts     : BitVec 4
  portUse      : BitVec 8
  hosts        : Tab HostCfg
  resGib       : Nat
  scratchUnits : Nat
  scrubHours   : Nat
  wagonCap     : Nat
  node         : NodeCfg
  replayNs     : Nat
  collMs       : Nat
  ttRole       : Nat
  ttUp         : Nat
  ttAlt        : Nat
  ttPort       : Tab TtPort
  /-- departure entries by 1,024 × port + index -/
  dep          : Tab DepEnt
  exp          : Tab ExpWin
  mbxBind      : Tab MbxBind
  /-- QUOTA_CMDS and QUOTA_PLAT by context -/
  quota        : Tab (Nat × Nat)
  deriving DecidableEq, Repr

def NodeCfg.zero : NodeCfg := ⟨0, 0, 0, 0, 0, 0, 0, 0, 0⟩
def TtPort.zero : TtPort := ⟨0, 0, 0⟩
def DepEnt.zero : DepEnt := ⟨0, 0, 0⟩
def ExpWin.zero : ExpWin := ⟨false, false, false, 0, 0, 0, 0⟩
def MbxBind.zero : MbxBind := ⟨0, 0, false, 0⟩

/-- The configuration before the load: zero, with the exceptions of R432 (log 5). -/
def Cfg.reset : Cfg where
  cfgDone := false
  profile := .express
  updHosts := 0
  portUse := 0
  hosts := []
  resGib := 0
  scratchUnits := 0
  scrubHours := 24
  wagonCap := 0
  node := NodeCfg.zero
  replayNs := 500
  collMs := 100
  ttRole := 0
  ttUp := 15
  ttAlt := 15
  ttPort := []
  dep := []
  exp := []
  mbxBind := []
  quota := []

/-- The working inventory found at boot (R16, R26–R28, R234, R237, R341, R449). -/
structure Inventory where
  /-- enabled sites, die × 144 + site index, ascending -/
  sites       : List Nat
  spare0      : Nat
  spare1      : Nat
  pbankSpared : List Nat
  dbankSpared : Nat
  banks       : Nat
  /-- (port, direction 0 transmit / 1 receive, failed lane carried by the spare) -/
  lanes       : List (Nat × Nat × Nat)
  /-- ports held DOWN by two or more failed lanes in a direction -/
  portsBad    : List Nat
  /-- mapped-out pseudo-channels, stack × 64 + 2 × channel + pseudo-channel -/
  mapOut      : List Nat
  stackOk     : List Nat
  routerBad   : List Nat
  engineBad   : List Nat
  /-- HBM rows that the controllers replace, as (stack, 2 × channel + pseudo-channel, row address) (R26, R436) -/
  rowRepairs  : List (Nat × Nat × Nat)
  hostGroups  : List Nat
  /-- clock domains whose PLL failed to lock -/
  pllFailed   : List Nat
  /-- the last self-test saw every unit of R446 that it tests -/
  floorOk     : Bool
  deriving DecidableEq, Repr

/-- No unit is known before self-test (log 5). -/
def Inventory.none : Inventory := ⟨[], 0, 0, [], 0, 0, [], [], [], [], [], [], [], [], [], false⟩

/-! ## Memory tiers (chapter 09) -/

/-- A location in a tier (R227): HBM physical address, Depot offset, Platform of a core site (die × 144 + site) and
offset, host memory of a port, peer HBM of a node. -/
inductive Loc where
  | hbm (pa : Nat)
  | depot (off : Nat)
  | plat (core off : Nat)
  | host (port a : Nat)
  | peer (node pa : Nat)
  deriving DecidableEq, Repr

/-- The correctable-error history of a line (R235, R236): scrub passes in a row with a correctable error, time of the
last log entry. -/
structure EccHist where
  runs   : Nat
  logged : Option Dword
  deriving DecidableEq, Repr

def EccHist.zero : EccHist := ⟨0, none⟩

/-- The memory tiers. Addresses are byte addresses of each tier; a Platform byte of core c at offset o has the key
c × 2^21 + o. An unlisted byte reads as 0x00 (log 3), or, in the Platforms while `platEra` is odd
(after a warm reset), as a free byte (log 4). -/
structure Memories where
  hbm      : Tab Byte
  depot    : Tab Byte
  plat     : Tab Byte
  platEra  : Nat
  /-- host memory: the key of byte a of port k is k × 2^52 + a -/
  host     : Tab Byte
  /-- HBM lines (address / 512) that hold an error; their histories, with those of 64-byte Depot lines from 2^30 on (R235) -/
  ecc      : Tab EccEvent
  eccHist  : Tab EccHist
  scrubPos : Tab Nat
  deriving DecidableEq, Repr

/-- An invalidation in progress (R229): its range, and the number of the first wagon issued after it began. -/
structure Inval where
  ctx   : Nat
  all   : Bool
  vpn   : Nat
  pages : Nat
  upTo  : Nat
  deriving DecidableEq, Repr

/-- A page that the shunting engine holds between steps 2 and 4 of R247: the command, its page number in the list, the
HBM address of its leaf entry, the entry of step 2, the new entry. -/
structure MigHold where
  slot   : Nat
  page   : Nat
  slotPa : Nat
  expect : Nat
  fresh  : Nat
  deriving DecidableEq, Repr

/-- Translation registers (R225, R229) and the pages under migration. -/
structure Xlt where
  /-- MEM_XLT_ROOT (EN, ROOT address) by context -/
  root  : Tab (Bool × Nat)
  /-- MEM_XLT_CTX by master code -/
  sel   : Tab Nat
  /-- the invalidation of each master code, BUSY while listed -/
  inval : Tab (Option Inval)
  mig   : List MigHold
  deriving DecidableEq, Repr

/-! ## Table unit (chapter 06) -/

/-- The bind record of a KV page-table set (R157). -/
structure BindRec where
  kBase : Nat
  vBase : Nat
  layerStride : Nat
  frames : Nat
  frameBytes : Nat
  nseqMax : Nat
  pagesMax : Nat
  layers : Nat
  hkv : Nat
  d : Nat
  segp : Bool
  fmtK : Word
  fmtV : Word
  deriving DecidableEq, Repr

/-- A slot of the table unit (R149, R150). A KV set keeps, in each bank, the page entries of each directory entry; the
reference counts of R163 are computed from the banks. -/
structure TblSlot where
  bound     : Bool
  ctx       : Nat
  gen       : Word
  bankBytes : Nat
  bank0     : List Byte
  bank1     : List Byte
  kv        : Option BindRec
  dir0      : Tab (List Word)
  dir1      : Tab (List Word)
  deriving DecidableEq, Repr

def TblSlot.unbound : TblSlot := ⟨false, 0, 0, 0, [], [], none, [], []⟩

/-- The table-unit registers of one master (R155). -/
structure TblRegs where
  arg0   : Dword
  arg1   : Dword
  arg2   : Dword
  arg3   : Dword
  busy   : Bool
  status : Byte
  result : Word
  /-- outcome of the operation in progress, shown when BUSY falls -/
  pendStatus : Byte
  pendResult : Word
  pendInfo   : Option Dword
  info   : Dword
  deriving DecidableEq, Repr

def TblRegs.zero : TblRegs := ⟨0, 0, 0, 0, false, 0, 0, 0, 0, none, 0⟩

/-- The table unit: slots by kind × 4,096 + slot, registers by master code. -/
structure TblSt where
  slots : Tab TblSlot
  regs  : Tab TblRegs
  deriving DecidableEq, Repr

/-! ## Streams and wagons (chapter 10) -/

/-- The body of a stream descriptor (R258, R259, R159, R282). -/
inductive DescBody where
  | strided (base c0 c1 c2 c3 c4 : Nat) (s1 s2 s3 s4 : Int)
  /-- a block list, with the entries that bursts of its command have read: address, value (R271) -/
  | blocks (list nblk bshift : Nat) (read : List (Nat × Nat))
  | slot (slot plane layer seq0 tok0 : Nat)
  | hand (srcStage srcPlane kind ring ringAddr : Nat)
  deriving DecidableEq, Repr

/-- A stream descriptor as latched at admission (R256). -/
structure Desc where
  acc      : Bool
  early    : Bool
  platAuto : Bool
  ra       : Nat
  watchN   : Nat
  pitch    : Nat
  platOff  : Nat
  body     : DescBody
  deriving DecidableEq, Repr

/-- The wagon kinds (R261). -/
inductive WagonKind where
  | read | write | acc
  deriving DecidableEq, Repr

/-- A wagon to be issued or in flight: its command slot, the descriptor field (byte offset ÷ 8, R308) and stage it
serves, its kind, the location of its line, the masked bytes of a write, the addends of an accumulate-write (element
index, FP32 bits). -/
structure WagonReq where
  slot   : Nat
  stage  : Nat
  field  : Nat
  /-- the core entry, and the tile number of a read (`tileIdx`); `spec` while its tile is speculative (R270) -/
  tile   : Nat
  spec   : Bool
  kind   : WagonKind
  /-- device virtual address of the piece that the wagon serves (R229) -/
  va     : Nat
  line   : Loc
  bytes  : List (Nat × Byte)
  addend : List (Nat × Word)
  /-- the request waited when an invalidation of its translation began (R229) -/
  old    : Bool := false
  deriving DecidableEq, Repr

/-- A wagon in flight (R262–R264): its context, the Rudom port and requester tag of a peer wagon, applied or served by
its target, its read data, its issue time, timed out, its data to be discarded on arrival. -/
structure Wagon where
  id       : Nat
  ctx      : Nat
  port     : Nat
  tag      : Nat
  req      : WagonReq
  issued   : Dword
  /-- when the completion timer expires (R264, R464) -/
  due      : Nat
  served   : Bool
  arrived  : Bool
  data     : List Byte
  bad      : Bool
  timedOut : Bool
  discard  : Bool
  deriving DecidableEq, Repr

/-- Where a tile stands with its consumer (R265): fetched ahead of it, demanded and in consumption, consumed. What a consumed tile held is kept
for the rest of the unit of work that read it (log 7). -/
inductive TileUse where
  | ahead | now | past
  deriving DecidableEq, Repr

/-- The number of tile t of a stream on core entry ci; its parts. -/
def tileIdx (ci t : Nat) : Nat := ci * 2 ^ 64 + t
def tileCore (i : Nat) : Nat := i / 2 ^ 64
def tileNo (i : Nat) : Nat := i % 2 ^ 64

/-- Numbers from here on stand for demands that are no tiles of a stream. -/
def looseTile : Nat := 2 ^ 63

/-- A tile of a stream (R265, R267, R270, R273–R276): stream, tile number (`tileIdx`), its lines with the data that has arrived, its watch window, the number of times a
watched write invalidated it, where it stands. A tile that needs several windows has one entry for each; one ahead without lines has been
attempted, and is fetched only when it is demanded (R264, R270, R276). -/
structure Tile where
  stage  : Nat
  field  : Nat
  idx    : Nat
  lines  : List (Loc × Option (List Byte))
  window : Nat
  hits   : Nat
  use    : TileUse
  deriving DecidableEq, Repr

/-! ## Signals (chapter 12) -/

inductive SigState where
  | free | live | abandoned
  deriving DecidableEq, Repr

/-- An entry of a waiter list (R322): command slot, which of WAIT0–3, WOP and VALUE. -/
structure Waiter where
  slot : Nat
  idx  : Nat
  wop  : Nat
  val  : Word
  deriving DecidableEq, Repr

/-- The last-signaller record (R334). -/
structure LastSig where
  master : Nat
  ctx    : Nat
  queue  : Nat
  pop    : Nat
  seq    : Word
  time   : Dword
  deriving DecidableEq, Repr

def LastSig.zero : LastSig := ⟨0, 0, 0, 0, 0, 0⟩

/-- A signal (R322). -/
structure Signal where
  state      : SigState
  cls        : Nat
  owner      : Nat
  value      : Word
  sat        : Bool
  ownerSaved : Bool
  refs       : Nat
  waiters    : List Waiter
  last       : LastSig
  deriving DecidableEq, Repr

def Signal.free : Signal := ⟨.free, 0, 0, 0, false, false, 0, [], LastSig.zero⟩

/-- The signal registers of one master (R333, R335). -/
structure SigRegs where
  sel    : Nat
  busy   : Bool
  status : Byte
  widx   : Nat
  deriving DecidableEq, Repr

def SigRegs.zero : SigRegs := ⟨0, false, 0, 0⟩

/-- The signal unit: signals by number, registers by master code. -/
structure SigSt where
  sigs : Tab Signal
  regs : Tab SigRegs
  deriving DecidableEq, Repr

/-! ## Commands (chapter 11) -/

/-- A wait or post entry of a record (R296). -/
structure SigEnt where
  sig : Nat
  op  : Nat
  val : Word
  deriving DecidableEq, Repr

/-- A command record (R296), as parsed from its 128 bytes. -/
structure CmdRec where
  opcode   : Nat
  chain    : Bool
  dual     : Bool
  startEn  : Bool
  dlEn     : Bool
  barrier  : Bool
  irq      : Bool
  rngId    : Word
  param    : Nat
  dualRec  : Nat
  tStart   : Dword
  tDead    : Dword
  waitMs   : Nat
  waits    : List SigEnt
  posts    : List SigEnt
  deriving DecidableEq, Repr

/-- One stage of a command: its opcode family, its parameter block, its descriptors by field number (byte offset ÷ 8),
its core list (die × 144 + site), and the records that admission reads whole: the LEN records of an attention command
(R125), the send entries of a PERMUTE (R392). A command without a chain has one stage. -/
structure Stage where
  op    : Nat
  pb    : List Byte
  descs : List (Nat × Desc)
  cores : List Nat
  recs  : List Byte
  deriving DecidableEq, Repr

def Stage.none : Stage := ⟨0, [], [], [], []⟩

/-- The operation counters that records report (R91, R105, R148, R165, R193, R223, R248, R315, R396). -/
inductive Oc where
  | zsSkip | zsReplay | kvCow | zcSpill | attSat | attFm | attSkip | ringBad | vfNan | varClamp
  | migMoved | migPinned | migLost | updSkip | updNonfin | iterDone | bodyErr
  | ydOnebit | ydTopk | ydNonfin | ydBad | ydGen | ydWaitUs | ydDrainUs | ydSent | ydRecv
  deriving DecidableEq, Repr

/-- The accumulators of a command slot (R470). -/
structure Accum where
  fmtSat  : Nat
  fmtFtz  : Nat
  strWaste : Nat
  refetch : Nat
  specFault : Nat
  dpWaste : Nat
  oc      : List (Oc × Nat)
  deriving DecidableEq, Repr

def Accum.zero : Accum := ⟨0, 0, 0, 0, 0, 0, []⟩

/-- What an admitted command holds (R301): Platform ranges (core, first byte, end), watch windows on each core, a Yard
slot, a shunting-engine slot, update-engine slots by stack, pinned pages (context, 64 KiB page). -/
structure Resv where
  plat    : List (Nat × Nat × Nat)
  windows : List (Nat × Nat)
  yard    : Bool
  shunt   : Bool
  engines : List Nat
  pins    : List Nat
  deriving DecidableEq, Repr

def Resv.none : Resv := ⟨[], [], false, false, [], []⟩

/-- Where a command stands between admission and its retire point: waits outstanding, waits satisfied, started, work
done (its wagons may be outstanding). -/
inductive Phase where
  | admitted | ready | started | worked
  deriving DecidableEq, Repr

/-- The phases of a dual-path command (R250). -/
inductive DualPhase where
  | load | branch | main
  deriving DecidableEq, Repr

/-- A piece of what a load reads (R250): logical offset, bytes, the location of the first, and its offset where the location is that of a
compressed page. -/
structure LoadPiece where
  off  : Nat
  len  : Nat
  loc  : Loc
  comp : Option Nat
  deriving DecidableEq, Repr

/-- A dual-path record and checkpoint record as latched, and the state of the load or branch (R249–R253). -/
structure DualSt where
  phase     : DualPhase
  ckpt      : Nat
  stage     : Desc
  alt       : Option Desc
  fmtStage  : Word
  fmtAlt    : Word
  leadNs    : Nat
  branchAlt : Bool
  stored    : Bool
  comp      : Bool
  loc       : Nat
  bytes     : Nat
  ckStep    : Dword
  prog      : Nat
  nprog     : Nat
  path      : Nat
  decided   : Bool
  /-- a load phase has been admitted; the main phase has been admitted (R250) -/
  entered   : Bool
  mainIn    : Bool
  /-- lines of the stored copy that have arrived -/
  got       : List (Loc × List Byte)
  /-- where the bytes that the load, or the conversion of ALT, reads lay when it began -/
  pieces    : List LoadPiece
  need      : Nat
  loadDone  : Bool
  loadBad   : Bool
  progPos   : Nat
  progBusy  : List Nat
  stageDone : Option Dword
  dlMiss    : Bool
  /-- start of the admission wait of the phase or of the next program command -/
  since     : Option Dword
  /-- the command's outputs, as a mask of descriptor fields (R252, R253) -/
  outs      : Word
  deriving DecidableEq, Repr

/-- A running STEP_LOOP (R313–R315). -/
structure LoopSt where
  count   : Nat
  body    : Nat
  nbody   : Nat
  lag     : Nat
  stopErr : Bool
  allCmpl : Bool
  iter    : Nat
  pos     : Nat
  recs    : List (List Byte)
  began   : Bool
  stopped : Bool
  /-- unretired body commands as (iteration, body index) -/
  live    : List (Nat × Nat)
  /-- worst status of a body command (R11, R315), and the DETAIL that came with a TIMEOUT -/
  worst   : Byte
  worstDetail : Byte
  /-- fetch time of the iteration's records and the start of the next body command's admission wait -/
  fetchedAt : Dword
  since   : Option Dword
  deriving DecidableEq, Repr

/-- The merge state of a query row (R117). -/
structure RowSt where
  row : Nat
  f   : Option Int
  l   : Word
  o   : List Word
  deriving DecidableEq, Repr

/-- The ring state of an attention command (R135–R140): current step, merge rows, frames expected, chunks present,
credits of the downstream neighbour. -/
structure RingSt where
  stage   : Nat
  step    : Nat
  rows    : List RowSt
  /-- FP32 accumulators of dQ, dK, dV (R146) -/
  acc     : List (List Word)
  rxStep  : Nat
  rxOff   : Nat
  present : List Nat
  credits : Nat
  sent    : Nat
  accIn   : Bool
  /-- when the wait for the next chunk, or for the own accumulators, and the wait for a credit began (R140) -/
  waitFrom : Dword
  creditFrom : Dword
  /-- slots whose onward send is not yet acknowledged: credits owed to the S− neighbour (R135) -/
  owed    : Nat
  deriving DecidableEq, Repr

/-- A frame of a Yard command that waits for a credit: destination coordinate, the port that its direction names, the last
frame of a send entry (R376, R381, R392). -/
structure YOut where
  dest : Nat
  via  : Option Nat
  last : Bool
  f    : YardFrame
  deriving DecidableEq, Repr

/-- One direction of a REDUCE or GATHER schedule (R381): chunks received so far in the scatter and gather phases,
bytes of the chunk in progress and its encoding. -/
structure YHalf where
  dir  : Nat
  k    : Nat
  buf  : List Byte
  enc  : Nat
  deriving DecidableEq, Repr

/-- A started Yard command (R376–R395). -/
structure YardSt where
  axis   : Nat
  size   : Nat
  own    : Nat
  opened : List Nat
  credit : Tab Nat
  sendQ  : List YOut
  halves : List YHalf
  gens   : List Nat
  recvd  : Nat
  /-- DATA frames in staging that the Yard has not taken up (R377) -/
  landed : List YardFrame
  /-- the inputs have been read and the first frames prepared -/
  begun  : Bool
  waitFrom : Dword
  grants : Tab Nat
  deriving DecidableEq, Repr

/-- A paged write that has not yet landed (R162, R165). -/
structure PagedReq where
  stage : Nat
  field : Nat
  slot  : Nat
  bank  : Nat
  plane : Nat
  layer : Nat
  seq   : Nat
  page  : Nat
  /-- runs of bytes: offset in the frame, bytes -/
  segs  : List (Nat × List Byte)
  deriving DecidableEq, Repr

/-- A word that a command writes at its retire point (R498): its device virtual address and its bytes, or one added to
the 32-bit word there (R220). -/
structure RetireWord where
  va    : Nat
  bytes : List Byte
  incr  : Bool
  deriving DecidableEq, Repr

/-- A command in a command slot. -/
structure Cmd where
  ctx     : Nat
  queue   : Nat
  seq     : Word
  /-- body index of a loop body command, with the loop's slot and iteration -/
  body    : Option (Nat × Nat × Nat)
  /-- key of the parked dual-path command whose recompute program holds this command -/
  parent  : Option Nat
  crec     : CmdRec
  raw     : List Byte
  stages  : List Stage
  phase   : Phase
  status  : Option (Byte × Byte)
  failStage : Nat
  latches : List (Nat × Nat × Word)
  seed    : Dword
  step    : Dword
  resv    : Resv
  held    : List (Nat × Word)
  order   : Nat
  fetchedAt : Dword
  admitAt : Dword
  waitLeft : Nat
  waitAt  : Dword
  startAt : Dword
  /-- when the stall watchdog of a started command expires, on the command clock (R316, R464) -/
  stallBy : Nat
  acc     : Accum
  indMask : Word
  indAll  : Bool
  indStage : Bool
  indPart : Bool
  indLine : Bool
  errSeq  : Option Word
  info    : Byte
  dual    : Option DualSt
  loop    : Option LoopSt
  /-- pages that a MIGRATE has dealt with (R247) -/
  mig     : Nat
  /-- the first unit of work that has not been done (R74, R134, R185, R192, R222) -/
  pos     : Nat
  ring    : Option RingSt
  /-- stages that have gone round their ring, with their rows (R135) -/
  rung    : List (Nat × List RowSt)
  yard    : Option YardSt
  outQ    : List WagonReq
  paged   : List PagedReq
  tiles   : List Tile
  /-- steps of consumption that the next unit of work has begun (R265, R267) -/
  eaten   : Nat
  /-- block-list entries that the streams' bursts have read: address, value (R271) -/
  bursts  : List (Nat × Nat)
  /-- bytes of 4-bit planes of which one half is final (R269): stage, field, offset, byte -/
  halves  : List (Nat × Nat × Nat × Byte)
  /-- pool lines that the busy cores have used of their slices (R105) -/
  zcUsed  : List Nat
  /-- the control word that an UPDATE has read (R216) -/
  control : Option (List Byte)
  /-- words of the command's own that are written at the retire point (R498) -/
  atRetire : List RetireWord
  yielded : Bool
  /-- a GATHER has taken its lease, an UPDATE has set UPD (R390); the start of the wait on UPD or LEASES -/
  leased  : Bool
  leaseAt : Option Dword
  /-- core-cycles used (R302; log 45) -/
  coreCyc : Nat
  deriving DecidableEq, Repr

/-- A fetched record that is not yet admitted (R295): SEQ, bytes, fabric time of the fetch, start of its admission
wait on the admission clock (R303). -/
structure Fetched where
  seq   : Word
  raw   : List Byte
  at_   : Dword
  since : Option Dword
  deriving DecidableEq, Repr

/-- A submission queue (R294, R295); `dead` holds the SEQs of unfetched commands that an abort has ended (R307). -/
structure Sq where
  log2n : Nat
  addr  : Nat
  tail  : Word
  head  : Word
  recs  : List Fetched
  fault : Bool
  dead  : List Word
  deriving DecidableEq, Repr

def Sq.zero : Sq := ⟨0, 0, 0, 0, [], false, []⟩

/-- A completion record that waits for room or for a translation (R312): its bytes without PHASE, IRQ of its command,
the fault already logged. -/
structure CqRec where
  bytes  : List Byte
  irq    : Bool
  logged : Bool
  deriving DecidableEq, Repr

/-- The completion queue (R294, R312). -/
structure Cq where
  log2n   : Nat
  addr    : Nat
  head    : Word
  tail    : Word
  waiting : List CqRec
  deriving DecidableEq, Repr

inductive CtxState where
  | off | on | preempting | saved | restoring | resetting
  deriving DecidableEq, Repr

/-- What a pre-emption saved (R319): command records, signal records (number, class), partial regions
(core, offset, bytes). -/
structure Saved where
  cmds  : List Cmd
  sigs  : List (Nat × Nat)
  parts : List (Nat × Nat × List Byte)
  deriving DecidableEq, Repr

/-- A context (R289–R294, R300–R320). -/
structure Ctx where
  state   : CtxState
  fault   : Bool
  seed    : Dword
  step    : Dword
  dlStrict : Bool
  detOrder : Bool
  noZspec : Bool
  noEarly : Bool
  cmdLimit : Nat
  weight  : Nat
  admitMs : Nat
  wdogS   : Nat
  saveSize : Nat
  saveAddr : Nat
  sq0     : Sq
  sq1     : Sq
  sq2     : Sq
  sq3     : Sq
  cq      : Cq
  abortBusy : Bool
  abortRes : Byte
  irqVec  : Nat
  irqEn   : Bool
  vtime   : Nat
  /-- start of the context watchdog period on the command clock (R317) -/
  wdogFrom : Option Dword
  /-- when a command that must run to its retire point is ended, on the command clock (R318, R464) -/
  preemptBy : Nat
  saved   : Option Saved
  deriving DecidableEq, Repr

def Ctx.zero : Ctx where
  state := .off
  fault := false
  seed := 0
  step := 0
  dlStrict := false
  detOrder := false
  noZspec := false
  noEarly := false
  cmdLimit := 0
  weight := 1
  admitMs := 10
  wdogS := 10
  saveSize := 0
  saveAddr := 0
  sq0 := Sq.zero
  sq1 := Sq.zero
  sq2 := Sq.zero
  sq3 := Sq.zero
  cq := ⟨0, 0, 0, 0, []⟩
  abortBusy := false
  abortRes := 0
  irqVec := 2
  irqEn := false
  vtime := 0
  wdogFrom := none
  preemptBy := 0
  saved := none

/-- Command slots and wagons (R262, R301). `order` numbers admissions, `nextId` wagons. Keys 0–4,095 are the command
slots; a key from 4,096 on holds a dual-path command between its phases, when it holds no slot (R250). -/
structure CmdSt where
  slots  : Tab (Option Cmd)
  wagons : List Wagon
  order  : Nat
  nextId : Nat
  /-- the unit that each pool of tags has granted last (R263) -/
  turns  : Tab Nat
  deriving DecidableEq, Repr

/-! ## The Yard (chapter 14) -/

/-- An entry of the job table (R373). -/
structure Job where
  job   : Nat
  ctx   : Nat
  epoch : Half
  drain : Bool
  deriving DecidableEq, Repr

/-- An entry of the lease table (R390). -/
structure Lease where
  paddr  : Nat
  ctx    : Nat
  leases : Nat
  upd    : Bool
  gen    : Word
  deriving DecidableEq, Repr

/-- An OPEN held in the pending table (R376): axis, frame, time on the command clock. -/
structure PendOpen where
  axis : Nat
  f    : YardFrame
  at_  : Dword
  deriving DecidableEq, Repr

structure YardTabs where
  jobs     : Tab (Option Job)
  leases   : Tab (Option Lease)
  pend     : List PendOpen
  jobSel   : Tab Nat
  leaseSel : Tab Nat
  /-- the command slot that each port served last (R374) -/
  served   : Tab Nat
  deriving DecidableEq, Repr

/-! ## Rudom ports (chapter 13) -/

inductive PortState where
  | off | down | training | up | retraining
  deriving DecidableEq, Repr

/-- A flit (R343): header fields and the 256 body bytes. -/
structure Flit where
  ftype : Nat
  first : Nat
  seq   : BitVec 12
  ack   : BitVec 12
  ackV  : Bool
  nak   : Bool
  rpl   : Bool
  body  : List Byte
  deriving DecidableEq, Repr

/-- A packet that waits for credits, with the wagon or command that sent it, or the port and channel on which a transit
packet arrived (R350, R354). `since` is the time from which it has been first of its channel (R350). -/
structure TxPkt where
  p       : Packet
  wagon   : Option Nat
  slot    : Option Nat
  from_   : Option (Nat × Nat)
  since   : Dword
  deriving DecidableEq, Repr

/-- A packet that lies in the replay buffer (R352, R354): SEQ of its last flit, the wagon or command that sent it, its
channel and slots. -/
structure ReplayEnt where
  seq   : BitVec 12
  wagon : Option Nat
  slot  : Option Nat
  vc    : Nat
  slots : Nat
  deriving DecidableEq, Repr

structure Port where
  state    : PortState
  spareTx  : Bool
  txLane   : Nat
  spareRx  : Bool
  rxLane   : Nat
  peerNode : Nat
  peerPort : Nat
  reason   : Nat
  retrains : Nat
  crcErr   : Nat
  replays  : Nat
  txSeq    : BitVec 12
  rxNext   : BitVec 12
  ackV     : Bool
  nakDue   : Bool
  nakGone  : Bool
  /-- unacknowledged flits with the time each was last sent (R346) -/
  replay   : List (Dword × Flit)
  inReplay : List ReplayEnt
  /-- replays that have not advanced ACK -/
  runs     : Nat
  tstate   : Nat
  good     : Nat
  doneSent : Bool
  attempt  : Nat
  trainAt  : Dword
  credits  : Tab Nat
  /-- counts advertised by the peer in its TRAIN flits (R353) -/
  adv      : Tab Nat
  ret      : Tab Nat
  retAt    : Dword
  queues   : Tab (List TxPkt)
  /-- slots received and not yet taken up, and which of them came in replayed flits -/
  rxSlots  : List Byte
  rxRpl    : List Bool
  sent     : List Flit
  /-- when the last slot of the packets sent leaves, in hundredths of a ns of `TimeSt.clk` (R342, R368) -/
  busyTo   : Nat
  rr       : Nat
  /-- by channel, the time from which on a missed departure window is reported (R473, log 120) -/
  missed   : Tab Nat
  /-- the port has been UP since the last cold start: its lane map is in service (R27, R341) -/
  served   : Bool
  /-- when the first bit of each received slot that is not taken up crossed the serialiser (R363) -/
  rxAt     : List Dword
  /-- when the TIME request of an exchange number left (R363); none when it left again in a replay -/
  reqAt    : Tab (Option Dword)
  deriving DecidableEq, Repr

def Port.reset : Port where
  state := .off
  spareTx := false
  txLane := 15
  spareRx := false
  rxLane := 15
  peerNode := 0
  peerPort := 0
  reason := 0
  retrains := 0
  crcErr := 0
  replays := 0
  txSeq := 0
  rxNext := 0
  ackV := false
  nakDue := false
  nakGone := false
  replay := []
  inReplay := []
  runs := 0
  tstate := 0
  good := 0
  doneSent := false
  attempt := 0
  trainAt := 0
  credits := []
  adv := []
  ret := []
  retAt := 0
  queues := []
  rxSlots := []
  rxRpl := []
  sent := []
  busyTo := 0
  rr := 0
  missed := []
  served := false
  rxAt := []
  reqAt := []

/-- A BULK frame in reassembly: the port it comes in by, source node, stream tag, bytes so far (R349, R375, R137). -/
structure FrameBuf where
  port : Nat
  src  : Nat
  tag  : Word
  got  : List Byte
  deriving DecidableEq, Repr

structure FabSt where
  ports  : Tab Port
  frames : List FrameBuf
  /-- packets whose DST is this device's own NODE and that this device sent (R356) -/
  loop   : List Packet
  deriving DecidableEq, Repr

/-! ## Fabric time (chapter 13) -/

structure TimeSt where
  now      : Dword
  /-- fabric time since cold reset without its steps: intervals are measured by it (R464) -/
  clk      : Dword
  /-- the command clock: `clk` less the time frozen by a hang dump (R480) -/
  cmdClk   : Dword
  /-- the admission clock: the command clock less the time of supply warnings (R456) -/
  admClk   : Dword
  /-- ticks since the last slewed tick, 0–999, and the correction in ns still to slew (R361) -/
  phase    : Nat
  slew     : Int
  next     : Dword
  armed    : Bool
  loaded   : Bool
  badEdges : Nat
  locked   : Bool
  timeOk   : Bool
  holdover : Bool
  srcPort  : Nat
  hops     : Nat
  offset   : Int
  /-- twice the last valid offsets, oldest first (R363) -/
  samples  : List Int
  stepped  : Bool
  reqs     : List (Nat × Dword)
  nextTag  : Nat
  lastReq  : Dword
  lastOk   : Dword
  holdFrom : Dword
  /-- while no port serves, ALT_PORT is the one tried (R365) -/
  tryAlt   : Bool
  /-- slewed ticks of the last 1.024 ms, and in holdover their sum and what is left of it (R365) -/
  slews    : List (Dword × Int)
  holdSum  : Int
  holdAcc  : Int
  /-- the 10 ms of this holdover are over (R365, R371) -/
  expired  : Bool
  deriving DecidableEq, Repr

/-! ## Host functions and mailboxes (chapter 15) -/

/-- The types of measurement blocks (R441). -/
inductive MeasType where
  | immutableRom | mutableFirmware | firmwareConfig | hardwareConfig
  deriving DecidableEq, Repr

/-- A measurement block (R441): index, type, raw form or digest, value. -/
structure Meas where
  index : Nat
  type  : MeasType
  raw   : Bool
  value : List Byte
  deriving DecidableEq, Repr

/-- A hash algorithm as SPDM names it (R440). -/
inductive HashAlg where
  | sha3_512
  deriving DecidableEq, Repr

/-- An external asymmetric algorithm (R440): the vendor under the registry PCI-SIG, and the algorithm. -/
structure ExtAlg where
  vendor : Nat
  alg    : Nat
  deriving DecidableEq, Repr

/-- The answers of the SPDM responder (R440, R441). -/
inductive SpdmResp where
  | version (v : Nat)
  | capabilities (cert chal measSig : Bool) (ctExponent : Nat)
  | algorithms (baseHash measHash : HashAlg) (baseAsym : List Nat) (extAsym : List ExtAlg)
  | digests (slotMask : Nat) (digest : List Byte)
  | certificate (portion : List Byte) (remainder : Nat)
  | challengeAuth (certHash nonce measHash sig : List Byte)
  | measurements (blocks : List Meas) (nonce sig : List Byte)
  | errUnsupported (code : Nat)
  | errUnspecified
  | errInvalid
  deriving DecidableEq, Repr

/-- A data object of the DOE mailbox (R440): vendor, type, and the answer it carries. -/
structure DoeObj where
  vendor : Nat
  type   : Nat
  resp   : SpdmResp
  deriving DecidableEq, Repr

/-- What leaves on the ordered stream of a host function (R408): a posted write of data, a completion record, an MSI-X
message. -/
inductive HostMsg where
  | data (addr : Nat) (bytes : List (Nat × Byte))
  | record (addr : Nat)
  | msix (vector : Nat)
  deriving DecidableEq, Repr

/-- An entry of the MSI-X table (R402, R411): message address, message data, and the mask of its vector control. A vector is
masked when a function is reset (PRESUMED, PCI Express; log 42). -/
structure MsixEnt where
  addr : Dword
  data : Word
  mask : Bool
  deriving DecidableEq, Repr

def MsixEnt.reset : MsixEnt := ⟨0, 0, true⟩

/-- A host function (R398–R414). `msixTab` and `msixPend` are its MSI-X table and pending bits; `pci` holds the writable
words of its configuration space and of its HDM decoder registers (R400–R402), by the keys of Machine/PciCfg.lean. -/
structure HostFn where
  present  : Bool
  perst    : Bool
  width    : Nat
  speed    : Nat
  cxl      : Bool
  decBase  : Nat
  decSize  : Nat
  committed : Bool
  decErr   : Bool
  memActive : Bool
  ltrValue : Nat
  ltrScale : Nat
  ltrReq   : Bool
  pci      : Tab Word
  msixTab  : Tab MsixEnt
  msixPend : List Nat
  stream   : List HostMsg
  rdData   : List Byte
  /-- completions of CXL.mem writes (Cmp, R406) that have been sent -/
  cmps     : Nat
  snoop    : Bool
  doe      : Option DoeObj
  negotiated : Bool
  spdmCount : Nat
  deriving DecidableEq, Repr

def HostFn.reset : HostFn where
  present := false
  perst := false
  width := 0
  speed := 0
  cxl := false
  decBase := 0
  decSize := 0
  committed := false
  decErr := false
  memActive := false
  ltrValue := 0
  ltrScale := 0
  ltrReq := true
  pci := []
  msixTab := []
  msixPend := []
  stream := []
  rdData := []
  cmps := 0
  snoop := false
  doe := none
  negotiated := false
  spdmCount := 0

/-- A mailbox channel (R417–R421). -/
structure Chan where
  owner : Nat
  db    : Word
  mask  : Word
  msg   : Tab Word
  deriving DecidableEq, Repr

def Chan.reset : Chan := ⟨0, 0, 0xFFFFFFFF, []⟩

structure MbxSt where
  chans : Tab Chan
  /-- mailbox interrupts delivered to the management core (R420) -/
  mIrq  : Nat
  deriving DecidableEq, Repr

/-! ## Boot and trust (chapter 16) -/

inductive StageState where
  | idle | busy | done | failed
  deriving DecidableEq, Repr

/-- The update in progress or last done (R442, R443). -/
structure UpdSt where
  state  : StageState
  fail   : Byte
  host   : Nat
  chan   : Nat
  tag    : Half
  /-- FAIL_CODE that steps 1 and 2 of R443 found, reported when the STAGE ends -/
  found  : Nat
  image  : List Byte
  deriving DecidableEq, Repr

structure BootSt where
  phase    : Nat
  /-- phase 0x1 has passed: the management core answers the sideband (R495) -/
  romOk    : Bool
  slot     : Nat
  fallback : Bool
  repairOk : Bool
  idOk     : Bool
  rbProt   : Bool
  serviceable : Bool
  failCode : Byte
  failSect : Nat
  failRec  : Nat
  svn      : Word
  slotSeq  : Word
  counter  : Word
  ctrPresent : Bool
  ctrKeySet : Bool
  /-- the counter of the flash that is attached (R427) -/
  fctr     : Option FlashCtr
  flashSize : Nat
  flash    : Tab Byte
  flashHiZ : Bool
  tried    : List Nat
  tLoad    : Dword
  /-- start of phase BIST, which the load timeout leaves out (R433) -/
  bistAt   : Dword
  straps   : Nat
  sbAddr   : Nat
  devReady : Bool
  cdi      : List Byte
  ctrKey   : List Byte
  aliasPk  : List Byte
  aliasSk  : List Byte
  aliasCert : List Byte
  devCert  : List Byte
  /-- the start of management-core memory, where HENESH is loaded, and the byte at which it was entered (R425) -/
  mgmtMem  : List Byte
  mgmtEntry : Option Nat
  /-- the power-up state of the 8 KiB PUF SRAM, once the ROM has read it (R437) -/
  pufSram  : List Byte
  /-- secrets of layer 0 still held: PUF key, UDS, DeviceID private key (R438) -/
  pufKey   : List Byte
  uds      : List Byte
  devSk    : List Byte
  pufLocked : Bool
  upd      : UpdSt
  deriving DecidableEq, Repr

/-! ## Power (chapter 17) -/

/-- A request of a host that has been accepted and waits for the path it needs (R454): a read or a write of HBM, its address translated at
acceptance, or a register access. -/
inductive HeldReq where
  | hdmRead (k pa : Nat)
  | hdmWrite (k pa : Nat) (bytes : List Byte)
  | access (mst : Master) (i : Instr)
  deriving DecidableEq, Repr

structure PwrSt where
  state    : Nat
  trans    : Bool
  target   : Nat
  exiting  : Bool
  /-- clock steps of thermal throttling by die, and of the power cap (R458) -/
  thC0     : Nat
  thC1     : Nat
  capStep  : Nat
  warn     : Bool
  admitStop : Bool
  holdExp  : Bool
  thermCrit : Bool
  rstCause : Nat
  idleEn   : Nat
  cap      : Nat
  tjC0     : Nat
  tjC1     : Nat
  tjH      : Nat
  tHbm     : Tab Nat
  warnEvents : Nat
  holdExpired : Nat
  critEvents : Nat
  wagonUs  : Nat
  stallMs  : Nat
  warnAt   : Dword
  releasedAt : Option Dword
  idleSince : Option Dword
  entryAt  : Dword
  /-- the last step down, and the start of the time toward a step up, of die 0, die 1 (keys 0, 1) and the cap (key 2) -/
  downAt   : Tab Dword
  upAt     : Tab Dword
  trip     : Bool
  inReset  : Bool
  fastRefresh : List Nat
  halfRate : List Nat
  /-- requests of hosts that wait for the path they need (R454) -/
  held     : List HeldReq
  /-- a warm reset waits for the contexts that it resets (R461) -/
  warming  : Bool
  sbResp   : Option (List Byte)
  deriving DecidableEq, Repr

/-! ## Error log, trace, dump (chapter 18) -/

/-- An error-log entry (R471). -/
structure ErrEnt where
  seq    : Word
  status : Byte
  master : Nat
  host   : Nat
  unit   : Nat
  time   : Dword
  addr   : Nat
  ctx    : Nat
  where_ : Nat
  index  : Nat
  rep    : Nat
  detail : Nat
  deriving DecidableEq, Repr

structure ErrLog where
  next    : Word
  entries : List ErrEnt
  sel     : Tab Word
  deriving DecidableEq, Repr

/-- A trace record (R473). -/
structure TrcRec where
  type  : Nat
  src   : Nat
  ctx   : Nat
  queue : Nat
  seq   : Word
  time  : Dword
  a     : Dword
  b     : Dword
  deriving DecidableEq, Repr

/-- A run of dropped records (R475, R476): count and time of the first. -/
structure Gap where
  count : Nat
  first : Dword
  deriving DecidableEq, Repr

/-- A record in the FIFO of its source; a MARK with TRIG fires the trigger when it is written (R476, R477). -/
structure Emission where
  rec_  : TrcRec
  fires : Bool
  deriving DecidableEq, Repr

/-- The FIFO of a trace source, 64 records deep, and the run of records dropped since it filled (R476). -/
structure Fifo where
  recs : List Emission
  lost : Gap
  deriving DecidableEq, Repr

def Fifo.empty : Fifo := ⟨[], ⟨0, 0⟩⟩

structure DumpSt where
  autoWdog : Bool
  autoBook : Bool
  withPlat : Bool
  withDepot : Bool
  busy     : Bool
  done     : Bool
  addr     : Nat
  at_      : Dword
  cause    : Word
  n        : Nat
  /-- context whose watchdog reset waits for the dump (R480) -/
  wdogCtx  : Option Nat
  /-- commands that software gave during the freeze and whose effect the freeze holds back (R480) -/
  held     : List Instr
  /-- the state captured at the freeze instant, not yet written: HBM addresses and bytes (R480, R482) -/
  image    : List (Nat × List Byte)
  deriving DecidableEq, Repr

structure TrcSt where
  en       : Bool
  mode     : Nat
  post     : Nat
  portEn   : Bool
  sampleUs : Nat
  types    : BitVec 16
  filtCtx  : Bool
  ctxSel   : Nat
  onErr    : Bool
  onFail   : Bool
  onSig    : Bool
  onDep    : Bool
  sigNum   : Nat
  buf      : List TrcRec
  headGap  : Gap
  tailGap  : Option Gap
  triggered : Bool
  share    : Option Nat
  frozen   : Bool
  dropped  : Nat
  sampleList : List Nat
  sampleAt : Dword
  sent     : List TrcRec
  /-- the sources' FIFOs, by SRC (R476) -/
  fifos    : Tab Fifo
  /-- turns of the hub at the FIFOs, the model's counter for a free value (log 40) -/
  turn     : Nat
  dump     : DumpSt
  deriving DecidableEq, Repr

/-! ## The whole state -/

/-- The state of the block. `pending` is the queue of commands that wait, first in first out (log 1). -/
structure State where
  pending  : List Instr
  stepping : BitVec 4
  bus      : BusSt
  cfg      : Cfg
  inv      : Inventory
  boot     : BootSt
  time     : TimeSt
  log      : ErrLog
  /-- the CNT_ arrays by register offset (R469) -/
  cnt      : Tab Dword
  trc      : TrcSt
  mem      : Memories
  xlt      : Xlt
  tbl      : TblSt
  ctxs     : Tab Ctx
  cmds     : CmdSt
  sig      : SigSt
  yard     : YardTabs
  fab      : FabSt
  hosts    : Tab HostFn
  mbx      : MbxSt
  pwr      : PwrSt
  deriving DecidableEq, Repr

def BootSt.reset : BootSt where
  phase := 0
  romOk := false
  slot := 0
  fallback := false
  repairOk := false
  idOk := false
  rbProt := false
  serviceable := false
  failCode := 0
  failSect := 0
  failRec := 0
  svn := 0
  slotSeq := 0
  counter := 0
  ctrPresent := false
  ctrKeySet := false
  fctr := none
  flashSize := 0
  flash := []
  flashHiZ := false
  tried := []
  tLoad := 0
  bistAt := 0
  straps := 0
  sbAddr := 0
  devReady := false
  cdi := []
  ctrKey := []
  aliasPk := []
  aliasSk := []
  aliasCert := []
  devCert := []
  mgmtMem := []
  mgmtEntry := none
  pufSram := []
  pufKey := []
  uds := []
  devSk := []
  pufLocked := false
  upd := ⟨.idle, 0, 0, 0, 0, 0, []⟩

def TimeSt.reset : TimeSt where
  now := 0
  clk := 0
  cmdClk := 0
  admClk := 0
  phase := 0
  slew := 0
  next := 0
  armed := false
  loaded := false
  badEdges := 0
  locked := false
  timeOk := false
  holdover := false
  srcPort := 15
  hops := 0
  offset := 0
  samples := []
  stepped := false
  reqs := []
  nextTag := 0
  lastReq := 0
  lastOk := 0
  holdFrom := 0
  tryAlt := false
  slews := []
  holdSum := 0
  holdAcc := 0
  expired := false

def PwrSt.reset : PwrSt where
  state := 0
  trans := false
  target := 0
  exiting := false
  thC0 := 0
  thC1 := 0
  capStep := 0
  warn := false
  admitStop := false
  holdExp := false
  thermCrit := false
  rstCause := 0
  idleEn := 7
  cap := 400
  tjC0 := 0
  tjC1 := 0
  tjH := 0
  tHbm := []
  warnEvents := 0
  holdExpired := 0
  critEvents := 0
  wagonUs := 50
  stallMs := 10
  warnAt := 0
  releasedAt := none
  idleSince := none
  entryAt := 0
  downAt := []
  upAt := []
  trip := false
  inReset := false
  fastRefresh := []
  halfRate := []
  held := []
  warming := false
  sbResp := none

def TrcSt.reset : TrcSt where
  en := false
  mode := 2
  post := 4
  portEn := false
  sampleUs := 0
  types := 0x3FFE
  filtCtx := false
  ctxSel := 0
  onErr := true
  onFail := false
  onSig := false
  onDep := false
  sigNum := 0
  buf := []
  headGap := ⟨0, 0⟩
  tailGap := none
  triggered := false
  share := none
  frozen := false
  dropped := 0
  sampleList := []
  sampleAt := 0
  sent := []
  fifos := []
  turn := 0
  dump := ⟨false, false, false, false, false, false, 0, 0, 0, 0, none, [], []⟩

/-- The block right after cold reset (R460, R463): every register at the value the spec states; boot has not begun, so
CFG_DONE = 0 and every "image" and "boot" field is at the value of log 5; no memory byte is listed; the queue is
empty. -/
def State.reset : State where
  pending := []
  stepping := 0
  bus := ⟨[], [], 0⟩
  cfg := Cfg.reset
  inv := Inventory.none
  boot := BootSt.reset
  time := TimeSt.reset
  log := ⟨0, [], []⟩
  cnt := []
  trc := TrcSt.reset
  mem := ⟨[], [], [], 0, [], [], [], []⟩
  xlt := ⟨[], [], [], []⟩
  tbl := ⟨[], []⟩
  ctxs := []
  cmds := ⟨[], [], 0, 0, []⟩
  sig := ⟨[], []⟩
  yard := ⟨[], [], [], [], [], []⟩
  fab := ⟨[], [], []⟩
  hosts := []
  mbx := ⟨[], 0⟩
  pwr := PwrSt.reset

end Sys2Proof.Machine
end

