-- ==== Sys2Proof/Machine/Bits.lean ====
section
/-!
DEFINITION. Bit fields, little-endian bytes (R6) and slices of byte lists.
-/
namespace Sys2Proof.Machine

/-- Bits [hi:lo] of a number. -/
def field (x hi lo : Nat) : Nat := (x / 2 ^ lo) % 2 ^ (hi + 1 - lo)

/-- Bit `i` of a number. -/
def bitAt (x i : Nat) : Bool := (x / 2 ^ i) % 2 == 1

/-- The number `v` placed at bit `lo`. -/
def putAt (v lo : Nat) : Nat := v * 2 ^ lo

/-- A flag placed at bit `lo`. -/
def flagAt (b : Bool) (lo : Nat) : Nat := if b then 2 ^ lo else 0

/-- The number of a flag. -/
def b2n (b : Bool) : Nat := if b then 1 else 0

/-- A number of `w` bits read as two's complement. -/
def signed (w x : Nat) : Int := if x % 2 ^ w < 2 ^ (w - 1) then (x % 2 ^ w : Nat) else ((x % 2 ^ w : Nat) : Int) - (2 ^ w : Nat)

/-- The two's complement of `w` bits of an integer. -/
def unsign (w : Nat) (x : Int) : Nat := (x % ((2 ^ w : Nat) : Int)).toNat

/-- The number of a little-endian byte list (R6). -/
def leNat : List Byte → Nat
  | [] => 0
  | b :: t => b.toNat + 256 * leNat t

/-- `n` little-endian bytes of a number (R6). -/
def toLe : Nat → Nat → List Byte
  | 0, _ => []
  | n + 1, v => BitVec.ofNat 8 v :: toLe n (v / 256)

/-- `n` bytes of a list from `off`; bytes past its end read as zero. -/
def slice (l : List Byte) (off n : Nat) : List Byte :=
  let t := (l.drop off).take n
  t ++ List.replicate (n - t.length) 0

/-- The little-endian field of `n` bytes at `off`. -/
def fieldAt (l : List Byte) (off n : Nat) : Nat := leNat (slice l off n)

def u8At (l : List Byte) (off : Nat) : Nat := fieldAt l off 1
def u16At (l : List Byte) (off : Nat) : Nat := fieldAt l off 2
def u32At (l : List Byte) (off : Nat) : Nat := fieldAt l off 4
def u64At (l : List Byte) (off : Nat) : Nat := fieldAt l off 8

/-- Whether the `n` bytes at `off` are all zero. -/
def zeroAt (l : List Byte) (off n : Nat) : Bool := fieldAt l off n == 0

/-- ⌈a / b⌉, zero for b = 0. -/
def ceilDiv (a b : Nat) : Nat := (a + b - 1) / b

/-- `a` rounded up to a multiple of `b`. -/
def roundUp (a b : Nat) : Nat := ceilDiv a b * b

/-- `start, start + 1, …`, `n` numbers. -/
def upFrom (start : Nat) : Nat → List Nat
  | 0 => []
  | n + 1 => start :: upFrom (start + 1) n

/-- A count that stops at 0xFFFF_FFFF (R58, R193). -/
def capCount (n : Nat) : Nat := min n 0xFFFFFFFF

/-- The element at an index, `d` past the end. -/
def nth {α : Type} (d : α) (l : List α) (i : Nat) : α := l.getD i d

/-- Replace the element at an index. -/
def setNth {α : Type} (l : List α) (i : Nat) (v : α) : List α := l.set i v

/-- Overwrite the bytes of a list from `off` with `b`. -/
def overlay (l : List Byte) (off : Nat) (b : List Byte) : List Byte :=
  l.take off ++ b.take (l.length - off) ++ l.drop (off + b.length)

end Sys2Proof.Machine
end

