-- ==== Sys2Proof/Machine/Num.lean ====
section
/-!
DEFINITION. Exact values, the encodings of R31, rounding (R40–R43) and FP32 and W32 arithmetic (R34–R36).

A finite value is ±m × 2^e with m and e exact. A value that is not a dyadic number (a quotient, a root, an exponential)
is held with many bits and a last bit set to stand for what lies below them ("jammed"), so that one rounding of it is
the rounding of the exact value.
-/
namespace Sys2Proof.Machine

/-- An extended exact value. -/
inductive Ext where
  | nan
  | inf (neg : Bool)
  | fin (neg : Bool) (m : Nat) (e : Int)
  deriving DecidableEq, Repr

def Ext.zero : Ext := .fin false 0 0
def Ext.one : Ext := .fin false 1 0

def Ext.isNan : Ext → Bool
  | .nan => true
  | _ => false

def Ext.isInf : Ext → Bool
  | .inf _ => true
  | _ => false

def Ext.isZero : Ext → Bool
  | .fin _ m _ => m == 0
  | _ => false

/-- The sign; false for NaN. -/
def Ext.neg? : Ext → Bool
  | .nan => false
  | .inf n => n
  | .fin n _ _ => n

def Ext.negate : Ext → Ext
  | .nan => .nan
  | .inf n => .inf (!n)
  | .fin n m e => .fin (!n) m e

def Ext.abs : Ext → Ext
  | .nan => .nan
  | .inf _ => .inf false
  | .fin _ m e => .fin false m e

/-- An integer as a value. -/
def Ext.ofInt (i : Int) : Ext := .fin (decide (i < 0)) i.natAbs 0

/-- The value times 2^k. -/
def Ext.scale (x : Ext) (k : Int) : Ext :=
  match x with
  | .fin n m e => .fin n m (e + k)
  | y => y

/-- The magnitude m × 2^e as a multiple of 2^b, for b ≤ e. -/
def alignTo (m : Nat) (e b : Int) : Nat := m * 2 ^ (e - b).toNat

/-- The exact sum; a zero that arises from opposite values is +0 (RNE, R34). -/
def Ext.add (x y : Ext) : Ext :=
  match x, y with
  | .nan, _ => .nan
  | _, .nan => .nan
  | .inf a, .inf b => if a = b then .inf a else .nan
  | .inf a, _ => .inf a
  | _, .inf b => .inf b
  | .fin a ma ea, .fin b mb eb =>
    if ma = 0 ∧ mb = 0 then .fin (a && b) 0 0
    else if ma = 0 then .fin b mb eb
    else if mb = 0 then .fin a ma ea
    else
      let c := min ea eb
      let p := alignTo ma ea c
      let q := alignTo mb eb c
      if a = b then .fin a (p + q) c
      else if p = q then .fin false 0 0
      else if q < p then .fin a (p - q) c
      else .fin b (q - p) c

def Ext.sub (x y : Ext) : Ext := Ext.add x y.negate

/-- The exact product. -/
def Ext.mul (x y : Ext) : Ext :=
  match x, y with
  | .nan, _ => .nan
  | _, .nan => .nan
  | .inf a, .inf b => .inf (a != b)
  | .inf a, .fin b m _ => if m = 0 then .nan else .inf (a != b)
  | .fin a m _, .inf b => if m = 0 then .nan else .inf (a != b)
  | .fin a ma ea, .fin b mb eb => if ma = 0 ∨ mb = 0 then .fin (a != b) 0 0 else .fin (a != b) (ma * mb) (ea + eb)

/-- A value and a flag "more lies below" as one value with a last bit. -/
def jam (neg : Bool) (m : Nat) (e : Int) (sticky : Bool) : Ext := .fin neg (2 * m + b2n sticky) (e - 1)

/-- The quotient, jammed; x / 0 is infinity of the sign and 0 / 0 NaN (IEEE 754). -/
def Ext.div (x y : Ext) : Ext :=
  match x, y with
  | .nan, _ => .nan
  | _, .nan => .nan
  | .inf _, .inf _ => .nan
  | .inf a, .fin b _ _ => .inf (a != b)
  | .fin a _ _, .inf b => .fin (a != b) 0 0
  | .fin a ma ea, .fin b mb eb =>
    if mb = 0 then (if ma = 0 then .nan else .inf (a != b))
    else if ma = 0 then .fin (a != b) 0 0
    else
      let k := Nat.log2 mb + 72
      let p := ma * 2 ^ k
      jam (a != b) (p / mb) (ea - eb - k) (p % mb != 0)

/-- ⌊√n⌋ for n < 4^k, bit by bit. -/
def isqrtFrom (n : Nat) : Nat → Nat → Nat
  | 0, r => r
  | k + 1, r => if (r + 2 ^ k) * (r + 2 ^ k) ≤ n then isqrtFrom n k (r + 2 ^ k) else isqrtFrom n k r

def isqrt (n : Nat) : Nat := isqrtFrom n (Nat.log2 n / 2 + 1) 0

/-- The square root, jammed; NaN below zero. -/
def Ext.sqrt (x : Ext) : Ext :=
  match x with
  | .nan => .nan
  | .inf n => if n then .nan else .inf false
  | .fin n m e =>
    if m = 0 then .fin n 0 0
    else if n then .nan
    else
      let odd := e % 2 != 0
      let m2 := if odd then m * 2 else m
      let e2 := if odd then e - 1 else e
      let p := m2 * 2 ^ 160
      let r := isqrt p
      jam false r (e2 / 2 - 80) (r * r != p)

/-- Order of two finite magnitudes: m × 2^e < n × 2^f. -/
def magLt (m : Nat) (e : Int) (n : Nat) (f : Int) : Bool :=
  let c := min e f
  decide (alignTo m e c < alignTo n f c)

/-- x < y; false when either is NaN. Zeros of both signs are equal. -/
def Ext.lt (x y : Ext) : Bool :=
  match x, y with
  | .nan, _ => false
  | _, .nan => false
  | .inf a, .inf b => a && !b
  | .inf a, .fin _ _ _ => a
  | .fin _ _ _, .inf b => !b
  | .fin a ma ea, .fin b mb eb =>
    if ma = 0 ∧ mb = 0 then false
    else if ma = 0 then !b
    else if mb = 0 then a
    else if a then (if b then magLt mb eb ma ea else true)
    else (if b then false else magLt ma ea mb eb)

def Ext.le (x y : Ext) : Bool := !x.isNan && !y.isNan && !Ext.lt y x

/-- Equal values; zeros of both signs are equal, NaN is equal to nothing. -/
def Ext.eqv (x y : Ext) : Bool := Ext.le x y && Ext.le y x

/-- A floating-point encoding (R31): exponent bits, fraction bits, bias, and whether the all-ones exponent code is
reserved for infinity and NaN. -/
structure Enc where
  exp  : Nat
  frac : Nat
  bias : Nat
  ieee : Bool
  cnan : Nat
  subn : Bool
  deriving DecidableEq, Repr

def Enc.fp32 : Enc := ⟨8, 23, 127, true, 0x7FC00000, true⟩
def Enc.bf16 : Enc := ⟨8, 7, 127, true, 0x7FC0, true⟩
def Enc.e4m3 : Enc := ⟨4, 3, 7, false, 0x7F, true⟩
def Enc.e5m2 : Enc := ⟨5, 2, 15, true, 0x7E, true⟩
def Enc.w32 : Enc := ⟨12, 19, 2047, true, 0x7FFC0000, false⟩

/-- The width of an encoding in bits. -/
def Enc.width (E : Enc) : Nat := 1 + E.exp + E.frac

/-- The bits of the largest finite magnitude. -/
def Enc.maxBits (E : Enc) : Nat := if E.ieee then (2 ^ E.exp - 1) * 2 ^ E.frac - 1 else 2 ^ (E.exp + E.frac) - 2

/-- The bits of infinity (encodings that have one). -/
def Enc.infBits (E : Enc) : Nat := (2 ^ E.exp - 1) * 2 ^ E.frac

/-- The sign bit of an encoding in place. -/
def Enc.signBit (E : Enc) (neg : Bool) : Nat := flagAt neg (E.exp + E.frac)

/-- The value of an encoding's bits (R31). -/
def Enc.decode (E : Enc) (b : Nat) : Ext :=
  let neg := bitAt b (E.exp + E.frac)
  let ex := (b / 2 ^ E.frac) % 2 ^ E.exp
  let f := b % 2 ^ E.frac
  if E.ieee && ex == 2 ^ E.exp - 1 then (if f = 0 then .inf neg else .nan)
  else if !E.ieee && ex == 2 ^ E.exp - 1 && f == 2 ^ E.frac - 1 then .nan
  else if ex = 0 then (if E.subn then .fin neg f (1 - (E.bias : Int) - E.frac) else .fin neg 0 0)
  else .fin neg (2 ^ E.frac + f) ((ex : Int) - E.bias - E.frac)

/-- The rounding modes of a format word (R37); the stochastic mode carries the element's 16-bit draw (R41). -/
inductive Rnd where
  | rne
  | rtz
  | sr (r : Nat)
  deriving DecidableEq, Repr

/-- Round m × 2^e to a multiple of 2^u (R40, R41): the multiple. -/
def roundAt (rnd : Rnd) (m : Nat) (e u : Int) : Nat :=
  if u ≤ e then alignTo m e u
  else
    let sh := (u - e).toNat
    let k := m / 2 ^ sh
    let rem := m % 2 ^ sh
    match rnd with
    | .rtz => k
    | .rne => if 2 * rem < 2 ^ sh then k else if 2 ^ sh < 2 * rem then k + 1 else k + k % 2
    | .sr r => if r < rem * 65536 / 2 ^ sh then k + 1 else k

/-- The magnitude bits of m × 2^e (m > 0) rounded to the encoding, as if the exponent had no upper bound: the value
k × 2^u has the bits k + (u's exponent code − 1) × 2^frac, so that a carry out of k moves to the next exponent. -/
def Enc.roundMag (E : Enc) (rnd : Rnd) (m : Nat) (e : Int) : Nat :=
  let top := e + Nat.log2 m
  let umin : Int := 1 - (E.bias : Int) - E.frac
  let u := if E.subn then max (top - E.frac) umin else top - E.frac
  let k := roundAt rnd m e u
  let code : Int := u + E.frac + E.bias - 1
  (code * ((2 ^ E.frac : Nat) : Int) + k).toNat

/-- The result of one conversion: the bits, and whether it counts as saturated or flushed (R42, R43). -/
structure Conv where
  bits : Nat
  sat  : Bool
  ftz  : Bool
  deriving DecidableEq, Repr

/-- Conversion of an exact value to an encoding (R40–R43, R36 for W32). -/
def Enc.conv (E : Enc) (rnd : Rnd) (satMode : Bool) (x : Ext) : Conv :=
  match x with
  | .nan => ⟨E.cnan, false, false⟩
  | .inf n =>
    if satMode then ⟨E.signBit n + E.maxBits, false, false⟩
    else if E.ieee then ⟨E.signBit n + E.infBits, false, false⟩
    else ⟨E.cnan, false, false⟩
  | .fin n m e =>
    if m = 0 then ⟨E.signBit n, false, false⟩
    else
      let b := E.roundMag rnd m e
      if E.maxBits < b then
        if rnd = .rtz ∨ satMode then ⟨E.signBit n + E.maxBits, true, false⟩
        else if E.ieee then ⟨E.signBit n + E.infBits, true, false⟩
        else ⟨E.cnan, true, false⟩
      else if E.subn then ⟨E.signBit n + b, false, b == 0⟩
      else if b < 2 ^ E.frac then ⟨E.signBit n, false, true⟩
      else ⟨E.signBit n + b, false, false⟩

/-- The bits of a value in FP32, rounded by RNE (R35). -/
def f32 (x : Ext) : Word := BitVec.ofNat 32 (Enc.fp32.conv .rne false x).bits

/-- The value of an FP32 word. -/
def v32 (w : Word) : Ext := Enc.fp32.decode w.toNat

/-- A value rounded to FP32 by RNE, as a value. -/
def r32 (x : Ext) : Ext := v32 (f32 x)

/-- A value rounded to W32 by RNE, as a value (R36). -/
def rw32 (x : Ext) : Ext := Enc.w32.decode (Enc.w32.conv .rne false x).bits

def fadd (a b : Word) : Word := f32 (Ext.add (v32 a) (v32 b))
def fsub (a b : Word) : Word := f32 (Ext.sub (v32 a) (v32 b))
def fmul (a b : Word) : Word := f32 (Ext.mul (v32 a) (v32 b))
def fdiv (a b : Word) : Word := f32 (Ext.div (v32 a) (v32 b))
def fsqrt (a : Word) : Word := f32 (Ext.sqrt (v32 a))

/-- a × b + c, rounded once. -/
def ffma (a b c : Word) : Word := f32 (Ext.add (Ext.mul (v32 a) (v32 b)) (v32 c))

/-- −(a × b) + c, rounded once. -/
def ffnma (a b c : Word) : Word := f32 (Ext.add (Ext.mul (v32 a) (v32 b)).negate (v32 c))

def fzero : Word := 0
def fone : Word := 0x3F800000
def fnan : Word := 0x7FC00000

def fIsNan (a : Word) : Bool := (v32 a).isNan
def fIsZero (a : Word) : Bool := (v32 a).isZero
def fNeg (a : Word) : Word := if fIsNan a then fnan else a ^^^ 0x80000000

/-- An integer as FP32 (RNE). -/
def fOfNat (n : Nat) : Word := f32 (.fin false n 0)

/-- The exact integer nearest by RNE, or truncated (R44), of a finite magnitude. -/
def roundInt (rnd : Rnd) (m : Nat) (e : Int) : Nat := roundAt rnd m e 0

/-- Conversion to an integer of `w` bits (R44): `wrap` is IOVF. -/
def convInt (w : Nat) (usgn : Bool) (rnd : Rnd) (wrap : Bool) (x : Ext) : Conv :=
  let lo : Int := if usgn then 0 else -((2 ^ (w - 1) : Nat) : Int)
  let hi : Int := if usgn then ((2 ^ w : Nat) : Int) - 1 else ((2 ^ (w - 1) : Nat) : Int) - 1
  match x with
  | .nan => ⟨0, true, false⟩
  | .inf n => ⟨unsign w (if n then lo else hi), true, false⟩
  | .fin n m e =>
    let k : Int := roundInt rnd m e
    let v := if n then -k else k
    if v < lo then ⟨unsign w (if wrap then v else lo), true, false⟩
    else if hi < v then ⟨unsign w (if wrap then v else hi), true, false⟩
    else ⟨unsign w v, false, false⟩

/-! ## Exponential and logarithm (R170, R171), by fixed point of 320 fraction bits (log 9) -/

/-- ⌊ln 2 × 2^320⌋. -/
def ln2Fix : Nat := 0xB17217F7D1CF79ABC9E3B39803F2F6AF40F343267298B62D8A0D175B8BAAFA2BE7B876206DEBAC98

def fixBits : Nat := 320

/-- Σ of the Taylor terms of e^r from term `i`, `n` of them: `t` is the current term. -/
def expTerms (r : Nat) : Nat → Nat → Nat → Nat → Nat
  | 0, _, _, acc => acc
  | n + 1, i, t, acc => expTerms r n (i + 1) (t * r / 2 ^ fixBits / (i + 1)) (acc + t)

/-- e^r for 0 ≤ r < ln 2, as a multiple of 2^−320. -/
def expFix (r : Nat) : Nat := expTerms r 80 0 (2 ^ fixBits) 0

/-- A value that every rounding of this model takes to infinity, and one that it takes to zero. -/
def Ext.huge : Ext := .fin false 1 1000000
def Ext.tiny : Ext := .fin false 1 (-1000000)

/-- e^x, jammed. -/
def Ext.exp (x : Ext) : Ext :=
  match x with
  | .nan => .nan
  | .inf n => if n then Ext.zero else .inf false
  | .fin n m e =>
    if m = 0 then Ext.one
    else if e + Nat.log2 m > 16 then (if n then Ext.tiny else Ext.huge)
    else if e + Nat.log2 m < -300 then jam false (if n then 2 ^ 200 - 1 else 2 ^ 200) (-200) true
    else
      let fx : Nat := if e + fixBits < 0 then m / 2 ^ (-(e + fixBits)).toNat else m * 2 ^ (e + fixBits).toNat
      let fi : Int := if n then -(fx : Int) else fx
      let q := fi / (ln2Fix : Int)
      let r := (fi % (ln2Fix : Int)).toNat
      jam false (expFix r) (q - fixBits) true

/-- Σ of z^(2i+1) / (2i+1) from i, `n` terms. -/
def atanhTerms (z2 : Nat) : Nat → Nat → Nat → Nat → Nat
  | 0, _, _, acc => acc
  | n + 1, i, p, acc => atanhTerms z2 n (i + 1) (p * z2 / 2 ^ fixBits) (acc + p / (2 * i + 1))

/-- ln of y = m / 2^(log2 m), 1 ≤ y < 2, as a multiple of 2^−320. -/
def lnFix (m : Nat) : Nat :=
  let one := 2 ^ Nat.log2 m
  let z := (m - one) * 2 ^ fixBits / (m + one)
  2 * atanhTerms (z * z / 2 ^ fixBits) 110 0 z 0

/-- ln x, jammed. -/
def Ext.log (x : Ext) : Ext :=
  match x with
  | .nan => .nan
  | .inf n => if n then .nan else .inf false
  | .fin n m e =>
    if m = 0 then .inf true
    else if n then .nan
    else
      let k := e + Nat.log2 m
      let v := k * (ln2Fix : Int) + lnFix m
      if m = 2 ^ Nat.log2 m ∧ k = 0 then Ext.zero
      else jam (decide (v < 0)) v.natAbs (-(fixBits : Int)) true

/-- 1/x, jammed (R171). -/
def Ext.rcp (x : Ext) : Ext := Ext.div Ext.one x

/-- 1/√x, jammed (R171): −0 gives −∞. -/
def Ext.rsqrt (x : Ext) : Ext :=
  match x with
  | .nan => .nan
  | .inf n => if n then .nan else Ext.zero
  | .fin n m e =>
    if m = 0 then .inf n
    else if n then .nan
    else
      let odd := e % 2 != 0
      let m2 := if odd then m * 2 else m
      let e2 := if odd then e - 1 else e
      let k := 2 * (Nat.log2 m2 + 80)
      let q := 2 ^ k / m2
      let r := isqrt q
      jam false r (-(e2 / 2) - (k / 2 : Nat)) (r * r * m2 != 2 ^ k)

def fexp (a : Word) : Word := f32 (v32 a).exp
def flog (a : Word) : Word := f32 (v32 a).log
def frcp (a : Word) : Word := f32 (v32 a).rcp
def frsqrt (a : Word) : Word := f32 (v32 a).rsqrt

/-- An FP32 accumulator joined by an exact sum g (R62): a zero g leaves it unchanged, NaN is canonical. -/
def join (a : Word) (g : Ext) : Word :=
  if g.isNan || fIsNan a then fnan
  else if g.isZero then a
  else f32 (Ext.add (v32 a) g)

/-- The compensated add ⊕ of R72 on a pair (S, C): a zero x leaves both unchanged; the error of S + x is exact and
joins C. -/
def compAdd (p : Word × Word) (x : Word) : Word × Word :=
  if fIsZero x then p
  else
    let sum := Ext.add (v32 p.1) (v32 x)
    let t := f32 sum
    let e := if (v32 t).isNan || (v32 t).isInf then Ext.zero else Ext.sub sum (v32 t)
    (t, join p.2 e)

/-- The value of a compensated pair (R72): RNE(S + C), or S when S is infinite or NaN. -/
def compValue (p : Word × Word) : Word :=
  if (v32 p.1).isNan || (v32 p.1).isInf then p.1 else fadd p.1 p.2

end Sys2Proof.Machine
end

