-- ==== Sys2Proof/Machine/Format.lean ====
section
/-!
DEFINITION. Format words (R37–R39), element encodings, the Philox draws (R197–R199), conversion of elements and
encoding of Berxis blocks (R46–R49), expansion of narrow integers (R52, R53) and the compensated pair (R54).
-/
namespace Sys2Proof.Machine

/-! ## Format words -/

def fmtCode (w : Word) : Nat := field w.toNat 4 0
def fmtBlk16 (w : Word) : Bool := bitAt w.toNat 5
def fmtRnd (w : Word) : Nat := field w.toNat 7 6
def fmtSat (w : Word) : Bool := bitAt w.toNat 8
def fmtIovf (w : Word) : Bool := bitAt w.toNat 9
def fmtSrule (w : Word) : Bool := bitAt w.toNat 10
def fmtUsgn (w : Word) : Bool := bitAt w.toNat 11
def fmtXmode (w : Word) : Nat := field w.toNat 13 12
def fmtXtgt (w : Word) : Nat := field w.toNat 15 14
def fmtXarg (w : Word) : Nat := field w.toNat 27 16

/-- The codes of R38. -/
def cFP32 : Nat := 0x00
def cBF16 : Nat := 0x01
def cE4M3 : Nat := 0x02
def cE5M2 : Nat := 0x03
def cINT8 : Nat := 0x04
def cINT4 : Nat := 0x05
def cINT32 : Nat := 0x06
def cFP32P : Nat := 0x07
def cBXE4 : Nat := 0x08
def cBXE5 : Nat := 0x09
def cBXI8 : Nat := 0x0A

def codeBlock (c : Nat) : Bool := c == cBXE4 || c == cBXE5 || c == cBXI8
def codeInt (c : Nat) : Bool := c == cINT8 || c == cINT4 || c == cINT32
def codeFloat (c : Nat) : Bool := c ≤ cE5M2 || c == cFP32P
def fmtBlock (w : Word) : Bool := codeBlock (fmtCode w)
def fmtInt (w : Word) : Bool := codeInt (fmtCode w)

/-- The block size of a block format word. -/
def fmtBs (w : Word) : Nat := if fmtBlk16 w then 16 else 32

/-- Bits of an element of a code. -/
def codeBits (c : Nat) : Nat :=
  if c = cFP32 ∨ c = cINT32 ∨ c = cFP32P then 32 else if c = cBF16 then 16 else if c = cINT4 then 4 else 8

def fmtBits (w : Word) : Nat := codeBits (fmtCode w)

/-- Bytes of `n` elements laid out densely. -/
def fmtBytes (w : Word) (n : Nat) : Nat := ceilDiv (n * fmtBits w) 8

/-- Whether R39 (with R38 and R49) rejects a format word, on an output or an input. -/
def fmtBad (w : Word) (out : Bool) : Bool :=
  let c := fmtCode w
  let x := fmtXmode w
  decide (c > cBXI8)
    || field w.toNat 31 28 != 0
    || (fmtBlk16 w && !codeBlock c)
    || fmtRnd w == 3
    || (fmtRnd w == 2 && (!out || codeInt c))
    || (fmtSat w && !((out && codeFloat c) || (!out && x != 0)))
    || (fmtIovf w && !(out && codeInt c))
    || (fmtSrule w && !(out && codeBlock c))
    || (fmtUsgn w && !(c == cINT8 || c == cINT4))
    || x == 3
    || (x != 0 && (out || !(c == cINT8 || c == cINT4)))
    || (x == 1 && c == cINT8)
    || fmtXtgt w == 3
    || (x == 0 && (fmtXtgt w != 0 || fmtXarg w != 0))
    || (x == 2 && (field w.toNat 27 19 != 0 || decide (field w.toNat 18 16 > 4)))

/-- The group size of a scale-and-zero-point expansion over a reduction extent `k` (R53). -/
def fmtGroup (w : Word) (k : Nat) : Nat :=
  match field w.toNat 18 16 with
  | 0 => max k 1
  | 1 => 32
  | 2 => 64
  | 3 => 128
  | _ => 256

/-! ## Elements -/

/-- The bits of element `i` of a plane whose bytes are `rd` (R32 for packed INT4). -/
def elemBits (bits : Nat) (rd : Nat → Byte) (i : Nat) : Nat :=
  if bits = 4 then field (rd (i / 2)).toNat (4 * (i % 2) + 3) (4 * (i % 2))
  else leNat ((upFrom (i * (bits / 8)) (bits / 8)).map rd)

/-- The value of an element of a plain code, or the element value of a block code (R31, R32, R46). -/
def codeValue (c : Nat) (usgn : Bool) (b : Nat) : Ext :=
  if c = cFP32 ∨ c = cFP32P then Enc.fp32.decode b
  else if c = cBF16 then Enc.bf16.decode b
  else if c = cE4M3 ∨ c = cBXE4 then Enc.e4m3.decode b
  else if c = cE5M2 ∨ c = cBXE5 then Enc.e5m2.decode b
  else if c = cBXI8 then (Ext.ofInt (signed 8 b)).scale (-6)
  else
    let bits := codeBits c
    if usgn then .fin false (b % 2 ^ bits) 0 else Ext.ofInt (signed bits b)

/-- The value of a block element under scale code `sc` (R33, R46). -/
def blockValue (c : Nat) (sc b : Nat) : Ext :=
  if sc = 0xFF then .nan else (codeValue c false b).scale ((sc : Int) - 127)

/-! ## Draws (R197–R199) -/

/-- One round of Philox-4×32 on (c0, c1, c2, c3) with keys k0, k1. -/
def philoxRound (c : Word × Word × Word × Word) (k0 k1 : Word) : Word × Word × Word × Word :=
  let p0 := 0xD2511F53 * c.1.toNat
  let p1 := 0xCD9E8D57 * c.2.2.1.toNat
  (BitVec.ofNat 32 (p1 / 2 ^ 32) ^^^ c.2.1 ^^^ k0, BitVec.ofNat 32 p1,
   BitVec.ofNat 32 (p0 / 2 ^ 32) ^^^ c.2.2.2 ^^^ k1, BitVec.ofNat 32 p0)

/-- `n` rounds; the keys are bumped before every round but the first. -/
def philoxRounds : Nat → Word × Word × Word × Word → Word → Word → Word × Word × Word × Word
  | 0, c, _, _ => c
  | n + 1, c, k0, k1 => philoxRounds n (philoxRound c k0 k1) (k0 + 0x9E3779B9) (k1 + 0xBB67AE85)

/-- Philox-4×32-10 (R197). -/
def philox (c : Word × Word × Word × Word) (k0 k1 : Word) : Word × Word × Word × Word := philoxRounds 10 c k0 k1

/-- What fixes the draws of a command: its latched SEED and STEP and its RNG_ID (R196, R198). -/
structure Rng where
  seed : Dword
  step : Dword
  id   : Word
  deriving DecidableEq, Repr

/-- The 16-bit draw of element `i` of a plane (R198). -/
def draw (g : Rng) (plane i : Nat) : Nat :=
  let n := i / 8
  let j := i % 8
  let c0 := BitVec.ofNat 32 n
  let c1 := BitVec.ofNat 32 (field n 47 32 + putAt plane 16)
  let k1 := BitVec.ofNat 32 (g.seed.toNat / 2 ^ 32) ^^^ BitVec.ofNat 32 (g.step.toNat / 2 ^ 32)
  let x := philox (c0, c1, g.id, BitVec.ofNat 32 g.step.toNat) (BitVec.ofNat 32 g.seed.toNat) k1
  let w := if j < 2 then x.1 else if j < 4 then x.2.1 else if j < 6 then x.2.2.1 else x.2.2.2
  if j % 2 = 0 then w.toNat % 65536 else w.toNat / 65536

/-- The rounding of a format word for an element with draw `r`. -/
def fmtRounding (w : Word) (r : Nat) : Rnd :=
  match fmtRnd w with
  | 0 => .rne
  | 1 => .rtz
  | _ => .sr r

/-! ## Conversion -/

/-- Conversion of a value to a plain code of an output format word (R40–R44); `r` is the element's draw. -/
def convElem (w : Word) (r : Nat) (x : Ext) : Conv :=
  let c := fmtCode w
  let rnd := fmtRounding w r
  if c = cFP32 ∨ c = cFP32P then Enc.fp32.conv rnd (fmtSat w) x
  else if c = cBF16 then Enc.bf16.conv rnd (fmtSat w) x
  else if c = cE4M3 then Enc.e4m3.conv rnd (fmtSat w) x
  else if c = cE5M2 then Enc.e5m2.conv rnd (fmtSat w) x
  else convInt (codeBits c) (fmtUsgn w) rnd (fmtIovf w) x

/-- Conversion counts: values saturated and flushed (R56). -/
structure Health where
  sat : Nat
  ftz : Nat
  deriving DecidableEq, Repr

def Health.zero : Health := ⟨0, 0⟩
def Health.add (a b : Health) : Health := ⟨a.sat + b.sat, a.ftz + b.ftz⟩
def Health.ofConv (c : Conv) : Health := ⟨b2n c.sat, b2n c.ftz⟩
def Health.ofConvs (l : List Conv) : Health := l.foldl (fun h c => h.add (Health.ofConv c)) Health.zero

/-- The largest magnitude of a list of finite values. -/
def amax (xs : List Ext) : Ext := xs.foldl (fun a x => if a.lt x.abs then x.abs else a) Ext.zero

/-- The smallest e in `lo, lo + 1, …` (`n` of them) with a ≤ mm × 2^(e + me). -/
def noClipFrom (a : Ext) (mm : Nat) (me : Int) : Nat → Int → Int
  | 0, lo => lo
  | n + 1, lo => if a.le (.fin false mm (lo + me)) then lo else noClipFrom a mm me n (lo + 1)

/-- The element encoding's emax and its largest magnitude as m × 2^e (R49 step 2). -/
def blockLimits (c : Nat) : Int × Nat × Int :=
  if c = cBXE4 then (8, 448, 0) else if c = cBXE5 then (15, 57344, 0) else (0, 127, -6)

/-- The scale exponent of a block (R49 step 2). -/
def blockExp (w : Word) (a : Ext) : Int :=
  match a with
  | .fin _ m e =>
    if m = 0 then -127
    else
      let l := blockLimits (fmtCode w)
      let top := e + Nat.log2 m
      if fmtSrule w then min 127 (max (-127) (noClipFrom a l.2.1 l.2.2 4 (top - l.1 - 2)))
      else min 127 (max (-127) (top - l.1))
  | _ => -127

/-- Conversion of one scaled element of a block (R49 step 4): overflow always gives the largest magnitude. -/
def blockElem (w : Word) (r : Nat) (x : Ext) : Conv :=
  let c := fmtCode w
  let rnd := fmtRounding w r
  if c = cBXE4 then Enc.e4m3.conv rnd true x
  else if c = cBXE5 then Enc.e5m2.conv rnd true x
  else
    match x with
    | .fin n m e =>
      let k := roundAt rnd m e (-6)
      if 127 < k then ⟨unsign 8 (if n then -127 else 127), true, false⟩
      else ⟨unsign 8 (if n then -(k : Int) else k), false, k == 0 && m != 0⟩
    | _ => ⟨0, false, false⟩

/-- Encoding of a block of values with their draws (R49): the scale code and the elements. -/
def encodeBlock (w : Word) (xs : List (Ext × Nat)) : Nat × List Conv :=
  if xs.any (fun x => x.1.isNan || x.1.isInf) then (0xFF, xs.map (fun _ => ⟨0, false, false⟩))
  else
    let e := blockExp w (amax (xs.map (·.1)))
    ((e + 127).toNat, xs.map (fun x => blockElem w x.2 (x.1.scale (-e))))

/-- Pack elements of `bits` bits, in order, into bytes (R32 for INT4). -/
def packElems (bits : Nat) : List Nat → List Byte
  | [] => []
  | [a] => if bits = 4 then [BitVec.ofNat 8 (a % 16)] else toLe (bits / 8) a
  | a :: b :: t =>
    if bits = 4 then BitVec.ofNat 8 (a % 16 + 16 * (b % 16)) :: packElems bits t
    else toLe (bits / 8) a ++ (toLe (bits / 8) b ++ packElems bits t)

/-- Cut a list into runs of `n`, at most `fuel` of them. -/
def chunks {α : Type} (n : Nat) : Nat → List α → List (List α)
  | 0, _ => []
  | f + 1, l => if l.isEmpty then [] else l.take n :: chunks n f (l.drop n)

/-- The planes written for one run of values along a block axis, with the counts: element bits and scale codes. For a
plain code there are no scales. A block run is padded with zero elements to whole blocks (R47). -/
structure Run where
  elems  : List Nat
  scales : List Nat
  health : Health
  deriving DecidableEq, Repr

/-- Convert one run of values with their draws (R40–R49). -/
def convRun (w : Word) (xs : List (Ext × Nat)) : Run :=
  if fmtBlock w then
    let bs := fmtBs w
    let bl := (chunks bs (xs.length + 1) xs).map (encodeBlock w)
    let padded := bl.flatMap (fun b => b.2.map (·.bits) ++ List.replicate (bs - b.2.length) 0)
    ⟨padded, bl.map (·.1), Health.ofConvs (bl.flatMap (·.2))⟩
  else
    let cs := xs.map (fun x => convElem w x.2 x.1)
    ⟨cs.map (·.bits), [], Health.ofConvs cs⟩

/-- Whether the rounding of a format word draws (R41). -/
def fmtSr (w : Word) : Bool := fmtRnd w == 2

/-- The draw of an element, zero when the word does not draw. -/
def drawFor (w : Word) (g : Rng) (plane i : Nat) : Nat := if fmtSr w then draw g plane i else 0

/-! ## Expansion and the compensated pair -/

/-- The encoding of an expansion target (R37). -/
def xtgtEnc (w : Word) : Enc :=
  match fmtXtgt w with
  | 0 => Enc.bf16
  | 1 => Enc.e4m3
  | _ => Enc.e5m2

/-- Table expansion of a 4-bit code (R52). -/
def expandTable (w : Word) (table : List Byte) (q : Nat) : Ext :=
  if fmtXtgt w = 0 then Enc.bf16.decode (u16At table (2 * q))
  else (xtgtEnc w).decode (u8At table q)

/-- Scale-and-zero-point expansion (R53): (q − z) × s converted once to the target. -/
def expandScale (w : Word) (q z : Nat) (s : Nat) : Conv × Ext :=
  let bits := fmtBits w
  let rd (b : Nat) (n : Nat) : Int := if fmtUsgn w then (b % 2 ^ n : Nat) else signed n b
  let d := rd q bits - rd z 8
  let x := Ext.mul (Ext.ofInt d) (Enc.bf16.decode s)
  let c := (xtgtEnc w).conv (fmtRounding w 0) (fmtSat w) x
  (c, (xtgtEnc w).decode c.bits)

/-- The compensated pair of an FP32P operand (R54). -/
def splitPair (x : Ext) : Ext × Ext :=
  match x with
  | .nan => (.nan, .nan)
  | .inf n => (.inf n, Ext.zero)
  | y =>
    let hi := Enc.bf16.decode (Enc.bf16.conv .rne true y).bits
    (hi, Enc.bf16.decode (Enc.bf16.conv .rne false (Ext.sub y hi)).bits)

end Sys2Proof.Machine
end

