-- ==== Sys2Proof/Machine/Vec.lean ====
section
/-!
DEFINITION. The vector unit: step programs (R172–R175), built-in functions (R177–R181) and row statistics
(R186–R189).
-/
namespace Sys2Proof.Machine

/-- One step of a program (R173). -/
structure VStep where
  op  : Nat
  dst : Nat
  a   : Nat
  b   : Nat
  c   : Nat
  deriving DecidableEq, Repr

/-- A step program (R172, R174). -/
structure Prog where
  steps  : List VStep
  consts : List Word
  two    : Bool
  deriving DecidableEq, Repr

/-- The inputs of a program for one element. -/
structure VIn where
  x  : Word
  g  : Word
  dy : Word
  p0 : Word
  p1 : Word
  deriving DecidableEq, Repr

/-- A word with every NaN made canonical (R34). -/
def canon (w : Word) : Word := if fIsNan w then fnan else w

/-- The operand of a source code (R172). -/
def operand (p : Prog) (i : VIn) (v : List Word) (code : Nat) : Word :=
  if code < 8 then nth fzero v code
  else if code = 8 then i.x
  else if code = 9 then i.g
  else if code = 10 then i.dy
  else if code = 11 then i.p0
  else if code = 12 then i.p1
  else if code = 13 then fzero
  else if code = 14 then fone
  else if code = 15 then fzero
  else nth fzero p.consts (code - 16)

/-- The smaller of two words, −0 below +0 (R173). -/
def fmin (a b : Word) : Word :=
  if fIsNan a || fIsNan b then fnan
  else if fIsZero a && fIsZero b then (if (v32 a).neg? then a else b)
  else if (v32 b).lt (v32 a) then b else a

/-- The larger of two words, +0 above −0 (R173). -/
def fmax (a b : Word) : Word :=
  if fIsNan a || fIsNan b then fnan
  else if fIsZero a && fIsZero b then (if (v32 a).neg? then b else a)
  else if (v32 a).lt (v32 b) then b else a

/-- The result of a step on its sources (R173). -/
def stepVal (op : Nat) (a b c : Word) : Word :=
  if op = 0x01 then fadd a b
  else if op = 0x02 then fsub a b
  else if op = 0x03 then fmul a b
  else if op = 0x04 then ffma a b c
  else if op = 0x05 then ffnma a b c
  else if op = 0x06 then fmin a b
  else if op = 0x07 then fmax a b
  else if op = 0x08 then (if fIsNan a then fnan else a &&& 0x7FFFFFFF)
  else if op = 0x09 then fNeg a
  else if op = 0x0A then (if fIsNan a then fnan else if Ext.zero.lt (v32 a) then canon b else canon c)
  else if op = 0x0B then (if fIsNan a then fnan else if (v32 a).abs.lt (v32 b) then a else canon c)
  else if op = 0x20 then fexp a
  else if op = 0x21 then flog a
  else if op = 0x22 then frcp a
  else frsqrt a

/-- Run the steps in order on the registers v0–v7. -/
def runSteps (p : Prog) (i : VIn) : List VStep → List Word → List Word
  | [], v => v
  | s :: t, v => runSteps p i t (v.set s.dst (stepVal s.op (operand p i v s.a) (operand p i v s.b) (operand p i v s.c)))

/-- The results v0 and v1 of a program (R172). -/
def runProg (p : Prog) (i : VIn) : Word × Word :=
  let v := runSteps p i p.steps (List.replicate 8 fzero)
  (nth fzero v 0, nth fzero v 1)

/-! ## Micro-programs (R173–R175) -/

def stepOfWord (w : Nat) : VStep := ⟨field w 5 0, field w 8 6, field w 13 9, field w 18 14, field w 23 19⟩

/-- Whether an OP code is listed in R173. -/
def opListed (op : Nat) : Bool := (decide (1 ≤ op) && decide (op ≤ 0x0B)) || (decide (0x20 ≤ op) && decide (op ≤ 0x23))

/-- The number of sources that an OP uses, by field: SA, SB, SC (R173). -/
def opUses (op : Nat) : Bool × Bool × Bool :=
  if op = 0x04 ∨ op = 0x05 ∨ op = 0x0A ∨ op = 0x0B then (true, true, true)
  else if op = 0x08 ∨ op = 0x09 ∨ op ≥ 0x20 then (true, false, false)
  else (true, true, false)

/-- Whether R175 rejects a step word. -/
def stepBad (nconst w : Nat) : Bool :=
  let s := stepOfWord w
  let u := opUses s.op
  let srcBad (used : Bool) (code : Nat) : Bool :=
    if used then code == 15 || decide (16 + nconst ≤ code) else code != 0
  !opListed s.op || field w 31 24 != 0 || srcBad u.1 s.a || srcBad u.2.1 s.b || srcBad u.2.2 s.c

/-- Whether R175 rejects the image of a micro-program. -/
def imageBad (img : List Byte) : Bool :=
  let h := u32At img 0
  let nstep := field h 11 0
  let nconst := field h 16 12
  let n := img.length
  -- NSTEP is 1–4,096 in 12 bits: the code 0 is the forbidden zero (R174, R175)
  decide (h ≥ 2 ^ 18) || decide (nconst > 16) || nstep == 0 || decide (n < 0x50 + 4 * nstep)
    || !zeroAt img 4 12
    || !zeroAt img (0x10 + 4 * nconst) (64 - 4 * min nconst 16)
    || (upFrom 0 nstep).any (fun i => stepBad nconst (u32At img (0x50 + 4 * i)))

/-- The program of a bank (R174). -/
def progOf (bank : List Byte) : Prog :=
  let h := u32At bank 0
  { steps := (upFrom 0 (field h 11 0)).map (fun i => stepOfWord (u32At bank (0x50 + 4 * i)))
    consts := (upFrom 0 (field h 16 12)).map (fun i => BitVec.ofNat 32 (u32At bank (0x10 + 4 * i)))
    two := bitAt h 17 }

/-- Whether a program names a source code. -/
def progNames (p : Prog) (code : Nat) : Bool :=
  p.steps.any (fun s => let u := opUses s.op; (u.1 && s.a == code) || (u.2.1 && s.b == code) || (u.2.2 && s.c == code))

/-! ## Built-in functions (R177, R180) -/

/-- The constants k0–k8 of R177. -/
def builtinConsts : List Word :=
  [0x3D372713, 0xBFCC422A, 0xC0000000, 0x40000000, 0xBF800000, 0x39800000, 0x3E095D4F, 0x3FCC422A, 0xBF000000]

def oX : Nat := 8
def oG : Nat := 9
def oDY : Nat := 10
def oP0 : Nat := 11
def oP1 : Nat := 12
def oZ : Nat := 13
def o1 : Nat := 14
def k (i : Nat) : Nat := 16 + i

def vAdd (d a b : Nat) : VStep := ⟨0x01, d, a, b, 0⟩
def vSub (d a b : Nat) : VStep := ⟨0x02, d, a, b, 0⟩
def vMul (d a b : Nat) : VStep := ⟨0x03, d, a, b, 0⟩
def vFma (d a b c : Nat) : VStep := ⟨0x04, d, a, b, c⟩
def vFnma (d a b c : Nat) : VStep := ⟨0x05, d, a, b, c⟩
def vNeg (d a : Nat) : VStep := ⟨0x09, d, a, 0, 0⟩
def vSelgt (d a b c : Nat) : VStep := ⟨0x0A, d, a, b, c⟩
def vSelsm (d a b c : Nat) : VStep := ⟨0x0B, d, a, b, c⟩
def vExp (d a : Nat) : VStep := ⟨0x20, d, a, 0, 0⟩
def vLog (d a : Nat) : VStep := ⟨0x21, d, a, 0, 0⟩
def vRcp (d a : Nat) : VStep := ⟨0x22, d, a, 0, 0⟩
def vRsqrt (d a : Nat) : VStep := ⟨0x23, d, a, 0, 0⟩

/-- The steps of a built-in or derivative function, `none` for a code that R177 and R180 do not list. COPY has no
step: its result is X. -/
def builtinSteps (fn : Nat) : Option (List VStep) :=
  match fn with
  | 0x00 => some []
  | 0x01 => some [vExp 0 oX]
  | 0x02 => some [vLog 0 oX]
  | 0x03 => some [vRcp 0 oX]
  | 0x04 => some [vRsqrt 0 oX]
  | 0x09 => some [vSelgt 0 oX oX oZ]
  | 0x0A => some [vMul 1 oX oP0, vSelgt 0 oX oX 1]
  | 0x0B => some [vMul 1 oX oX, vFma 1 1 (k 0) o1, vMul 1 1 oX, vMul 1 1 (k 1), vExp 1 1, vAdd 1 1 o1, vRcp 1 1,
      vMul 0 oX 1]
  | 0x0C => some [vNeg 1 oX, vExp 1 1, vAdd 1 1 o1, vRcp 1 1, vMul 0 oX 1]
  | 0x0D => some [vNeg 1 oX, vExp 1 1, vAdd 1 1 o1, vRcp 0 1]
  | 0x0E => some [vMul 1 oX (k 2), vExp 1 1, vAdd 1 1 o1, vRcp 1 1, vFma 1 1 (k 3) (k 4), vSelsm 0 oX (k 5) 1]
  | 0x0F => some [vSelgt 1 oX oX oZ, vMul 0 1 1]
  | 0x10 => some [vAdd 0 oX oG]
  | 0x11 => some [vMul 0 oX oG]
  | 0x12 => some [vMul 1 oG oP1, vFma 0 oP0 oX 1]
  | 0x21 => some [vSelgt 0 oX oDY oZ]
  | 0x22 => some [vMul 1 oDY oP0, vSelgt 0 oX oDY 1]
  | 0x23 => some [vMul 1 oX oX, vFma 2 1 (k 0) o1, vMul 2 2 oX, vMul 2 2 (k 1), vExp 2 2, vAdd 2 2 o1, vRcp 2 2,
      vFma 3 1 (k 6) o1, vSub 4 o1 2, vMul 4 4 2, vMul 4 4 oX, vMul 4 4 3, vMul 4 4 (k 7), vAdd 4 4 2, vMul 0 oDY 4]
  | 0x24 => some [vNeg 1 oX, vExp 1 1, vAdd 1 1 o1, vRcp 1 1, vSub 2 o1 1, vFma 2 oX 2 o1, vMul 2 2 1, vMul 0 oDY 2]
  | 0x25 => some [vSub 1 o1 oX, vMul 1 1 oX, vMul 0 oDY 1]
  | 0x26 => some [vFnma 1 oX oX o1, vMul 0 oDY 1]
  | 0x27 => some [vRsqrt 1 oX, vMul 1 oX 1, vMul 1 1 oDY, vMul 1 1 (k 3), vSelgt 0 oX 1 oZ]
  | 0x28 => some [vMul 0 oDY oX]
  | 0x29 => some [vRcp 1 oX, vMul 0 oDY 1]
  | 0x2A => some [vMul 1 oX oX, vMul 1 1 oDY, vNeg 0 1]
  | 0x2B => some [vMul 1 oX oX, vMul 1 1 oX, vMul 1 1 oDY, vMul 0 1 (k 8)]
  | _ => none

/-- The value of a built-in or derivative function, R178 included. -/
def builtin (fn : Nat) (i : VIn) : Word :=
  let minusInf := i.x == 0xFF800000
  let plusInf := i.x == 0x7F800000
  if fn = 0x00 then i.x
  else if (fn = 0x0B ∨ fn = 0x0C) ∧ minusInf then 0x80000000
  else if (fn = 0x23 ∨ fn = 0x24) ∧ plusInf then fmul i.dy fone
  else if (fn = 0x23 ∨ fn = 0x24) ∧ minusInf then fmul i.dy fzero
  else (runProg ⟨(builtinSteps fn).getD [], builtinConsts, false⟩ i).1

/-- The activation of an ACT code on x (R179): built-in 0x08 + ACT. -/
def actOf (act : Nat) (x p0 : Word) : Word := builtin (0x08 + act) ⟨x, fzero, fzero, p0, fzero⟩

/-- The derivative that DGATE uses (R181). -/
def actDer (act : Nat) (x p0 : Word) : Word :=
  let arg := if act = 3 ∨ act = 4 then x else actOf act x p0
  builtin (0x20 + act) ⟨arg, fzero, fone, p0, fzero⟩

/-- The results of a VECFN function on one element: Y and Y2 (R177–R182). `act` serves GATE and DGATE, `p` USER. -/
def vecFn (fn act : Nat) (p : Prog) (i : VIn) : Word × Word :=
  if fn = 0x18 then (fmul (actOf act i.x i.p0) i.g, fzero)
  else if fn = 0x30 then (fmul (fmul i.dy i.g) (actDer act i.x i.p0), fmul i.dy (actOf act i.x i.p0))
  else if fn = 0x3F then runProg p i
  else (builtin fn i, fzero)

/-- The inputs X, G, DY that a function reads (R184); for USER, those present. -/
def fnReads (fn act : Nat) (present : Bool × Bool × Bool) : Bool × Bool × Bool :=
  if fn = 0x18 then (true, true, false)
  else if fn = 0x30 then (true, true, true)
  else if fn = 0x3F then present
  else
    let names (c : Nat) := progNames ⟨(builtinSteps fn).getD [], [], false⟩ c
    let _ := act
    (fn == 0 || names oX, names oG, names oDY)

/-- The activation of a cell output stage (R84, R85). -/
def cellAct (act : Nat) (v slope : Word) : Word :=
  if act = 0 then v
  else if act = 2 then (if fIsNan v then fnan else if (v32 v).lt Ext.zero then fmul v slope else v)
  else actOf act v slope

/-! ## Row statistics (R186–R189) -/

/-- The compensated sum of a list of words (R72, R186). -/
def compSum (xs : List Word) : Word := compValue (xs.foldl compAdd (fzero, fzero))

/-- Mean, variance (or ms), rstd and whether the variance was clamped, of one row. -/
structure RowStats where
  mean  : Word
  var   : Word
  rstd  : Word
  clamp : Bool
  deriving DecidableEq, Repr

/-- LAYER statistics (R186). -/
def layerStats (xs : List Word) (eps : Word) : RowStats :=
  let a := nth fzero xs 0
  let l := fOfNat xs.length
  let d := xs.map (fun x => fsub x a)
  let m1 := fdiv (compSum d) l
  let mean := fadd a m1
  let m2 := fdiv (compSum (d.map (fun x => fmul x x))) l
  let v := fsub m2 (fmul m1 m1)
  let neg := (v32 v).lt Ext.zero
  let v' := if neg then fzero else v
  ⟨mean, v', frsqrt (fadd v' eps), neg⟩

/-- RMS statistics (R187). -/
def rmsStats (xs : List Word) (eps : Word) : RowStats :=
  let ms := fdiv (compSum (xs.map (fun x => fmul x x))) (fOfNat xs.length)
  ⟨fzero, ms, frsqrt (fadd ms eps), false⟩

/-- A forward output of NORM (R188). -/
def normOut (layer : Bool) (st : RowStats) (gamma beta : Option Word) (x : Word) : Word :=
  let y := if layer then fmul (fsub x st.mean) st.rstd else fmul x st.rstd
  let y := match gamma with
    | some g => fmul y g
    | none => y
  match beta with
  | some b => fadd y b
  | none => y

/-- The row dx of a backward NORM (R189); γ = none means the multiplications by γ are not made. -/
def normBwd (layer : Bool) (mean rstd : Word) (xs dys : List Word) (gamma : Option (List Word)) : List Word :=
  let l := fOfNat xs.length
  let xh := xs.map (fun x => if layer then fmul (fsub x mean) rstd else fmul x rstd)
  let g := match gamma with
    | some gs => (dys.zip gs).map (fun p => fmul p.1 p.2)
    | none => dys
  let a := if layer then fdiv (compSum g) l else fzero
  let b := fdiv (compSum ((g.zip xh).map (fun p => fmul p.1 p.2))) l
  (g.zip xh).map (fun p =>
    let t := if layer then fsub p.1 a else p.1
    fmul (fsub t (fmul p.2 b)) rstd)

end Sys2Proof.Machine
end

