-- ==== Sys2Proof/Machine/Cells.lean ====
section
/-!
DEFINITION. The matrix cells: operand pairs (R51), group sums (R59–R64), passes, partial regions and the Siding
(R69–R73), the output stage (R83), zero maps and zero-tile speculation (R88–R91), and MATMUL (R79, R80, R497).
The work is computed from readers of the operand planes, so that it does not depend on where they lie.
-/
namespace Sys2Proof.Machine

/-- What a work computation reads: descriptor field (byte offset ÷ 8) and logical offset, device virtual addresses,
Platform bytes by core, latched expansion tables, the latched micro-program, the draws. -/
structure IO where
  rd    : Nat → Nat → Byte
  va    : Nat → Byte
  plat  : Nat → Nat → Byte
  table : Nat → List Byte
  prog  : Prog
  rng   : Rng
  /-- pool lines that the busy cores have used of their ZC slices (R105) -/
  zcUsed : List Nat

/-- What a work computation produces: bytes of output planes (field, logical offset, bytes), bytes at device virtual
addresses (field, address, bytes), bytes of Platform partial regions (core, offset, bytes), conversion counts by the unit that converts (a core
entry; for UPDATE a stack), operation counters. -/
structure WorkOut where
  outs   : List (Nat × Nat × List Byte)
  direct : List (Nat × Nat × List Byte) := []
  parts  : List (Nat × Nat × List Byte) := []
  health : List (Nat × Health) := []
  oc     : List (Oc × Nat) := []
  /-- skipped issue slots and replayed region-passes by core (R91) -/
  zs     : List (Nat × Nat × Nat) := []
  /-- bytes of 4-bit planes of which one half is final: field, offset, the byte with the other half 0 (R269) -/
  halves : List (Nat × Nat × Byte) := []
  /-- pool lines used of the ZC slices after the work -/
  zcUsed : Option (List Nat) := .none

def WorkOut.none : WorkOut := { outs := [] }

/-- All conversion counts of a work. -/
def WorkOut.total (w : WorkOut) : Health := w.health.foldl (fun h e => h.add e.2) Health.zero

/-- Conversion counts by owner: `own` names the owner of an item, `h` counts the items that a predicate names. -/
def byOwner (own : Nat → Nat) (items : List Nat) (h : (Nat → Bool) → Health) : List (Nat × Health) :=
  ((items.map own).eraseDups).map (fun e => (e, h (fun i => own i == e)))

/-- The units [lo, hi) of a command's work: between two units the command may yield (R74, R134, R185, R192, R222). -/
structure Win where
  lo : Nat
  hi : Nat
  deriving DecidableEq, Repr

/-- The bytes of a plane, from offset `o` on, that `keep` keeps, in runs of offset and bytes. -/
def cutRuns (keep : Nat → Bool) : Nat → List Byte → List (Nat × List Byte)
  | _, [] => []
  | o, b :: t =>
    let r := cutRuns keep (o + 1) t
    if keep o then
      match r with
      | (p, l) :: u => if p = o + 1 then (o, b :: l) :: u else (o, [b]) :: r
      | [] => [(o, [b])]
    else r

/-- The element in the upper half of byte o of a plane of n 4-bit elements; the last byte may have none. -/
def upperHalf (n o : Nat) : Nat := min (2 * o + 1) (n - 1)

/-- The runs of the plane b of field f that `own` keeps by element: a byte that two 4-bit elements share goes out when both are final (R269). -/
def cutPlane (f bits n : Nat) (own : Nat → Bool) (b : List Byte) : List (Nat × Nat × List Byte) :=
  (cutRuns (fun x => own (x * 8 / max 1 bits) && (bits != 4 || own (upperHalf n x))) 0 b).map (fun r => (f, r.1, r.2))

/-- The same of a plane of bytes. -/
def cutBytes (f : Nat) (own : Nat → Bool) (b : List Byte) : List (Nat × Nat × List Byte) := cutPlane f 8 0 own b

/-- The bytes of a 4-bit plane of which `own` keeps one half: field, offset, the byte with the other half 0. -/
def cutHalves (f bits n : Nat) (own : Nat → Bool) (b : List Byte) : List (Nat × Nat × Byte) :=
  if bits ≠ 4 then []
  else
    b.zipIdx.filterMap (fun x =>
      let lo := own (2 * x.2)
      if lo = own (upperHalf n x.2) then none else some (f, x.2, if lo then x.1 &&& 0x0F else x.1 &&& 0xF0))

/-! ## Operands -/

/-- The readers of one operand: format word, elements, scales, zero points, expansion table. -/
structure Opd where
  w     : Word
  rd    : Nat → Byte
  sc    : Nat → Byte
  zp    : Nat → Byte
  table : List Byte

/-- The value of element `e` whose scale (block or group) has index `g` (R46, R52, R53). -/
def Opd.val (o : Opd) (e g : Nat) : Ext :=
  let b := elemBits (fmtBits o.w) o.rd e
  if fmtBlock o.w then blockValue (fmtCode o.w) (o.sc g).toNat b
  else if fmtXmode o.w = 1 then expandTable o.w o.table (b % 16)
  else if fmtXmode o.w = 2 then (expandScale o.w b (o.zp g).toNat (elemBits 16 o.sc g)).2
  else codeValue (fmtCode o.w) (fmtUsgn o.w) b

/-- The count of one expansion (R53, R57). -/
def Opd.expansion (o : Opd) (e g : Nat) : Health :=
  if fmtXmode o.w = 2 then
    Health.ofConv (expandScale o.w (elemBits (fmtBits o.w) o.rd e) (o.zp g).toNat (elemBits 16 o.sc g)).1
  else Health.zero

/-- The class of an operand in R51: 0 BF16, 1 FP8, 2 integer, 3 compensated pair. -/
def opClass (w : Word) : Option Nat :=
  let c := fmtCode w
  if c = cBF16 then some 0
  else if c = cE4M3 ∨ c = cE5M2 ∨ codeBlock c then some 1
  else if c = cINT8 ∨ c = cINT4 then (if fmtXmode w = 0 then some 2 else if fmtXtgt w = 0 then some 0 else some 1)
  else if c = cFP32P then some 3
  else none

/-- The class of an operand pair; `none` when R51 does not list it. -/
def pairClass (a b : Word) : Option Nat :=
  match opClass a, opClass b with
  | some x, some y =>
    if x ≠ y then none
    else if fmtBlock a ∧ fmtBlock b ∧ fmtBlk16 a ≠ fmtBlk16 b then none
    else some x
  | _, _ => none

def pairBlock (a b : Word) : Bool := fmtBlock a || fmtBlock b

/-- The block size of a pair with a block operand. -/
def pairBs (a b : Word) : Nat := if fmtBlock a then fmtBs a else fmtBs b

/-- Elements of one k-step (R59). -/
def kStep (cls : Nat) : Nat := if cls = 0 ∨ cls = 3 then 4 else 8

/-- The largest MB × NB (R67). -/
def maxTiles (a b : Word) : Nat := if pairBlock a b then 8 else 16

/-- The exact sum of a group's products (R61, R62). -/
def groupSum (ps : List (Ext × Ext)) : Ext := ps.foldl (fun a p => Ext.add a (Ext.mul p.1 p.2)) Ext.zero

/-- The exact integer of a value that is one. -/
def Ext.toInt (x : Ext) : Int :=
  match x with
  | .fin n m e => let v : Int := roundAt .rtz m e 0; if n then -v else v
  | _ => 0

/-! ## Accumulation -/

/-- A product to accumulate: for output (m, n) and k-step s, the group sums that join at s, in order (R61, R64). An
integer product has one exact integer per k-step. -/
structure Product where
  m     : Nat
  n     : Nat
  steps : Nat
  isInt : Bool
  group : Nat → Nat → Nat → List Ext
  int   : Nat → Nat → Nat → Int

/-- An accumulator value: FP32 or INT32 bits, and the overflowing additions met. -/
structure AccVal where
  v   : Word
  sat : Nat
  deriving DecidableEq, Repr

def AccVal.zero : AccVal := ⟨0, 0⟩

/-- An INT32 addition under IOVF (R44, R63). -/
def intAdd (wrap : Bool) (a : AccVal) (x : Int) : AccVal :=
  let c := convInt 32 false .rne wrap (Ext.ofInt (signed 32 a.v.toNat + x))
  ⟨BitVec.ofNat 32 c.bits, a.sat + b2n c.sat⟩

/-- Accumulate the k-steps [lo, lo + n) of one output from zero (R62–R64, R69). -/
def Product.pass (p : Product) (wrap : Bool) (i j lo n : Nat) : AccVal :=
  (upFrom lo n).foldl (fun a s =>
    if p.isInt then intAdd wrap a (p.int i j s) else ⟨(p.group i j s).foldl join a.v, a.sat⟩) AccVal.zero

/-- A partial value: the sum and its compensation (R71, R72). -/
structure Part where
  s : Word
  c : Word
  deriving DecidableEq, Repr

/-- How partial sums merge. -/
structure MergeMode where
  siding : Bool
  isInt  : Bool
  wrap   : Bool
  deriving DecidableEq, Repr

/-- Merge a pass's accumulator into the partial value, or begin one (R71, R72). -/
def merge (md : MergeMode) (p : Option Part) (x : AccVal) : Part × Nat :=
  match p with
  | none => (⟨x.v, 0⟩, x.sat)
  | some q =>
    if md.isInt then
      let a := intAdd md.wrap ⟨q.s, x.sat⟩ (signed 32 x.v.toNat)
      (⟨a.v, 0⟩, a.sat)
    else if md.siding then
      let r := compAdd (q.s, q.c) x.v
      (⟨r.1, r.2⟩, x.sat)
    else (⟨join q.s (v32 x.v), 0⟩, x.sat)

/-- The value that a partial value passes to the output stage (R71, R72). -/
def Part.final (md : MergeMode) (p : Part) : Word := if md.siding then compValue (p.s, p.c) else p.s

/-- k-steps of a pass of length `kp` (0 = one pass), and the number of passes (R69). -/
def Product.len (p : Product) (kp : Nat) : Nat := if kp = 0 then max p.steps 1 else kp
def Product.passes (p : Product) (kp : Nat) : Nat := ceilDiv p.steps (p.len kp)

/-- Run the passes [q0, q1) of one output from an initial partial value (R69): the last partial value and the overflow count.
With K = 0 no pass runs, with CONT_IN the partial value goes to the output stage as it is: R66, R69 and R73 do not settle K = 0
with CONT_IN or CONT_OUT (DESIGN CHOICE, log 98). -/
def Product.run (p : Product) (md : MergeMode) (kp q0 q1 : Nat) (start : Option Part) (i j : Nat) : Option Part × Nat :=
  let len := p.len kp
  (upFrom q0 (min q1 (p.passes kp) - q0)).foldl (fun acc q =>
    let x := p.pass md.wrap i j (q * len) (min len (p.steps - q * len))
    let r := merge md acc.1 x
    (some r.1, acc.2 + r.2)) (start, 0)

/-! ## Core tiles (R82) -/

/-- Rows (or columns) of a core tile: 32 × ⌈x / (32 × g)⌉. -/
def tileExtent (x g : Nat) : Nat := 32 * ceilDiv x (32 * g)

/-- A core's share: core, first row, rows, first column, columns. -/
structure Share where
  core : Nat
  r0   : Nat
  rows : Nat
  c0   : Nat
  cols : Nat
  deriving DecidableEq, Repr

/-- The shares of a core list over a grid (R82). -/
def shares (cores : List Nat) (m n gm gn : Nat) : List Share :=
  let mc := tileExtent m gm
  let nc := tileExtent n gn
  cores.zipIdx.map (fun p =>
    let i := p.2 / gn
    let j := p.2 % gn
    ⟨p.1, i * mc, min mc (m - min m (i * mc)), j * nc, min nc (n - min n (j * nc))⟩)

/-- The passes and the regions of a product on core tiles of mc × nc (R67, R69): one unit is the pass of one region, in the order
of R69. -/
structure Tiling where
  mc     : Nat
  nc     : Nat
  mb     : Nat
  nb     : Nat
  passes : Nat
  deriving DecidableEq, Repr

def Tiling.across (g : Tiling) : Nat := ceilDiv (g.nc / 32) g.nb
def Tiling.regions (g : Tiling) : Nat := max 1 (ceilDiv (g.mc / 32) g.mb * g.across)
def Tiling.units (g : Tiling) : Nat := max 1 g.passes * g.regions

/-- The region of output (i, j) on its core tile. -/
def Tiling.region (g : Tiling) (i j : Nat) : Nat := i % g.mc / 32 / g.mb * g.across + j % g.nc / 32 / g.nb

/-- The passes of the region of output (i, j) among the first u units. -/
def Tiling.done (g : Tiling) (u i j : Nat) : Nat := u / g.regions + b2n (decide (g.region i j < u % g.regions))

/-- The units of a window bring output (i, j) to its output stage. -/
def Tiling.ends (g : Tiling) (w : Win) (i j : Nat) : Bool :=
  decide (g.done w.lo i j < max 1 g.passes) && decide (max 1 g.passes ≤ g.done w.hi i j)

/-- Shares that hold work. -/
def Share.busy (s : Share) : Bool := s.rows != 0 && s.cols != 0

def Share.rowList (s : Share) : List Nat := upFrom s.r0 s.rows
def Share.colList (s : Share) : List Nat := upFrom s.c0 s.cols

/-- A share takes output (i, j). -/
def Share.holds (s : Share) (i j : Nat) : Bool :=
  decide (s.r0 ≤ i) && decide (i < s.r0 + s.rows) && decide (s.c0 ≤ j) && decide (j < s.c0 + s.cols)

/-- The rows and the columns of region t of a share (R67, R69, R82). -/
def Tiling.rowsOf (g : Tiling) (s : Share) (t : Nat) : List Nat :=
  (upFrom (s.r0 + 32 * g.mb * (t / max 1 g.across)) (32 * g.mb)).filter (fun i => decide (i < s.r0 + s.rows))
def Tiling.colsOf (g : Tiling) (s : Share) (t : Nat) : List Nat :=
  (upFrom (s.c0 + 32 * g.nb * (t % max 1 g.across)) (32 * g.nb)).filter (fun j => decide (j < s.c0 + s.cols))

/-- Conversion counts by busy core entry. -/
def byShare (sh : List Share) (h : Nat → Share → Health) : List (Nat × Health) :=
  (sh.zipIdx.filter (fun e => e.1.busy)).map (fun e => (e.2, h e.2 e.1))

/-- The elements (element and scale index) of an operand that core entry ci is the first to read, and first reads in unit u: the one expansion
that counts (R57). `reads` gives what a core entry reads in a unit. -/
def firstReads (units : Nat) (reads : Nat → Nat → List (Nat × Nat)) (ci u : Nat) : List (Nat × Nat) :=
  (reads ci u).eraseDups.filter (fun e =>
    !(List.range ci).any (fun k => (List.range units).any (fun v => (reads k v).contains e))
      && !(List.range u).any (fun v => (reads ci v).contains e))

/-- The counts at the operand-expansion point of the units of a window on a core entry (R57, R58). -/
def expansions (o : Opd) (units : Nat) (reads : Nat → Nat → List (Nat × Nat)) (w : Win) (ci : Nat) : Health :=
  if fmtXmode o.w = 2 then
    (upFrom w.lo (w.hi - w.lo)).foldl (fun h u =>
      (firstReads units reads ci u).foldl (fun h e => h.add (o.expansion e.1 e.2)) h) Health.zero
  else Health.zero

/-! ## Partial regions (R70) -/

/-- Bytes of a partial region. -/
def partBytes (mc nc : Nat) (siding : Bool) : Nat := 0x800 + mc / 32 * (nc / 32) * (if siding then 0x2000 else 0x1000)

/-- Offset of element (r, c) of a core tile in its partial region. -/
def partOff (nc : Nat) (siding : Bool) (r c : Nat) : Nat :=
  0x800 + (r / 32 * (nc / 32) + c / 32) * (if siding then 0x2000 else 0x1000) + r % 32 * 128 + c % 32 * 4

/-- The header of a partial region (R70). -/
def partHeader (chain passes mc nc : Nat) (siding isInt : Bool) : List Byte :=
  toLe 4 chain ++ toLe 4 passes ++ toLe 2 mc ++ toLe 2 nc ++ toLe 1 (b2n siding + 2 * b2n isInt) ++ toLe 3 0

/-- Read a partial value from a Platform. -/
def readPart (io : IO) (core base nc : Nat) (siding : Bool) (r c : Nat) : Part :=
  let o := base + partOff nc siding r c
  ⟨BitVec.ofNat 32 (elemBits 32 (fun i => io.plat core (o + i)) 0),
   if siding then BitVec.ofNat 32 (elemBits 32 (fun i => io.plat core (o + 0x1000 + i)) 0) else 0⟩

/-! ## Zero maps and zero-tile speculation (R88–R91) -/

/-- Bytes of one row of tiles in a zero map of a matrix with `cols` columns. -/
def mapRowBytes (cols : Nat) : Nat := 8 * ceilDiv cols 256

/-- The bit of tile (i, j) in a zero map. -/
def mapBit (rd : Nat → Byte) (cols i j : Nat) : Bool := bitAt (rd (mapRowBytes cols * i + j / 8)).toNat (j % 8)

/-- A zero map of a `rows` × `cols` matrix of zero flags (R88). A tile at the ragged edge counts its missing values as zero, and the bits past
the last tile of a row are 0: the rule does not say (DESIGN CHOICE, log 99). -/
def zeroMap (rows cols : Nat) (isZero : Nat → Nat → Bool) : List Byte :=
  (List.range (ceilDiv rows 4)).flatMap (fun i =>
    (List.range (mapRowBytes cols)).map (fun b =>
      BitVec.ofNat 8 ((List.range 8).foldl (fun a t =>
        let j := 8 * b + t
        let tile := decide (j < ceilDiv cols 4) && (List.range 4).all (fun r => (List.range 4).all (fun c =>
          decide (rows ≤ 4 * i + r) || decide (cols ≤ 4 * j + c) || isZero (4 * i + r) (4 * j + c)))
        a + flagAt tile t) 0)))

/-- What speculation sees of a product: `predicted g s j` says that the A tile of row group g (4 rows) at k-step s is
predicted zero for output block column j, `holds g s j` that the checks of R90 hold for it. -/
structure Spec where
  predicted : Nat → Nat → Nat → Bool
  holds     : Nat → Nat → Nat → Bool

/-- ZS_SKIP and ZS_REPLAY of one region-pass (R89–R91): block rows `br`, block columns `bc`, k-steps of the pass. A skipped slab of an FP32P
product, three issue cycles for a k-step (R61), counts one (DESIGN CHOICE, log 100). -/
def regionPass (z : Spec) (br bc steps : List Nat) : Nat × Nat :=
  let groups (b : Nat) : List Nat := upFrom (8 * b) 8
  let slabs := br.flatMap (fun b => steps.flatMap (fun s => bc.map (fun j => (b, s, j))))
  let ok := slabs.all (fun p => (groups p.1).all (fun g => !z.predicted g p.2.1 p.2.2 || z.holds g p.2.1 p.2.2))
  if ok then ((slabs.filter (fun p => (groups p.1).all (fun g => z.predicted g p.2.1 p.2.2))).length, 0) else (0, 1)

/-- ZS_SKIP and ZS_REPLAY by core: the region-passes of every busy share among the units of a window (R69, R82, R91). -/
def specCounts (z : Spec) (sh : List Share) (g : Tiling) (w : Win) (len steps : Nat) : List (Nat × Nat × Nat) :=
  (sh.filter Share.busy).map (fun s =>
    let brs := chunks g.mb (s.rows + 1) (upFrom (s.r0 / 32) (ceilDiv s.rows 32))
    let bcs := chunks g.nb (s.cols + 1) (upFrom (s.c0 / 32) (ceilDiv s.cols 32))
    let t := (List.range g.passes).foldl (fun acc q => brs.zipIdx.foldl (fun acc br => bcs.zipIdx.foldl (fun acc bc =>
      let u := q * g.regions + br.2 * g.across + bc.2
      if w.lo ≤ u ∧ u < w.hi then
        let r := regionPass z br.1 bc.1 (upFrom (q * len) (min len (steps - q * len)))
        (acc.1 + r.1, acc.2 + r.2)
      else acc) acc) acc) (0, 0)
    (s.core, t.1, t.2))

/-- The counts of all cores. -/
def zsOc (l : List (Nat × Nat × Nat)) : List (Oc × Nat) :=
  [(Oc.zsSkip, l.foldl (fun a x => a + x.2.1) 0), (Oc.zsReplay, l.foldl (fun a x => a + x.2.2) 0)]

/-! ## The output stage (R83) -/

/-- The output stage of MATMUL and CONV. Fields are descriptor fields of the parameter block; `obM` blocks along M. -/
structure OutStage where
  m        : Nat
  n        : Nat
  fmtC     : Word
  fmtVec   : Word
  fmtResid : Word
  fmtPre   : Word
  scale    : Word
  slope    : Word
  act      : Nat
  cols     : Option Nat
  bias     : Option Nat
  resid    : Option Nat
  pre      : Option Nat
  isInt    : Bool

/-- An element of a plain plane, widened to FP32 (R45, R170); an INT32 residual, which R45 does not widen, is rounded by RNE (DESIGN CHOICE, log
123). -/
def readF32 (w : Word) (rd : Nat → Byte) (i : Nat) : Word := f32 (codeValue (fmtCode w) (fmtUsgn w) (elemBits (fmtBits w) rd i))

/-- Values before the final conversion: v after step 6, and the pre-activation value of step 4, for element (m, n);
`ri` is the flat index of the element in the residual (R83). -/
def OutStage.value (o : OutStage) (io : IO) (v : Word) (j ri : Nat) : Word × Word :=
  let v0 := if o.isInt then f32 (Ext.ofInt (signed 32 v.toNat)) else v
  let v1 := fmul v0 o.scale
  let v2 := match o.cols with
    | some f => fmul v1 (readF32 o.fmtVec (io.rd f) j)
    | none => v1
  let v3 := match o.bias with
    | some f => fadd v2 (readF32 o.fmtVec (io.rd f) j)
    | none => v2
  let v5 := cellAct o.act v3 o.slope
  let v6 := match o.resid with
    | some f => fadd v5 (readF32 o.fmtResid (io.rd f) ri)
    | none => v5
  (v6, v3)

/-- The exact value that step 7 converts (R83, R86): an integer output narrows the INT32 value, after ReLU when ACT is
1. -/
def OutStage.exact (o : OutStage) (v final : Word) : Ext :=
  if fmtInt o.fmtC ∧ o.isInt then
    let x := signed 32 v.toNat
    Ext.ofInt (if o.act = 1 ∧ x < 0 then 0 else x)
  else v32 final

/-- Whether a converted element decodes to ±0 (R88). -/
def convZero (w : Word) (bits scale : Nat) : Bool :=
  if fmtBlock w then (blockValue (fmtCode w) scale bits).isZero
  else (codeValue (fmtCode w) (fmtUsgn w) bits).isZero

/-- A plane converted run by run along its block axis, and stored row-major: element bytes, scale bytes, counts, and
the zero flags of its elements in the order of the runs. -/
structure PlaneOut where
  elems  : List Byte
  scales : List Byte
  health : Health
  zero   : List (List Bool)

/-- Convert a rows × cols matrix of values with blocks along its rows (R47, R49). -/
def convRows (w : Word) (rows : List (List (Ext × Nat))) : PlaneOut :=
  let rs := rows.map (convRun w)
  let bs := fmtBs w
  ⟨packElems (fmtBits w) (rs.flatMap (·.elems)), rs.flatMap (fun r => r.scales.map (BitVec.ofNat 8)),
   rs.foldl (fun h r => h.add r.health) Health.zero,
   rs.map (fun r => r.elems.zipIdx.map (fun p => convZero w p.1 (nth 0 r.scales (p.2 / bs))))⟩

/-- The transpose of a list of equally long rows. -/
def transpose {α : Type} (d : α) (n : Nat) (rows : List (List α)) : List (List α) :=
  (List.range n).map (fun j => rows.map (fun r => nth d r j))

/-- Convert a rows × cols matrix with blocks along its columns (OBAXIS = 1), stored row-major. -/
def convCols (w : Word) (rows : List (List (Ext × Nat))) (cols : Nat) : PlaneOut :=
  let rs := (transpose (Ext.zero, 0) cols rows).map (convRun w)
  let bs := fmtBs w
  let depth := roundUp rows.length bs
  ⟨packElems (fmtBits w) ((transpose 0 depth (rs.map (·.elems))).flatMap id),
   (transpose 0 (depth / bs) (rs.map (·.scales))).flatMap (fun l => l.map (BitVec.ofNat 8)),
   rs.foldl (fun h r => h.add r.health) Health.zero,
   transpose true depth (rs.map (fun r => r.elems.zipIdx.map (fun p => convZero w p.1 (nth 0 r.scales (p.2 / bs)))))⟩

/-! ## MATMUL (R79, R80, R497) -/

/-- The fields of a MATMUL parameter block. -/
structure MmPar where
  m : Nat
  n : Nat
  k : Nat
  flags : Nat
  fmtA : Word
  fmtB : Word
  fmtC : Word
  fmtVec : Word
  fmtResid : Word
  fmtPre : Word
  gm : Nat
  gn : Nat
  mb : Nat
  nb : Nat
  kp : Nat
  scale : Word
  slope : Word
  partAt : Nat
  chain : Nat
  deriving DecidableEq, Repr

def w32At (b : List Byte) (o : Nat) : Word := BitVec.ofNat 32 (u32At b o)

def mmPar (b : List Byte) : MmPar where
  m := u32At b 0x00
  n := u32At b 0x04
  k := u32At b 0x08
  flags := u32At b 0x0C
  fmtA := w32At b 0x10
  fmtB := w32At b 0x14
  fmtC := w32At b 0x18
  fmtVec := w32At b 0x1C
  fmtResid := w32At b 0x20
  fmtPre := w32At b 0x24
  gm := field (u32At b 0x28) 8 0
  gn := field (u32At b 0x28) 24 16
  mb := field (u32At b 0x2C) 3 0 + 1
  nb := field (u32At b 0x2C) 7 4 + 1
  kp := field (u32At b 0x2C) 31 16
  scale := w32At b 0x30
  slope := w32At b 0x34
  partAt := field (u32At b 0x38) 20 0
  chain := u32At b 0x3C

def MmPar.transA (p : MmPar) : Bool := bitAt p.flags 0
def MmPar.transB (p : MmPar) : Bool := bitAt p.flags 1
def MmPar.siding (p : MmPar) : Bool := bitAt p.flags 2
def MmPar.biasEn (p : MmPar) : Bool := bitAt p.flags 3
def MmPar.colsEn (p : MmPar) : Bool := bitAt p.flags 4
def MmPar.residEn (p : MmPar) : Bool := bitAt p.flags 5
def MmPar.preEn (p : MmPar) : Bool := bitAt p.flags 6
def MmPar.zinEn (p : MmPar) : Bool := bitAt p.flags 7
def MmPar.zoutEn (p : MmPar) : Bool := bitAt p.flags 8
def MmPar.act (p : MmPar) : Nat := field p.flags 12 9
def MmPar.obM (p : MmPar) : Bool := bitAt p.flags 13
def MmPar.contIn (p : MmPar) : Bool := bitAt p.flags 14
def MmPar.contOut (p : MmPar) : Bool := bitAt p.flags 15
def MmPar.cls (p : MmPar) : Nat := (pairClass p.fmtA p.fmtB).getD 0
def MmPar.isInt (p : MmPar) : Bool := p.cls == 2
def MmPar.block (p : MmPar) : Bool := pairBlock p.fmtA p.fmtB
def MmPar.bs (p : MmPar) : Nat := pairBs p.fmtA p.fmtB
def MmPar.ks (p : MmPar) : Nat := kStep p.cls
/-- k-steps of the whole K; a pair with a block operand is padded to whole blocks (R47, R61). -/
def MmPar.steps (p : MmPar) : Nat := if p.block then ceilDiv p.k p.bs * (p.bs / 8) else ceilDiv p.k p.ks
def MmPar.passLen (p : MmPar) : Nat := if p.kp = 0 then max p.steps 1 else p.kp
def MmPar.passes (p : MmPar) : Nat := ceilDiv p.steps p.passLen
def MmPar.merge (p : MmPar) : MergeMode := ⟨p.siding, p.isInt, fmtIovf p.fmtC⟩
/-- A command uses its partial region with more than one pass, CONT_IN or CONT_OUT (R70). -/
def MmPar.usesPart (p : MmPar) : Bool := decide (1 < p.passes) || p.contIn || p.contOut

/-- The padded K extent of an operand's planes (R497). -/
def kPad (w : Word) (k : Nat) : Nat := if fmtBlock w then roundUp k (fmtBs w) else k

/-- The size along K of one scale of an operand: block, group, or nothing. -/
def scaleSpan (w : Word) (k : Nat) : Nat := if fmtBlock w then fmtBs w else fmtGroup w k

/-- Element index and scale index of operand element (r, k) of an operand with `rows` rows (m or n): stored [rows][K]
when `kInner`, [K][rows] otherwise (R497). -/
def opdIndex (w : Word) (rows kk : Nat) (kInner : Bool) (r k : Nat) : Nat × Nat :=
  let g := scaleSpan w kk
  if kInner then (r * kPad w kk + k, r * ceilDiv (kPad w kk) g + k / g)
  else (k * rows + r, k / g * rows + r)

/-- The operand readers of a MATMUL or CONV from its planes' fields. -/
def mkOpd (io : IO) (w : Word) (fe fs fz : Nat) : Opd :=
  ⟨w, io.rd fe, io.rd fs, io.rd fz, io.table (fmtXarg w)⟩

def mmA (io : IO) (p : MmPar) : Opd := mkOpd io p.fmtA 9 12 14
def mmB (io : IO) (p : MmPar) : Opd := mkOpd io p.fmtB 10 13 15

/-- A[m, k] and B[k, n]; zero beyond K. -/
def mmAval (io : IO) (p : MmPar) (m k : Nat) : Ext :=
  if k < p.k then let i := opdIndex p.fmtA p.m p.k (!p.transA) m k; (mmA io p).val i.1 i.2 else Ext.zero
def mmBval (io : IO) (p : MmPar) (k n : Nat) : Ext :=
  if k < p.k then let i := opdIndex p.fmtB p.n p.k p.transB n k; (mmB io p).val i.1 i.2 else Ext.zero

/-- The group sums of a k-step s from value functions (R61): FP32P has three, a block pair one at the last k-step of a
block. -/
def groupsOf (cls ks bs : Nat) (block : Bool) (a b : Nat → Ext) (s : Nat) : List Ext :=
  if block then
    (if (s + 1) % (bs / 8) = 0 then
      let lo := (s + 1) * 8 - bs
      [groupSum ((upFrom lo bs).map (fun k => (a k, b k)))]
    else [])
  else if cls = 3 then
    let l := (upFrom (s * 4) 4).map (fun k => (splitPair (a k), splitPair (b k)))
    [groupSum (l.map (fun q => (q.1.2, q.2.1))), groupSum (l.map (fun q => (q.1.1, q.2.2))),
     groupSum (l.map (fun q => (q.1.1, q.2.1)))]
  else [groupSum ((upFrom (s * ks) ks).map (fun k => (a k, b k)))]

/-- The product of a MATMUL. -/
def mmProduct (io : IO) (p : MmPar) : Product where
  m := p.m
  n := p.n
  steps := p.steps
  isInt := p.isInt
  group m n s := groupsOf p.cls p.ks p.bs p.block (mmAval io p m) (fun k => mmBval io p k n) s
  int m n s := (upFrom (s * 8) 8).foldl (fun a k => a + (mmAval io p m k).toInt * (mmBval io p k n).toInt) 0

/-- Elements along K of one pass chunk. -/
def MmPar.chunkK (p : MmPar) : Nat := min (p.passLen * p.ks) (roundUp p.k p.ks)

/-- The k of chunk t. -/
def chunkOf (kc kk t : Nat) : List Nat := upFrom (t * kc) (min kc (kk - t * kc))

/-- Element and scale index of A[m, k] and B[k, n] of a MATMUL (R497). -/
def MmPar.cellA (p : MmPar) (m k : Nat) : Option (Nat × Nat) := if k < p.k then some (opdIndex p.fmtA p.m p.k (!p.transA) m k) else none
def MmPar.cellB (p : MmPar) (k n : Nat) : Option (Nat × Nat) := if k < p.k then some (opdIndex p.fmtB p.n p.k p.transB n k) else none

/-- Whether a value would spoil a product with zero (R90). -/
def Ext.isSpecial (x : Ext) : Bool := x.isNan || x.isInf

/-- Speculation of a MATMUL (R88–R90) with the predicted map of field 21. -/
def mmSpec (io : IO) (p : MmPar) : Spec where
  predicted g s _ :=
    let tiles := if p.ks = 4 then [s] else [2 * s, 2 * s + 1]
    decide (g < ceilDiv p.m 4) && tiles.all (fun t => decide (t < ceilDiv p.k 4) && mapBit (io.rd 21) p.k g t)
  holds g s j :=
    (upFrom (s * p.ks) p.ks).all (fun k =>
      (upFrom (4 * g) 4).all (fun m => decide (p.m ≤ m) || decide (p.k ≤ k) || (mmAval io p m k).isZero)
        && (upFrom (32 * j) 32).all (fun n => decide (p.n ≤ n) || decide (p.k ≤ k) || !(mmBval io p k n).isSpecial))

/-- The output stage of a MATMUL. -/
def mmOut (p : MmPar) : OutStage where
  m := p.m
  n := p.n
  fmtC := p.fmtC
  fmtVec := p.fmtVec
  fmtResid := p.fmtResid
  fmtPre := p.fmtPre
  scale := p.scale
  slope := p.slope
  act := p.act
  cols := if p.colsEn then some 18 else none
  bias := if p.biasEn then some 17 else none
  resid := if p.residEn then some 19 else none
  pre := if p.preEn then some 20 else none
  isInt := p.isInt

/-- The accumulated value of every output element, by row, with its overflow count: from the partial regions where `start`
gives one (R73, R74), by the passes [q0, q1) that `span` gives (R69). -/
def accumulate (pr : Product) (md : MergeMode) (kp : Nat) (start : Nat → Nat → Option Part) (span : Nat → Nat → Nat × Nat) :
    List (List (Option Part × Nat)) :=
  (List.range pr.m).map (fun i => (List.range pr.n).map (fun j => pr.run md kp (span i j).1 (span i j).2 (start i j) i j))

/-- The overflowing additions of a share. -/
def Share.overflows (s : Share) (acc : List (List (Option Part × Nat))) : Nat :=
  s.rowList.foldl (fun a i => s.colList.foldl (fun a j => a + (nth (none, 0) (nth [] acc i) j).2) a) 0

/-- The partial value that a share's region holds for output (i, j) (R73). -/
def startPart (io : IO) (sh : List Share) (base nc : Nat) (siding : Bool) (i j : Nat) : Option Part :=
  (sh.find? (·.holds i j)).map
    (fun s => readPart io s.core base nc siding (i - s.r0) (j - s.c0))

/-- The header of each region that CONT_IN takes up shows the command's own CHAIN, MC, NC and KIND (R73). -/
def headersMatch (io : IO) (sh : List Share) (base chain mc nc : Nat) (siding isInt : Bool) : Bool :=
  let own := partHeader chain 0 mc nc siding isInt
  let kept := [0, 1, 2, 3, 8, 9, 10, 11, 12]
  (sh.filter Share.busy).all (fun s => kept.all (fun o => io.plat s.core (base + o) == nth 0 own o))

/-- The Platform bytes of one share's partial region (R70): its header and the elements that `put` names. The elements of a block that lie
beyond M or N, and blocks beyond the share, keep their bytes: R70 does not say (DESIGN CHOICE, log 101). -/
def shareParts (sh : Share) (base nc : Nat) (siding : Bool) (vals : List (List (Option Part))) (put : Nat → Nat → Bool)
    (header : List Byte) : List (Nat × Nat × List Byte) :=
  (sh.core, base, header) ::
    (List.range sh.rows).flatMap (fun r => (List.range sh.cols).flatMap (fun c =>
      match (if put (sh.r0 + r) (sh.c0 + c) then nth none (nth [] vals (sh.r0 + r)) (sh.c0 + c) else none) with
      | none => []
      | some p =>
        let o := base + partOff nc siding r c
        (sh.core, o, toLe 4 p.s.toNat) :: (if siding then [(sh.core, o + 0x1000, toLe 4 p.c.toNat)] else [])))

/-- The Platform bytes that the merges of a window's units leave in the partial regions (R69–R74): the final pass is not written back unless
CONT_OUT is set, and with no merge nothing is written (log 98). The header counts the passes that every region has merged, those of
earlier commands included (DESIGN CHOICE within a pass, log 102). -/
def partsOut (io : IO) (sh : List Share) (pr : Product) (md : MergeMode) (start : Nat → Nat → Option Part)
    (g : Tiling) (w : Win) (kp base chain : Nat) (contIn contOut : Bool) : List (Nat × Nat × List Byte) :=
  let top := if contOut then g.passes else g.passes - 1
  if top = 0 then []
  else
    let span (i j : Nat) : Nat × Nat := (min (g.done w.lo i j) top, min (g.done w.hi i j) top)
    let vals := (accumulate pr md kp start span).map (fun r => r.map (·.1))
    (sh.filter Share.busy).flatMap (fun s =>
      let held := elemBits 32 (fun i => io.plat s.core (base + 4 + i)) 0
      let before := if contIn then held - min (w.lo / g.regions) top else 0
      shareParts s base g.nc md.siding vals (fun i j => decide ((span i j).1 < (span i j).2))
        (partHeader chain (before + min (w.hi / g.regions) top) g.mc g.nc md.siding md.isInt))

/-- The units of a product's work: the accumulated values with their overflow counts, and the Platform bytes that they leave (R69–R74). -/
structure UnitRun where
  acc   : List (List (Option Part × Nat))
  parts : List (Nat × Nat × List Byte)

def runUnits (io : IO) (sh : List Share) (pr : Product) (md : MergeMode) (g : Tiling) (w : Win) (kp base chain : Nat)
    (contIn contOut : Bool) : UnitRun :=
  let start (i j : Nat) : Option Part :=
    if contIn ∨ 0 < g.done w.lo i j then startPart io sh base g.nc md.siding i j else none
  ⟨accumulate pr md kp start (fun i j => (g.done w.lo i j, g.done w.hi i j)),
   partsOut io sh pr md start g w kp base chain contIn contOut⟩

/-- A MATMUL that may go on from the partial regions it names (R73). -/
def mmHeaders (io : IO) (p : MmPar) (cores : List Nat) : Bool :=
  !p.contIn || p.m == 0 || p.n == 0
    || headersMatch io (shares cores p.m p.n p.gm p.gn) p.partAt p.chain (tileExtent p.m p.gm) (tileExtent p.n p.gn) p.siding
        p.merge.isInt

/-- The tiling of a MATMUL. -/
def MmPar.tiling (p : MmPar) : Tiling := ⟨tileExtent p.m p.gm, tileExtent p.n p.gn, p.mb, p.nb, p.passes⟩

/-- What core entry ci reads of an operand of a MATMUL in unit u: B when `b` holds, else A (R69, R82). -/
def mmReads (p : MmPar) (sh : List Share) (b : Bool) (ci u : Nat) : List (Nat × Nat) :=
  let g := p.tiling
  let ks := chunkOf p.chunkK p.k (u / g.regions)
  match sh[ci]? with
  | none => []
  | some h =>
    if !h.busy then []
    else if b then ks.flatMap (fun k => (g.colsOf h (u % g.regions)).filterMap (p.cellB k))
    else (g.rowsOf h (u % g.regions)).flatMap (fun i => ks.filterMap (p.cellA i))

/-- The owners of the bytes of the planes of an m × n result: rows of `lw` elements, padded elements with the last row and column; scales
of `bs` elements along a row, or along a column; bytes of its zero map. -/
def ownElem {α : Type} (m n lw : Nat) (keep : Nat → Nat → α) (e : Nat) : α := keep (min (e / lw) (m - 1)) (min (e % lw) (n - 1))
def ownScale {α : Type} (m n bs : Nat) (down : Bool) (keep : Nat → Nat → α) (q : Nat) : α :=
  if down then keep (min (q / n * bs) (m - 1)) (q % n)
  else keep (q / ceilDiv n bs) (min (q % ceilDiv n bs * bs) (n - 1))
def ownMap {α : Type} (m n : Nat) (keep : Nat → Nat → α) (o : Nat) : α :=
  keep (min (4 * (o / mapRowBytes n)) (m - 1)) (min (32 * (o % mapRowBytes n)) (n - 1))

/-- The converted planes of a MATMUL: C and the pre-activation, of the outputs that `keep` keeps. -/
def mmPlanes (io : IO) (p : MmPar) (acc : List (List (Option Part × Nat))) (keep : Nat → Nat → Bool) : PlaneOut × PlaneOut :=
  let o := mmOut p
  let rows := acc.zipIdx.map (fun r => r.1.zipIdx.map (fun q =>
    let i := r.2 * p.n + q.2
    if keep r.2 q.2 then
      let v := (q.1.1.map (Part.final p.merge)).getD 0
      let f := o.value io v q.2 i
      ((o.exact v f.1, drawFor p.fmtC io.rng 0 i), (v32 f.2, drawFor p.fmtPre io.rng 1 i))
    else ((Ext.zero, 0), (Ext.zero, 0))))
  (if p.obM then convCols p.fmtC (rows.map (·.map (·.1))) p.n else convRows p.fmtC (rows.map (·.map (·.1))),
   if p.preEn then convRows p.fmtPre (rows.map (·.map (·.2))) else ⟨[], [], Health.zero, []⟩)

/-- The work of the units of a MATMUL on a core list (R59–R91). `spec` is false under NO_ZSPEC. -/
def mmWork (io : IO) (p : MmPar) (cores : List Nat) (spec : Bool) (w : Win) : WorkOut :=
  if p.m = 0 ∨ p.n = 0 then WorkOut.none
  else
    let sh := shares cores p.m p.n p.gm p.gn
    let g := p.tiling
    let r := runUnits io sh (mmProduct io p) p.merge g w p.kp p.partAt p.chain p.contIn p.contOut
    let zs := if p.zinEn ∧ spec then specCounts (mmSpec io p) sh g w p.passLen p.steps else []
    let before (e : Nat) (h : Share) : Health :=
      ((expansions (mmA io p) g.units (mmReads p sh false) w e).add (expansions (mmB io p) g.units (mmReads p sh true) w e)).add
        ⟨h.overflows r.acc, 0⟩
    if p.contOut then { outs := [], parts := r.parts, health := byShare sh before, oc := zsOc zs, zs := zs }
    else
      let keep := g.ends w
      let pl := mmPlanes io p r.acc keep
      let counts (e : Nat) (h : Share) : Health :=
        let q := mmPlanes io p r.acc (fun i j => keep i j && h.holds i j)
        (before e h).add (q.1.health.add q.2.health)
      let n := p.m * p.n
      let bs := fmtBs p.fmtC
      let ownC := ownElem p.m p.n (if fmtBlock p.fmtC && !p.obM then roundUp p.n bs else p.n) keep
      let ownP := ownElem p.m p.n p.n keep
      let zmap := zeroMap p.m p.n (fun i j => nth true (nth [] pl.1.zero i) j)
      { outs := cutPlane 11 (fmtBits p.fmtC) n ownC pl.1.elems
          ++ (if fmtBlock p.fmtC then cutBytes 16 (ownScale p.m p.n bs p.obM keep) pl.1.scales else [])
          ++ (if p.preEn then cutPlane 20 (fmtBits p.fmtPre) n ownP pl.2.elems else [])
          ++ (if p.zoutEn then cutBytes 22 (ownMap p.m p.n keep) zmap else [])
        parts := r.parts
        health := byShare sh counts
        oc := zsOc zs
        zs := zs
        halves := cutHalves 11 (fmtBits p.fmtC) n ownC pl.1.elems
          ++ (if p.preEn then cutHalves 20 (fmtBits p.fmtPre) n ownP pl.2.elems else []) }

end Sys2Proof.Machine
end

