-- ==== Sys2Proof/Machine/Par.lean ====
section
/-!
DEFINITION. Records and parameter blocks as numbers: the command record (R296, R297), chain records (R280), STEP_LOOP
(R313), checkpoint and dual-path records (R201, R249), MIGRATE (R246), attention (R125–R129, R147) and the Yard (R378,
R379).
-/
namespace Sys2Proof.Machine

/-! ## The command record (R296, R297) -/

/-- A wait or post entry. -/
def parseEnt (b : List Byte) (o : Nat) : SigEnt :=
  let e := u64At b o
  ⟨field e 15 0, field e 18 16, BitVec.ofNat 32 (e / 2 ^ 32)⟩

/-- The four entries at an offset. -/
def parseEnts (b : List Byte) (o : Nat) : List SigEnt := (List.range 4).map (fun i => parseEnt b (o + 8 * i))

def parseRec (b : List Byte) : CmdRec :=
  let opw := u32At b 0
  { opcode := field opw 7 0, chain := bitAt opw 16, dual := bitAt opw 17, startEn := bitAt opw 18
    dlEn := bitAt opw 19, barrier := bitAt opw 20, irq := bitAt opw 21
    rngId := w32At b 4, param := u64At b 8, dualRec := u64At b 0x10
    tStart := BitVec.ofNat 64 (u64At b 0x18), tDead := BitVec.ofNat 64 (u64At b 0x20), waitMs := u32At b 0x28
    waits := parseEnts b 0x30, posts := parseEnts b 0x50 }

/-- Families that R249 excludes from dual-path commands. -/
def neverDual (op : Nat) : Bool := op == 0x0C || op == 0x08 || op == 0x0F || op == 0x0D || op == 0x0E

/-- Families that take part in a hand-over of R283. -/
def chainFamily (op : Nat) : Bool := decide (1 ≤ op) && decide (op ≤ 6) && op != 4

/-- An entry with a reserved bit or code; `top` is the largest WOP or POP code. -/
def entBad (b : List Byte) (o top : Nat) : Bool :=
  (List.range 4).any (fun i =>
    let e := u64At b (o + 8 * i)
    field e 31 19 != 0 || decide (top < field e 18 16))

/-- The FORMAT cases of R299, with those of R313 for STEP_LOOP, R332, R370 and R410. -/
def recFormat (b : List Byte) : Bool :=
  let r := parseRec b
  let opw := u32At b 0
  decide (r.opcode = 0) || decide (0x0F < r.opcode)
    || field opw 15 8 != 0 || field opw 31 22 != 0 || !zeroAt b 0x2C 4 || !zeroAt b 0x70 16
    || (r.startEn == (r.tStart == 0)) || (r.dlEn == (r.tDead == 0)) || (r.dual == (r.dualRec == 0))
    || (r.dual && (!r.dlEn || neverDual r.opcode)) || (r.chain && !chainFamily r.opcode)
    || (r.startEn && r.dlEn && decide (r.tDead.toNat < r.tStart.toNat))
    || ((r.opcode == 0x0D || r.opcode == 0x0E) && r.param != 0)
    || entBad b 0x30 4 || entBad b 0x50 3

/-- The RANGE cases of R299. -/
def recRange (b : List Byte) : Bool :=
  let r := parseRec b
  decide (60000 < r.waitMs) || decide (2 ^ 52 ≤ r.param) || decide (2 ^ 52 ≤ r.dualRec)

/-! ## STEP_LOOP, checkpoint and dual-path records, MIGRATE -/

/-- R313. -/
structure LpPar where
  count : Nat
  body  : Nat
  nbody : Nat
  flags : Nat
  deriving DecidableEq, Repr

def lpPar (b : List Byte) : LpPar := ⟨u64At b 0, u64At b 8, u32At b 0x10, u32At b 0x14⟩

/-- A checkpoint record (R201). -/
structure Ckpt where
  tag   : Nat
  state : Nat
  step  : Nat
  loc   : Nat
  bytes : Nat
  prog  : Nat
  nprog : Nat
  deriving DecidableEq, Repr

def parseCkpt (b : List Byte) : Ckpt :=
  ⟨u32At b 0, u32At b 4, u64At b 8, u64At b 0x10, u64At b 0x18, u64At b 0x20, u32At b 0x28⟩

/-- What R203 finds wrong in a record: the tag, a reserved bit, NPROG. -/
def ckptBad (b : List Byte) (tag : Nat) : Bool :=
  let c := parseCkpt b
  c.tag != tag || c.state / 4 != 0 || !zeroAt b 0x2C 20 || c.nprog == 0 || decide (64 < c.nprog)

/-- R246. -/
structure MgPar where
  npages : Nat
  flags  : Nat
  fmt    : Word
  list   : Nat
  dst    : Nat
  out    : Nat
  deriving DecidableEq, Repr

def mgPar (b : List Byte) : MgPar := ⟨u32At b 0, u32At b 4, w32At b 8, u64At b 0x10, u64At b 0x18, u64At b 0x20⟩

def MgPar.tier (p : MgPar) : Nat := field p.flags 2 0
def MgPar.comp (p : MgPar) : Bool := bitAt p.flags 3
def MgPar.dc (p : MgPar) : Bool := bitAt p.flags 4

/-! ## Attention (R125–R129, R147) -/

/-- A sequence record (R125). -/
structure SeqRec where
  qOff  : Nat
  qLen  : Nat
  kOff  : Nat
  kLen  : Nat
  qPos0 : Nat
  kPos0 : Nat
  deriving DecidableEq, Repr

def parseSeq (b : List Byte) (i : Nat) : SeqRec :=
  let o := 32 * i
  ⟨u32At b o, u32At b (o + 4), u32At b (o + 8), u32At b (o + 12), u32At b (o + 16), u32At b (o + 20)⟩

structure AtPar where
  bwd   : Bool
  nseq  : Nat
  hq    : Nat
  hkv   : Nat
  shape : Nat
  flags : Nat
  fmtQ  : Word
  fmtK  : Word
  fmtV  : Word
  fmtO  : Word
  scale : Word
  window : Nat
  ring  : Nat
  ringTag : Word
  ttClass : Nat
  ncore : Nat
  fmtDo : Word
  fmtDq : Word
  fmtDkv : Word
  ringBuf : Nat
  ringBytes : Nat
  deriving DecidableEq, Repr

def atPar (op : Nat) (b : List Byte) : AtPar where
  bwd := op == 4
  nseq := u32At b 0x00
  hq := u16At b 0x04
  hkv := u16At b 0x06
  shape := u32At b 0x08
  flags := u32At b 0x0C
  fmtQ := w32At b 0x10
  fmtK := w32At b 0x14
  fmtV := w32At b 0x18
  fmtO := w32At b 0x1C
  scale := w32At b 0x20
  window := u32At b 0x24
  ring := u32At b 0x28
  ringTag := w32At b 0x2C
  ttClass := u32At b 0x30
  ncore := field (u32At b 0x34) 8 0
  fmtDo := w32At b 0x38
  fmtDq := w32At b 0x3C
  fmtDkv := w32At b 0xC0
  ringBuf := u64At b 0xB0
  ringBytes := u64At b 0xB8

def AtPar.d (p : AtPar) : Nat := field p.shape 8 0
def AtPar.qmbCode (p : AtPar) : Nat := field p.shape 17 16
def AtPar.qmb (p : AtPar) : Nat := 2 ^ p.qmbCode
def AtPar.qsb (p : AtPar) : Nat := field p.shape 26 24 + 1
def AtPar.causal (p : AtPar) : Bool := bitAt p.flags 0
def AtPar.segEn (p : AtPar) : Bool := bitAt p.flags 1
def AtPar.paged (p : AtPar) : Bool := bitAt p.flags 2
def AtPar.ringEn (p : AtPar) : Bool := bitAt p.flags 3
def AtPar.zigzag (p : AtPar) : Bool := bitAt p.flags 4
def AtPar.lseEn (p : AtPar) : Bool := bitAt p.flags 5
def AtPar.accum (p : AtPar) : Bool := bitAt p.flags 6
def AtPar.deltaOut (p : AtPar) : Bool := bitAt p.flags 7
def AtPar.ringLen (p : AtPar) : Nat := field p.ring 4 0 + 1
def AtPar.ringPos (p : AtPar) : Nat := field p.ring 12 8
/-- Rows of a query block (R109). -/
def AtPar.qb (p : AtPar) : Nat := 32 * p.qmb
/-- Query heads of a KV head (R127). -/
def AtPar.g (p : AtPar) : Nat := p.hq / max 1 p.hkv

/-- Row bytes of D elements of an encoding, rounded up to 64 (R127). -/
def AtPar.pq (p : AtPar) (w : Word) : Nat := roundUp (fmtBytes w p.d) 64
/-- D rounded up to 32 and to 64 (R117, R127). -/
def AtPar.dl (p : AtPar) : Nat := roundUp p.d 32
def AtPar.d64 (p : AtPar) : Nat := roundUp p.d 64

/-- Tokens that the query and key tensors hold for a list of sequences. -/
def qTokens (l : List SeqRec) : Nat := l.foldl (fun a r => max a (r.qOff + r.qLen)) 0
def kTokens (l : List SeqRec) : Nat := l.foldl (fun a r => max a (r.kOff + r.kLen)) 0

/-- Bytes of a token-major tensor of `t` tokens and `h` heads (R127). -/
def AtPar.tensor (p : AtPar) (w : Word) (t h : Nat) : Nat := t * h * p.pq w
/-- Bytes of its scale plane with blocks along D, and along tokens. -/
def AtPar.scaleD (p : AtPar) (w : Word) (t h : Nat) : Nat := t * h * ceilDiv p.dl (fmtBs w)
def AtPar.scaleT (p : AtPar) (w : Word) (t h : Nat) : Nat := ceilDiv t (fmtBs w) * h * p.d64

/-- Bytes of one ring slot (R135, R138): K, V, their scales, the key segments, each rounded up to 4 KiB, and the
accumulators of ATTN_BWD; `n` is the token count of the local shard. -/
def AtPar.ringPart (p : AtPar) (n : Nat) : List Nat :=
  [p.tensor p.fmtK n p.hkv, p.tensor p.fmtV n p.hkv, if fmtBlock p.fmtK then p.scaleD p.fmtK n p.hkv else 0,
   if fmtBlock p.fmtV then p.scaleT p.fmtV n p.hkv else 0, if p.segEn then 4 * n else 0].map (roundUp · 4096)

def AtPar.accBytes (p : AtPar) (n : Nat) : Nat := if p.bwd then 8 * p.hkv * n * p.dl else 0

def AtPar.slotBytes (p : AtPar) (n : Nat) : Nat := (p.ringPart n).foldl (· + ·) 0 + p.accBytes n

/-- The Platform need of an item (R132, R147). -/
def AtPar.need (p : AtPar) : Nat :=
  let rows := p.g * p.qsb * p.qb
  rows * (p.pq p.fmtQ + 4 * p.dl + 16) + 4 * 64 * (p.pq p.fmtK + p.pq p.fmtV) + 65536
    + (if p.bwd then rows * (p.pq p.fmtDo + 4) + (if p.accum then 0 else 2 * 64 * 4 * p.dl) else 0)

/-! ## The Yard (R378, R379) -/

structure YdPar where
  n      : Nat
  gword  : Nat
  bucket : Nat
  epoch  : Half
  job    : Nat
  ttClass : Nat
  fmtIn  : Word
  fmtWire : Word
  fmtOut : Word
  scale  : Word
  onebitMax : Word
  wgen   : Nat
  genOut : Nat
  expect : Nat
  stage  : Nat
  stageBytes : Nat
  recvBytes : Nat
  list   : Nat
  deriving DecidableEq, Repr

def ydPar (b : List Byte) : YdPar where
  n := u64At b 0x00
  gword := u32At b 0x08
  bucket := u16At b 0x0C
  epoch := BitVec.ofNat 16 (u16At b 0x0E)
  job := u16At b 0x10
  ttClass := u8At b 0x12
  fmtIn := w32At b 0x14
  fmtWire := w32At b 0x18
  fmtOut := w32At b 0x1C
  scale := w32At b 0x20
  onebitMax := w32At b 0x24
  wgen := u64At b 0x40
  genOut := u64At b 0x48
  expect := u64At b 0x50
  stage := u64At b 0x58
  stageBytes := u64At b 0x60
  recvBytes := u64At b 0x68
  list := u64At b 0x70

def YdPar.axis (p : YdPar) : Nat := field p.gword 1 0
def YdPar.rscatter (p : YdPar) : Bool := bitAt p.gword 2
def YdPar.comp (p : YdPar) : Nat := field p.gword 4 3
def YdPar.kshift (p : YdPar) : Nat := field p.gword 9 5
def YdPar.lease (p : YdPar) : Bool := bitAt p.gword 10
def YdPar.release (p : YdPar) : Bool := bitAt p.gword 11

/-- A send entry of PERMUTE (R392). -/
structure SendEnt where
  dest : Nat
  bytes : Nat
  src  : Nat
  dst  : Nat
  deriving DecidableEq, Repr

def parseSend (b : List Byte) (i : Nat) : SendEnt :=
  let o := 32 * i
  ⟨u16At b o, u32At b (o + 4), u64At b (o + 8), u64At b (o + 16)⟩

/-- Whether R392 refuses a send entry. -/
def sendBad (b : List Byte) (size i : Nat) : Bool :=
  let o := 32 * i
  let e := parseSend b i
  decide (size ≤ e.dest) || !zeroAt b (o + 2) 2 || !zeroAt b (o + 0x18) 8 || e.bytes % 64 != 0 || e.src % 64 != 0
    || e.dst % 64 != 0 || decide (e.bytes < 64) || decide (2 ^ 31 < e.bytes)

/-- The number of one axis's port classes of R374: ports a+ and a−. -/
def axisPorts (a : Nat) : List Nat := [2 * a, 2 * a + 1]

end Sys2Proof.Machine
end

