-- ==== Sys2Proof/Machine/Attn.lean ====
section
/-!
DEFINITION. The attention line (05_attention_line.md): scores, saturation and masks (R110–R113), exponentials and exponent
alignment (R114–R117), outputs (R118–R120), skipped pairs (R122), positions (R126), and the backward pass (R141–R146). The
work is computed from readers of the tensors, so that it does not depend on where they lie.
-/
namespace Sys2Proof.Machine

/-! ## Readers -/

/-- Element d of a row whose bytes begin at `base`, with its scale at `sc` (R46, R127). -/
def rowElem (w : Word) (rd scRd : Nat → Byte) (base sc d : Nat) : Ext :=
  let b := elemBits (fmtBits w) (fun i => rd (base + i)) d
  if fmtBlock w then blockValue (fmtCode w) (scRd sc).toNat b else codeValue (fmtCode w) false b

/-- Keys and values of a chunk: sequence, key, KV head, head-dimension index; the segment of a key. -/
structure KvSrc where
  k   : Nat → Nat → Nat → Nat → Ext
  v   : Nat → Nat → Nat → Nat → Ext
  seg : Nat → Nat → Nat

/-- What an attention computation reads by query token: Q, O and dO by token, head and index; the log-sum-exp by token and
head; segments. -/
structure AtIn where
  p    : AtPar
  seqs : List SeqRec
  q    : Nat → Nat → Nat → Ext
  o    : Nat → Nat → Nat → Ext
  dO   : Nat → Nat → Nat → Ext
  lse  : Nat → Nat → Word
  seg  : Nat → Nat
  rng  : Rng
  /-- the work items that this computation does: sequence, KV head, query super-block (R132, R134) -/
  take : Nat → Nat → Nat → Bool := fun _ _ _ => true

/-- An element of a token-major tensor of `h` heads (R127). -/
def AtPar.elem (p : AtPar) (w : Word) (rd sc : Nat → Byte) (heads t h d : Nat) : Ext :=
  let row := t * heads + h
  rowElem w rd sc (row * p.pq w) (row * ceilDiv p.dl (fmtBs w) + d / fmtBs w) d

/-- Keys and values laid out as R127, from the readers of K, V, their scales and the key segments. -/
def AtPar.kvLocal (p : AtPar) (seqs : List SeqRec) (k v ksc vsc seg : Nat → Byte) : KvSrc :=
  let tok (si j : Nat) : Nat := (nth ⟨0, 0, 0, 0, 0, 0⟩ seqs si).kOff + j
  { k := fun si j h d => p.elem p.fmtK k ksc p.hkv (tok si j) h d
    v := fun si j h d =>
      let t := tok si j
      rowElem p.fmtV v vsc ((t * p.hkv + h) * p.pq p.fmtV) ((t / fmtBs p.fmtV * p.hkv + h) * p.d64 + d) d
    seg := fun si j => elemBits 32 seg (tok si j) }

/-! ## Positions and masks (R112, R126) -/

/-- Position of local token i of a shard whose origin is member `o`, from the first position `b` of the sequence. -/
def AtPar.pos (p : AtPar) (n b o i : Nat) : Nat :=
  if !p.ringEn then b + i
  else if !p.zigzag then b + o * n + i
  else
    let h := n / 2
    if i < h then b + o * h + i else b + (2 * p.ringLen - 1 - o) * h + (i - h)

/-- The length, causal and window conditions for query row i and key j of the chunk of member `o`. -/
def AtPar.open_ (p : AtPar) (r : SeqRec) (o i j : Nat) : Bool :=
  let qp := p.pos r.kLen r.qPos0 p.ringPos i
  let kp := p.pos r.kLen r.kPos0 o j
  decide (j < r.kLen) && (!p.causal || decide (kp ≤ qp))
    && (p.window == 0 || (if p.causal then decide (qp - kp < p.window) else decide (qp - kp + (kp - qp) < p.window)))

/-- Key blocks of a sequence. -/
def SeqRec.kBlocks (r : SeqRec) : Nat := ceilDiv r.kLen 64

/-- Query blocks of a sequence. -/
def AtPar.qBlocks (p : AtPar) (r : SeqRec) : Nat := ceilDiv r.qLen p.qb

/-- The rows of a query block. -/
def AtPar.qRows (p : AtPar) (r : SeqRec) (b : Nat) : List Nat := upFrom (b * p.qb) (min p.qb (r.qLen - b * p.qb))

/-- A pair of a query block and a key block is skipped (R122). -/
def AtPar.skip (p : AtPar) (r : SeqRec) (o qb kb : Nat) : Bool :=
  (p.qRows r qb).all (fun i => (upFrom (64 * kb) 64).all (fun j => !p.open_ r o i j))

/-- Key j is unmasked for query row i (R112). -/
def AtIn.unmasked (a : AtIn) (kv : KvSrc) (si : Nat) (r : SeqRec) (o i j : Nat) : Bool :=
  a.p.open_ r o i j && (!a.p.segEn || a.seg (r.qOff + i) == kv.seg si j)

/-- Sequences with query rows, with their numbers (R133). -/
def AtIn.live (a : AtIn) : List (Nat × SeqRec) := (a.seqs.zipIdx.filter (fun e => decide (0 < e.1.qLen))).map (fun e => (e.2, e.1))

/-- The work items of a command in the order of R132: sequence, KV head, query super-block. -/
def AtPar.items (p : AtPar) (seqs : List SeqRec) : List (Nat × Nat × Nat) :=
  seqs.zipIdx.flatMap (fun e => (List.range p.hkv).flatMap (fun h =>
    (List.range (ceilDiv (p.qBlocks e.1) (max 1 p.qsb))).map (fun q => (e.2, h, q))))

/-- The computation does the item of a query head and a query block of a sequence. -/
def AtIn.does (a : AtIn) (si h qb : Nat) : Bool := a.take si (h / max 1 a.p.g) (qb / max 1 a.p.qsb)

/-- The computation does the last item of a sequence and a KV head: its dK and dV are written with it (log 102). -/
def AtIn.closes (a : AtIn) (si : Nat) (r : SeqRec) (hk : Nat) : Bool :=
  a.take si hk (ceilDiv (a.p.qBlocks r) (max 1 a.p.qsb) - 1)

/-- Pairs skipped over a chunk, one for each query head (R122). -/
def AtIn.skips (a : AtIn) (o : Nat) : Nat :=
  a.live.foldl (fun n e => n + (List.range a.p.hq).foldl (fun n h =>
    n + ((List.range (a.p.qBlocks e.2)).filter (a.does e.1 h)).foldl (fun n qb =>
      n + ((List.range e.2.kBlocks).filter (a.p.skip e.2 o qb)).length) 0) 0) 0

/-! ## Scores (R110, R111) -/

/-- Groups of a product of two encodings over `n` elements, joined from +0 (R61, R62). -/
def dotOf (wa wb : Word) (n : Nat) (a b : Nat → Ext) : Word :=
  let cls := (pairClass wa wb).getD 0
  let block := pairBlock wa wb
  let bs := pairBs wa wb
  let ks := kStep cls
  let at_ (f : Nat → Ext) (i : Nat) : Ext := if i < n then f i else Ext.zero
  let steps := if block then ceilDiv n bs * (bs / 8) else ceilDiv n ks
  (List.range steps).foldl (fun acc s => (groupsOf cls ks bs block (at_ a) (at_ b) s).foldl join acc) fzero

/-- The saturation bound 1,400 of R111. -/
def satBound : Ext := .fin false 1400 0

/-- A score and whether it was replaced (R110, R111). -/
def AtIn.score (a : AtIn) (kv : KvSrc) (si : Nat) (r : SeqRec) (h i j : Nat) : Ext × Bool :=
  let p := a.p
  let hk := h / max 1 p.g
  let s := v32 (fmul p.scale (dotOf p.fmtQ p.fmtK p.d (a.q (r.qOff + i) h) (kv.k si j hk)))
  if s.isNan then (s, false)
  else if satBound.lt s.abs then (if s.neg? then satBound.negate else satBound, true)
  else (s, false)

/-! ## A block row (R114–R116) -/

/-- ⌊log₂⌋ of a finite, non-zero magnitude. -/
def Ext.log2 (x : Ext) : Int :=
  match x with
  | .fin _ m e => e + (Nat.log2 m : Nat)
  | _ => 0

/-- The P encoding for V, and PX. -/
def AtPar.px (p : AtPar) : Int := if fmtCode p.fmtV = cBF16 then 0 else 7
def AtPar.pEnc (p : AtPar) : Enc := if fmtCode p.fmtV = cBF16 then Enc.bf16 else Enc.e4m3
def AtPar.pWord (p : AtPar) : Word := if fmtCode p.fmtV = cBF16 then 1 else 2

/-- A block row: block exponent, row sum, U; `none` when it is empty. -/
structure BlockRow where
  c : Int
  l : Word
  u : List Word

/-- The block row of exponentials e and a chunk's values (R115, R116). -/
def AtPar.blockRow (p : AtPar) (es : List Ext) (v : Nat → Nat → Ext) : Option BlockRow :=
  let nz := es.filter (fun e => !e.isZero)
  match nz with
  | [] => none
  | _ =>
    let fin := nz.filter (fun e => !e.isNan)
    let E := match fin with
      | [] => 0
      | x :: t => t.foldl (fun m e => max m e.log2) x.log2
    let ps := if es.any Ext.isNan then es.map (fun _ => Ext.nan)
      else es.map (fun e => p.pEnc.decode (p.pEnc.conv .rne true (e.scale (p.px - E))).bits)
    let l := ps.foldl (fun a x => f32 (Ext.add (v32 a) x)) fzero
    let u := (List.range p.d).map (fun d => dotOf p.pWord p.fmtV 64 (fun j => nth Ext.zero ps j) (fun j => v j d))
    some ⟨E - p.px, l, u⟩

/-- The value of key j of a block for a product; keys past the sequence's end read zero (R120). -/
def KvSrc.vAt (kv : KvSrc) (si : Nat) (r : SeqRec) (hk j d : Nat) : Ext := if j < r.kLen then kv.v si j hk d else Ext.zero

/-- The block row of query row i and key block kb, with the scores replaced. -/
def AtIn.rowOf (a : AtIn) (kv : KvSrc) (si : Nat) (r : SeqRec) (o h i kb : Nat) : Option BlockRow × Nat :=
  let hk := h / max 1 a.p.g
  let es := (upFrom (64 * kb) 64).map (fun j =>
    if a.unmasked kv si r o i j then
      let s := a.score kv si r h i j
      (rw32 s.1.exp, b2n s.2)
    else (Ext.zero, 0))
  (a.p.blockRow (es.map (·.1)) (fun j d => kv.vAt si r hk (64 * kb + j) d), es.foldl (fun n e => n + e.2) 0)

/-- An FP32 word times 2^n (R117). -/
def scale32 (w : Word) (n : Int) : Word := f32 ((v32 w).scale n)

/-- Merge a block row into the state of a row (R117). -/
def RowSt.merge (s : RowSt) (b : BlockRow) : RowSt :=
  match s.f with
  | none => { s with f := some b.c, l := b.l, o := b.u }
  | some f =>
    let add (x y : List Word) : List Word := x.zipIdx.map (fun e => fadd e.1 (nth fzero y e.2))
    if f < b.c then
      { s with f := some b.c, l := fadd (scale32 s.l (f - b.c)) b.l, o := add (s.o.map (scale32 · (f - b.c))) b.u }
    else
      { s with l := fadd s.l (scale32 b.l (b.c - f)), o := add s.o (b.u.map (scale32 · (b.c - f))) }

/-! ## ATTN_FWD -/

/-- The rows of a command: sequence, its record, query head, row. -/
def AtIn.rows (a : AtIn) : List (Nat × SeqRec × Nat × Nat) :=
  a.live.flatMap (fun e => (List.range a.p.hq).flatMap (fun h =>
    ((List.range e.2.qLen).filter (fun i => a.does e.1 h (i / a.p.qb))).map (fun i => (e.1, e.2, h, i))))

/-- The state of every row before the first key block. -/
def AtIn.start (a : AtIn) : List RowSt := a.rows.map (fun e => ⟨(e.2.1.qOff + e.2.2.2) * a.p.hq + e.2.2.1, none, fzero, []⟩)

/-- Merge the key blocks of a chunk into every row, in order (R121); with the scores replaced. -/
def AtIn.fwdChunk (a : AtIn) (kv : KvSrc) (o : Nat) (st : List RowSt) : List RowSt × Nat :=
  (a.rows.zip st).foldl (fun acc e =>
    let r := e.1.2.1
    let i := e.1.2.2.2
    let x := (List.range r.kBlocks).foldl (fun (x : RowSt × Nat) kb =>
      if a.p.skip r o (i / a.p.qb) kb then x
      else
        let b := a.rowOf kv e.1.1 r o e.1.2.2.1 i kb
        (match b.1 with
          | some br => x.1.merge br
          | none => x.1, x.2 + b.2)) (e.2, 0)
    (acc.1 ++ [x.1], acc.2 + x.2)) ([], 0)

/-- The log-sum-exp of a row (R118, R119). -/
def RowSt.lambda (s : RowSt) : Word :=
  match s.f with
  | none => 0xFF800000
  | some f => if fIsNan s.l then fnan else f32 (((v32 s.l).scale f).log)

/-- A row of D values, converted, and padded to its row bytes; blocks lie along D (R118, R120). -/
def AtPar.outRow (p : AtPar) (w : Word) (g : Rng) (plane row : Nat) (vals : List Word) : List Byte × List Byte × Health :=
  let xs := vals.zipIdx.map (fun e => (v32 e.1, drawFor w g plane (row * p.d + e.2)))
  let xs := if fmtBlock w then xs ++ List.replicate (p.dl - vals.length) (Ext.zero, 0) else xs
  let c := convRun w xs
  let b := packElems (fmtBits w) c.elems
  (b ++ List.replicate (p.pq w - b.length) 0, c.scales.map (BitVec.ofNat 8), c.health)

/-- The outputs of ATTN_FWD: bytes by field and offset, conversion counts by row, fully masked rows (R118, R119). -/
def AtIn.fwdOut (a : AtIn) (st : List RowSt) : List (Nat × Nat × List Byte) × List (Nat × Health) × Nat :=
  let p := a.p
  let nb := ceilDiv p.dl (fmtBs p.fmtO)
  st.foldl (fun acc s =>
    let vals := match s.f with
      | none => List.replicate p.d fzero
      | some _ => s.o.map (fun x => fdiv x s.l)
    let r := p.outRow p.fmtO a.rng 0 s.row vals
    (acc.1 ++ [(12, s.row * p.pq p.fmtO, r.1)] ++ (if fmtBlock p.fmtO then [(17, s.row * nb, r.2.1)] else [])
      ++ (if p.lseEn then [(13, 4 * s.row, toLe 4 s.lambda.toNat)] else []),
     acc.2.1 ++ [(s.row, r.2.2)], acc.2.2 + b2n s.f.isNone)) ([], [], 0)

/-! ## ATTN_BWD (R142–R146) -/

/-- DELTA of a row (R142). -/
def AtIn.delta (a : AtIn) (t h : Nat) : Word :=
  (List.range a.p.d).foldl (fun acc d => f32 (Ext.add (v32 acc) (Ext.mul (a.dO t h d) (a.o t h d)))) fzero

/-- A row that R143 skips. -/
def AtIn.rowMasked (a : AtIn) (t h : Nat) : Bool := a.lse t h == 0xFF800000

/-- A value rounded to BF16 by RNE. -/
def toBf16 (x : Ext) : Ext := Enc.bf16.decode (Enc.bf16.conv .rne false x).bits

/-- p and ds of one position, and its count in ATT_SAT: a replaced score, and its zeroed ds (R142; log 21). -/
def AtIn.position (a : AtIn) (kv : KvSrc) (si : Nat) (r : SeqRec) (o h i j : Nat) : Ext × Ext × Nat :=
  if a.unmasked kv si r o i j then
    let t := r.qOff + i
    let hk := h / max 1 a.p.g
    let s := a.score kv si r h i j
    let pv := toBf16 (rw32 (r32 (Ext.sub s.1 (v32 (a.lse t h)))).exp)
    let dp := v32 (dotOf a.p.fmtDo a.p.fmtV a.p.d (a.dO t h) (kv.v si j hk))
    let ds := r32 (Ext.mul pv (r32 (Ext.sub dp (v32 (a.delta t h)))))
    if s.2 then (pv, Ext.zero, 2) else (pv, toBf16 ds, 0)
  else (Ext.zero, Ext.zero, 0)

/-- The positions of a pair, by row of the query block: `none` for a row that R143 skips. -/
def AtIn.pair (a : AtIn) (kv : KvSrc) (si : Nat) (r : SeqRec) (o h qb kb : Nat) : List (Option (List (Ext × Ext × Nat))) :=
  (a.p.qRows r qb).map (fun i =>
    if a.rowMasked (r.qOff + i) h then none
    else some ((upFrom (64 * kb) 64).map (a.position kv si r o h i)))

/-- A product of BF16 values over n elements (R59, R61, R62). -/
def dotBf16 (n : Nat) (a b : Nat → Ext) : Word := dotOf 1 1 n a b

/-- p or ds of row ri and key jj of a pair, and the other operand, zero for a skipped row. -/
def pairAt (m : List (Option (List (Ext × Ext × Nat)))) (ri jj : Nat) : Option (Ext × Ext) :=
  match nth none m ri with
  | some l => some ((nth (Ext.zero, Ext.zero, 0) l jj).1, (nth (Ext.zero, Ext.zero, 0) l jj).2.1)
  | none => none

/-- The block results dK and dV of a pair, for key jj of the block: D words each. -/
def AtIn.pairKv (a : AtIn) (r : SeqRec) (h qb : Nat) (m : List (Option (List (Ext × Ext × Nat)))) (jj : Nat) :
    List Word × List Word :=
  let t (ri : Nat) : Nat := r.qOff + qb * a.p.qb + ri
  let lhs (f : Ext × Ext → Ext) (ri : Nat) : Ext := ((pairAt m ri jj).map f).getD Ext.zero
  let rhs (x : Nat → Nat → Nat → Ext) (d ri : Nat) : Ext := if (pairAt m ri jj).isSome then x (t ri) h d else Ext.zero
  let n := m.length
  ((List.range a.p.d).map (fun d => dotBf16 n (lhs (·.2)) (rhs a.q d)),
   (List.range a.p.d).map (fun d => dotBf16 n (lhs (·.1)) (rhs a.dO d)))

/-- The block result dQ of a pair, for row ri: D words, `none` for a skipped row. -/
def AtIn.pairQ (a : AtIn) (kv : KvSrc) (si : Nat) (r : SeqRec) (h kb : Nat) (m : List (Option (List (Ext × Ext × Nat))))
    (ri : Nat) : Option (List Word) :=
  let hk := h / max 1 a.p.g
  match nth none m ri with
  | none => none
  | some l => some ((List.range a.p.d).map (fun d =>
      dotBf16 64 (fun jj => (nth (Ext.zero, Ext.zero, 0) l jj).2.1)
        (fun jj => if 64 * kb + jj < r.kLen then kv.k si (64 * kb + jj) hk d else Ext.zero)))

/-- Merge a block result into a partial value (R71, R144). -/
def mergeVec (old : Option (List Word)) (x : List Word) : List Word :=
  match old with
  | none => x
  | some o => o.zipIdx.map (fun e => join e.1 (v32 (nth fzero x e.2)))

/-- dK and dV of a key: sequence, key, KV head, partial values. -/
structure KvAcc where
  si : Nat
  j  : Nat
  h  : Nat
  dk : Option (List Word)
  dv : Option (List Word)

/-- What a chunk adds in the backward pass: dQ of every row, dK and dV of every key, the dQ blocks in KV-major order (row,
words), the counts. -/
structure BwdOut where
  dq   : List RowSt
  kv   : List KvAcc
  adds : List (Nat × List Word)
  sat  : Nat

/-- The pairs of a chunk that are not skipped, KV-major: sequence, record, KV head, key block, query head, query block
(R144). -/
def AtIn.pairs (a : AtIn) (o : Nat) : List (Nat × SeqRec × Nat × Nat × Nat × Nat) :=
  a.live.flatMap (fun e => (List.range a.p.hkv).flatMap (fun hk => (List.range e.2.kBlocks).flatMap (fun kb =>
    (upFrom (hk * a.p.g) a.p.g).flatMap (fun h => ((List.range (a.p.qBlocks e.2)).filter (fun qb =>
      (a.does e.1 h qb || a.closes e.1 e.2 hk) && !a.p.skip e.2 o qb kb)).map (fun qb => (e.1, e.2, hk, kb, h, qb))))))

/-- Add one pair. -/
def AtIn.addPair (a : AtIn) (kv : KvSrc) (o : Nat) (b : BwdOut) (e : Nat × SeqRec × Nat × Nat × Nat × Nat) : BwdOut :=
  let r := e.2.1
  let kb := e.2.2.2.1
  let h := e.2.2.2.2.1
  let qb := e.2.2.2.2.2
  let m := a.pair kv e.1 r o h qb kb
  let own := a.does e.1 h qb
  let sat := if !own then 0 else m.foldl (fun n l => n + (l.getD []).foldl (fun n x => n + x.2.2) 0) 0
  let kvs := b.kv.map (fun x =>
    if x.si = e.1 ∧ x.h = e.2.2.1 ∧ x.j / 64 = kb then
      let y := a.pairKv r h qb m (x.j % 64)
      { x with dk := some (mergeVec x.dk y.1), dv := some (mergeVec x.dv y.2) }
    else x)
  let adds := if !own then [] else (a.p.qRows r qb).zipIdx.filterMap (fun i =>
    (a.pairQ kv e.1 r h kb m i.2).map (fun w => ((r.qOff + i.1) * a.p.hq + h, w)))
  let dq := b.dq.map (fun s =>
    match adds.find? (fun x => x.1 == s.row) with
    | some x => { s with f := some 0, o := mergeVec (s.f.map (fun _ => s.o)) x.2 }
    | none => s)
  ⟨dq, kvs, b.adds ++ adds, b.sat + sat⟩

/-- The keys of a chunk, with their partial values. -/
def AtIn.keys (a : AtIn) (start : Nat → Nat → Nat → Option (List Word) × Option (List Word)) : List KvAcc :=
  a.live.flatMap (fun e => (List.range e.2.kLen).flatMap (fun j => ((List.range a.p.hkv).filter (a.closes e.1 e.2)).map (fun h =>
    let s := start e.1 j h
    ⟨e.1, j, h, s.1, s.2⟩)))

/-- The backward pass over a chunk. Merging pair by pair in KV-major order merges the dQ of a row in ascending key block
and the dK and dV of a key in the order of R144. -/
def AtIn.bwdChunk (a : AtIn) (kv : KvSrc) (o : Nat) (dq : List RowSt) (keys : List KvAcc) : BwdOut :=
  (a.pairs o).foldl (a.addPair kv o) ⟨dq, keys, [], 0⟩

/-- Rows that R143 skips. -/
def AtIn.maskedRows (a : AtIn) : Nat := (a.rows.filter (fun e => a.rowMasked (e.2.1.qOff + e.2.2.2) e.2.2.1)).length

/-- The dQ output (R144): rows in field 26, from the final unscaled values of each row; conversion counts by row. -/
def AtIn.dqOut (a : AtIn) (val : Nat → List Word) : List (Nat × Nat × List Byte) × List (Nat × Health) :=
  let p := a.p
  a.rows.foldl (fun acc e =>
    let t := e.2.1.qOff + e.2.2.2
    let row := t * p.hq + e.2.2.1
    let vals := if a.rowMasked t e.2.2.1 then List.replicate p.d fzero
      else (val row).map (fun x => fmul p.scale x)
    let r := p.outRow p.fmtDq a.rng 0 row vals
    (acc.1 ++ [(26, row * p.pq p.fmtDq, r.1)], acc.2 ++ [(row, r.2.2)])) ([], [])

/-- The dK and dV outputs (R144): fields 27 and 28; conversion counts by key row. -/
def AtIn.dkvOut (a : AtIn) (keys : List KvAcc) : List (Nat × Nat × List Byte) × List (Nat × Health) :=
  let p := a.p
  keys.foldl (fun acc x =>
    let t := (nth ⟨0, 0, 0, 0, 0, 0⟩ a.seqs x.si).kOff + x.j
    let row := t * p.hkv + x.h
    let z := List.replicate p.d fzero
    let k := p.outRow p.fmtDkv a.rng 1 row ((x.dk.getD z).map (fun y => fmul p.scale y))
    let v := p.outRow p.fmtDkv a.rng 2 row (x.dv.getD z)
    (acc.1 ++ [(27, row * p.pq p.fmtDkv, k.1), (28, row * p.pq p.fmtDkv, v.1)], acc.2 ++ [(row, k.2.2.add v.2.2)]))
    ([], [])

/-- The DELTA output: field 29. -/
def AtIn.deltaOut (a : AtIn) : List (Nat × Nat × List Byte) :=
  if a.p.deltaOut then a.rows.map (fun e =>
    let t := e.2.1.qOff + e.2.2.2
    (29, 4 * (t * a.p.hq + e.2.2.1), toLe 4 (a.delta t e.2.2.1).toNat))
  else []

/-- The accumulate-writes of dQ in ACCUM mode (R145): field 30, FP32 rows. -/
def AtIn.accumOut (a : AtIn) (adds : List (Nat × List Word)) : List (Nat × Nat × List Byte) :=
  adds.map (fun x => (30, x.1 * a.p.pq 0, x.2.flatMap (fun w => toLe 4 w.toNat)))

end Sys2Proof.Machine
end

