-- ==== Sys2Proof/Machine/Conv.lean ====
section
/-!
DEFINITION. CONV: sliding windows on the cells (R92–R100), pooling (R101–R103), the zero-compressed form (R104, R105)
and the CONV parameter block (R106, R107).
-/
namespace Sys2Proof.Machine

/-- One spatial axis: input extent, window, stride, dilation, input dilation, padding (R94, R106). -/
structure Axis where
  i   : Nat
  k   : Nat
  s   : Nat
  d   : Nat
  idd : Nat
  p0  : Nat
  p1  : Nat
  deriving DecidableEq, Repr

/-- The effective input extent ID′ (R94); not positive where the axis has no input. -/
def Axis.eff (a : Axis) : Int := ((a.i : Int) - 1) * a.idd + 1

/-- The output extent (R94). -/
def Axis.out (a : Axis) : Nat :=
  let v : Int := a.eff + a.p0 + a.p1 - a.d * ((a.k : Int) - 1) - 1
  if v < 0 ∨ a.s = 0 then 0 else v.toNat / a.s + 1

/-- The input index read by output index o and window index q, if one is read (R94). -/
def Axis.src (a : Axis) (o q : Nat) : Option Nat :=
  let x := o * a.s + q * a.d
  if x < a.p0 then none
  else
    let x := x - a.p0
    if (x : Int) < a.eff ∧ x % a.idd = 0 then some (x / a.idd) else none

/-- Some output reads input index z of an axis. -/
def Axis.reads (a : Axis) (z : Nat) : Bool :=
  (List.range a.out).any (fun o => (List.range a.k).any (fun q => a.src o q == some z))

/-- The dilated window extent of an axis. -/
def Axis.window (a : Axis) : Nat := a.d * (a.k - 1) + 1

/-- The fields of a CONV parameter block. -/
structure CvPar where
  nb : Nat
  cin : Nat
  cout : Nat
  flags : Nat
  mm : MmPar
  groups : Nat
  ad : Axis
  ah : Axis
  aw : Axis
  deriving DecidableEq, Repr

def cvPar (b : List Byte) : CvPar :=
  let ext := u64At b 0x40
  let win := u64At b 0x48
  let dil := u64At b 0x50
  let pad := u64At b 0x58
  { nb := u32At b 0x00
    cin := u32At b 0x04
    cout := u32At b 0x08
    flags := u32At b 0x0C
    mm := mmPar b
    groups := field ext 63 48
    ad := ⟨field ext 15 0, field win 7 0, field win 31 24, field dil 7 0, field dil 31 24, field pad 7 0, field pad 15 8⟩
    ah := ⟨field ext 31 16, field win 15 8, field win 39 32, field dil 15 8, field dil 39 32, field pad 23 16,
      field pad 31 24⟩
    aw := ⟨field ext 47 32, field win 23 16, field win 47 40, field dil 23 16, field dil 47 40, field pad 39 32,
      field pad 47 40⟩ }

def CvPar.mode (p : CvPar) : Nat := field p.flags 1 0
def CvPar.cb (p : CvPar) : Nat := if bitAt p.flags 2 then 16 else 32
def CvPar.siding (p : CvPar) : Bool := bitAt p.flags 3
def CvPar.biasEn (p : CvPar) : Bool := bitAt p.flags 4
def CvPar.colsEn (p : CvPar) : Bool := bitAt p.flags 5
def CvPar.residEn (p : CvPar) : Bool := bitAt p.flags 6
def CvPar.preEn (p : CvPar) : Bool := bitAt p.flags 7
def CvPar.zinEn (p : CvPar) : Bool := bitAt p.flags 8
def CvPar.zoutEn (p : CvPar) : Bool := bitAt p.flags 9
def CvPar.act (p : CvPar) : Nat := field p.flags 13 10
def CvPar.fold (p : CvPar) : Bool := bitAt p.flags 14
def CvPar.wflip (p : CvPar) : Bool := bitAt p.flags 15
def CvPar.countPad (p : CvPar) : Bool := bitAt p.flags 16
def CvPar.zcIn (p : CvPar) : Bool := bitAt p.flags 17
def CvPar.zcOut (p : CvPar) : Bool := bitAt p.flags 18
def CvPar.contIn (p : CvPar) : Bool := bitAt p.flags 19
def CvPar.contOut (p : CvPar) : Bool := bitAt p.flags 20
def CvPar.gi (p : CvPar) : Nat := p.cin / p.groups
def CvPar.go (p : CvPar) : Nat := p.cout / p.groups
def CvPar.od (p : CvPar) : Nat := p.ad.out
def CvPar.oh (p : CvPar) : Nat := p.ah.out
def CvPar.ow (p : CvPar) : Nat := p.aw.out
/-- Output positions (R95). -/
def CvPar.positions (p : CvPar) : Nat := p.nb * p.od * p.oh * p.ow
def CvPar.taps (p : CvPar) : Nat := p.ad.k * p.ah.k * p.aw.k

/-- Unit to which the channels of one window position are rounded: CB or k-step, and the block size of a block pair
(R95). -/
def CvPar.blockUnit (p : CvPar) : Nat := if p.mm.block then p.mm.bs else p.mm.ks

/-- Cp of R95. -/
def CvPar.cp (p : CvPar) : Nat :=
  let c := roundUp p.cin p.cb
  if p.mm.block then roundUp c p.mm.bs else c

/-- Pw of R95. -/
def CvPar.pw (p : CvPar) : Nat := roundUp (p.aw.k * p.cin) p.blockUnit

/-- Input channels that feed an output block with GROUPS > 1. -/
def CvPar.feed (p : CvPar) : Nat := p.gi * max 1 (32 / p.go)

/-- Kw of R95. -/
def CvPar.kw (p : CvPar) : Nat := roundUp p.feed p.blockUnit

/-- K of R95. -/
def CvPar.kLen (p : CvPar) : Nat :=
  if p.groups = 1 then (if p.fold then p.ad.k * p.ah.k * p.pw else p.taps * p.cp) else p.taps * p.kw

/-- Rows of the stored weight matrix (R95, R96); a block operand pads the channels of a window position to whole
blocks. -/
def CvPar.giRows (p : CvPar) : Nat := if fmtBlock p.mm.fmtB then roundUp p.gi (fmtBs p.mm.fmtB) else p.gi
def CvPar.wRows (p : CvPar) : Nat := if p.groups = 1 then p.kLen else p.taps * p.giRows

/-- The window position and input channel of reduction index k for output block j; `none` for a padded k (R95). -/
def CvPar.tapOf (p : CvPar) (j k : Nat) : Option (Nat × Nat × Nat × Nat) :=
  let split (q : Nat) : Nat × Nat × Nat := (q / (p.ah.k * p.aw.k), q / p.aw.k % p.ah.k, q % p.aw.k)
  if p.groups = 1 then
    if p.fold then
      let r := k / p.pw
      let x := k % p.pw
      if x < p.aw.k * p.cin then some (r / p.ah.k, r % p.ah.k, x / p.cin, x % p.cin) else none
    else
      let q := split (k / p.cp)
      let c := k % p.cp
      if c < p.cin then some (q.1, q.2.1, q.2.2, c) else none
  else
    let q := split (k / p.kw)
    let c := k % p.kw
    let first := 32 * j / p.go * p.gi
    if c < p.feed ∧ first + c < p.cin then some (q.1, q.2.1, q.2.2, first + c) else none

/-- Channel blocks of a tensor with `c` channels in the layout of R93; a block code rounds the channels to whole
blocks (R47). -/
def chanBlocks (cb : Nat) (w : Word) (c : Nat) : Nat := (if fmtBlock w then roundUp (roundUp c cb) (fmtBs w) else roundUp c cb) / cb

/-- The flat element index in the layout of R93. -/
def actIndex (cb nblk d h w n c z y x : Nat) : Nat := ((((n * nblk + c / cb) * d + z) * h + y) * w + x) * cb + c % cb

/-- The index of the scale (block or group of `g` channels) of an element in the layout of R93. -/
def actScaleIndex (cb nblk d h w g n c z y x : Nat) : Nat :=
  if g ≤ cb then ((((n * nblk + c / cb) * d + z) * h + y) * w + x) * (cb / g) + c % cb / g
  else (((n * ceilDiv (nblk * cb) g + c / g) * d + z) * h + y) * w + x

/-- Channels under one scale of an activation: a block, a group of channels, or with group code 0 the whole row (R53). -/
def chanSpan (w : Word) (cb c : Nat) : Nat :=
  if fmtBlock w then fmtBs w else if field w.toNat 18 16 = 0 then roundUp c cb else fmtGroup w c

/-- Bytes of one ZC segment (R104). -/
def zcP (w : Word) (cb : Nat) : Nat := if fmtBits w = 32 ∧ cb = 32 then 16 else 32
def zcSegBytes (w : Word) (cb : Nat) : Nat := zcP w cb * cb * fmtBits w / 8

/-- The rank of a line among the stored lines of a mask. -/
def maskRank (mask l : Nat) : Nat := ((List.range l).filter (bitAt mask)).length

/-- Byte `o` of a tensor in ZC form with its header at address `hdr` (R104). -/
def zcByte (io : IO) (w : Word) (cb hdr o : Nat) : Byte :=
  let rd (a n : Nat) : Nat := leNat ((upFrom a n).map io.va)
  let seg := zcSegBytes w cb
  let s := o / seg
  let l := o % seg / 64
  let e := rd (rd hdr 8 + 8 * s) 8
  let mask := field e 31 0
  if !bitAt mask l then 0
  else if bitAt e 63 then io.va (rd (hdr + 0x18) 8 + s * seg + o % seg)
  else io.va (rd (hdr + 8) 8 + (field e 62 32 + maskRank mask l) * 64 + o % 64)

/-- The reader of the input element plane: plain through field 13, or in ZC form through the header `zci`. -/
def cvInRd (io : IO) (p : CvPar) (zci : Nat) (o : Nat) : Byte := if p.zcIn then zcByte io p.mm.fmtA p.cb zci o else io.rd 13 o

def cvA (io : IO) (p : CvPar) (zci : Nat) : Opd :=
  ⟨p.mm.fmtA, cvInRd io p zci, io.rd 16, io.rd 18, io.table (fmtXarg p.mm.fmtA)⟩
def cvB (io : IO) (p : CvPar) : Opd := ⟨p.mm.fmtB, io.rd 14, io.rd 17, io.rd 19, io.table (fmtXarg p.mm.fmtB)⟩

/-- An input element (n, c, z, y, x) (R93). -/
def cvIn (io : IO) (p : CvPar) (zci n c z y x : Nat) : Ext :=
  let nblk := chanBlocks p.cb p.mm.fmtA p.cin
  let g := chanSpan p.mm.fmtA p.cb p.cin
  (cvA io p zci).val (actIndex p.cb nblk p.ad.i p.ah.i p.aw.i n c z y x)
    (actScaleIndex p.cb nblk p.ad.i p.ah.i p.aw.i g n c z y x)

/-- The output position (n, od, oh, ow) of row m (R95). -/
def CvPar.pos (p : CvPar) (m : Nat) : Nat × Nat × Nat × Nat :=
  (m / (p.od * p.oh * p.ow), m / (p.oh * p.ow) % p.od, m / p.ow % p.oh, m % p.ow)

/-- The input position that output row m reads at a window position, if one is read. -/
def CvPar.source (p : CvPar) (m kd kh kw : Nat) : Option (Nat × Nat × Nat × Nat) :=
  let q := p.pos m
  match p.ad.src q.2.1 kd, p.ah.src q.2.2.1 kh, p.aw.src q.2.2.2 kw with
  | some z, some y, some x => some (q.1, z, y, x)
  | _, _, _ => none

/-- The gathered A[m, k] for output block j (R94, R95). -/
def cvGather (io : IO) (p : CvPar) (zci j m k : Nat) : Ext :=
  match p.tapOf j k with
  | none => Ext.zero
  | some t =>
    match p.source m t.1 t.2.1 t.2.2.1 with
    | none => Ext.zero
    | some q => cvIn io p zci q.1 t.2.2.2 q.2.1 q.2.2.1 q.2.2.2

/-- Element and scale index of a weight for reduction index k and output channel co; `none` for a structural or padded
product (R95, R96, R99). Under WFLIP a window position of the forward matrix has COUT rounded up to CB rows, whatever the pair (log 74). -/
def CvPar.weightIndex (p : CvPar) (k co : Nat) : Option (Nat × Nat) :=
  match p.tapOf (co / 32) k with
  | none => none
  | some t =>
    let c := t.2.2.2
    let tap := (t.1 * p.ah.k + t.2.1) * p.aw.k + t.2.2.1
    if p.groups = 1 then
      if p.wflip then
        let r := ((p.ad.k - 1 - t.1) * p.ah.k + (p.ah.k - 1 - t.2.1)) * p.aw.k + (p.aw.k - 1 - t.2.2.1)
        some (opdIndex p.mm.fmtB p.cin (p.taps * roundUp p.cout p.cb) false c (r * roundUp p.cout p.cb + co))
      else some (opdIndex p.mm.fmtB p.cout p.kLen false co k)
    else if c / p.gi = co / p.go then
      some (opdIndex p.mm.fmtB p.cout p.wRows false co (tap * p.giRows + c % p.gi))
    else none

/-- The product of MODE 0. -/
def cvProduct (io : IO) (p : CvPar) (zci : Nat) : Product where
  m := p.positions
  n := p.cout
  steps := if p.mm.block then p.kLen / 8 else ceilDiv p.kLen p.mm.ks
  isInt := p.mm.isInt
  group m n s :=
    let a (k : Nat) : Ext := if (p.weightIndex k n).isSome then cvGather io p zci (n / 32) m k else Ext.zero
    let b (k : Nat) : Ext := match p.weightIndex k n with
      | some i => (cvB io p).val i.1 i.2
      | none => Ext.zero
    groupsOf p.mm.cls p.mm.ks p.mm.bs p.mm.block a b s
  int m n s := (upFrom (s * 8) 8).foldl (fun acc k =>
    match p.weightIndex k n with
    | some i => acc + (cvGather io p zci (n / 32) m k).toInt * ((cvB io p).val i.1 i.2).toInt
    | none => acc) 0

/-- Element and scale index of dY[m, co]: the element in the layout of R93 (R100), the scale of a group along the reduction, which runs over the
positions (R53). -/
def CvPar.dyIndex (p : CvPar) (m co : Nat) : Nat × Nat :=
  let q := p.pos m
  (actIndex p.cb (chanBlocks p.cb p.mm.fmtB p.cout) p.od p.oh p.ow q.1 co q.2.1 q.2.2.1 q.2.2.2,
   m / scaleSpan p.mm.fmtB p.positions * p.cout + co)

/-- The value dY[m, co] (R100). -/
def cvDy (io : IO) (p : CvPar) (m co : Nat) : Ext := (cvB io p).val (p.dyIndex m co).1 (p.dyIndex m co).2

/-- The gathered input that weight row r multiplies for output channel co at output position m (R100). -/
def cvWgradA (io : IO) (p : CvPar) (zci r co m : Nat) : Ext :=
  if m < p.positions then
    if p.groups = 1 then cvGather io p zci (co / 32) m r
    else
      let tap := r / p.giRows
      let l := r % p.giRows
      if l < p.gi then
        match p.source m (tap / (p.ah.k * p.aw.k)) (tap / p.aw.k % p.ah.k) (tap % p.aw.k) with
        | some q => cvIn io p zci q.1 (co / p.go * p.gi + l) q.2.1 q.2.2.1 q.2.2.2
        | none => Ext.zero
      else Ext.zero
  else Ext.zero

/-- The product of MODE 1 (WGRAD): groups join in ascending m (R100). -/
def cvWgrad (io : IO) (p : CvPar) (zci : Nat) : Product where
  m := p.wRows
  n := p.cout
  steps := ceilDiv p.positions p.mm.ks
  isInt := p.mm.isInt
  group r n s :=
    groupsOf p.mm.cls p.mm.ks p.mm.bs false (fun m => cvWgradA io p zci r n m)
      (fun m => if m < p.positions then cvDy io p m n else Ext.zero) s
  int r n s := (upFrom (s * 8) 8).foldl (fun acc m =>
    if m < p.positions then acc + (cvWgradA io p zci r n m).toInt * (cvDy io p m n).toInt else acc) 0

/-- The input element (n, c, z, y, x) that A[m, k] of a CONV gathers for output block j (R94, R95). -/
def CvPar.gatherAt (p : CvPar) (j m k : Nat) : Option (Nat × Nat × Nat × Nat × Nat) :=
  (p.tapOf j k).bind (fun t => (p.source m t.1 t.2.1 t.2.2.1).map (fun q => (q.1, t.2.2.2, q.2.1, q.2.2.1, q.2.2.2)))

/-- The input element that weight row r meets for output channel co at position m (R100). -/
def CvPar.wgradAt (p : CvPar) (r co m : Nat) : Option (Nat × Nat × Nat × Nat × Nat) :=
  if p.positions ≤ m then none
  else if p.groups = 1 then p.gatherAt (co / 32) m r
  else
    let tap := r / p.giRows
    let l := r % p.giRows
    if l < p.gi then
      (p.source m (tap / (p.ah.k * p.aw.k)) (tap / p.aw.k % p.ah.k) (tap % p.aw.k)).map
        (fun q => (q.1, co / p.go * p.gi + l, q.2.1, q.2.2.1, q.2.2.2))
    else none

/-- Its element and scale index. -/
def CvPar.inCell (p : CvPar) (e : Nat × Nat × Nat × Nat × Nat) : Nat × Nat :=
  let nblk := chanBlocks p.cb p.mm.fmtA p.cin
  (actIndex p.cb nblk p.ad.i p.ah.i p.aw.i e.1 e.2.1 e.2.2.1 e.2.2.2.1 e.2.2.2.2,
   actScaleIndex p.cb nblk p.ad.i p.ah.i p.aw.i (chanSpan p.mm.fmtA p.cb p.cin) e.1 e.2.1 e.2.2.1 e.2.2.2.1 e.2.2.2.2)

/-- Element and scale index of B[k, n]. -/
def CvPar.cellB (p : CvPar) (k n : Nat) : Option (Nat × Nat) :=
  if p.mode = 1 then (if k < p.positions then some (p.dyIndex k n) else none) else p.weightIndex k n

/-- The input elements that A gathers for rows, columns and k of a product. -/
def CvPar.gathered (p : CvPar) (rows cols ks : List Nat) : List (Nat × Nat × Nat × Nat × Nat) :=
  rows.flatMap (fun i => ks.flatMap (fun k => (chunks 32 (cols.length + 1) cols).filterMap (fun js =>
    let j := js.headD 0
    if p.mode = 1 then p.wgradAt i j k else p.gatherAt (j / 32) i k)))

/-- Speculation of a MODE 0 CONV with the input's zero map in field 25 (R98). -/
def cvSpec (io : IO) (p : CvPar) (zci : Nat) : Spec :=
  let rowOf (q : Nat × Nat × Nat × Nat) : Nat := ((q.1 * p.ad.i + q.2.1) * p.ah.i + q.2.2.1) * p.aw.i + q.2.2.2
  { predicted := fun g s j =>
      decide (4 * g < p.positions) && (upFrom (4 * g) 4).all (fun m => (upFrom (s * p.mm.ks) p.mm.ks).all (fun k =>
        match p.tapOf j k with
        | none => true
        | some t =>
          if m < p.positions then
            match p.source m t.1 t.2.1 t.2.2.1 with
            | none => true
            | some q => mapBit (io.rd 25) p.cin (rowOf q / 4) (t.2.2.2 / 4)
          else false))
    holds := fun g s j =>
      (upFrom (s * p.mm.ks) p.mm.ks).all (fun k =>
        (upFrom (4 * g) 4).all (fun m => decide (p.positions ≤ m) || (cvGather io p zci j m k).isZero)
          && (upFrom (32 * j) 32).all (fun n =>
            match (if n < p.cout then p.weightIndex k n else none) with
            | some i => !((cvB io p).val i.1 i.2).isSpecial
            | none => true)) }

/-- Lay rows of `cout` channels, one row for each output position, into the layout of R93. `cell` gives the list of
channel values of a position, already padded to whole channel blocks. -/
def toLayout (p : CvPar) (cb nblk : Nat) (rows : List (List Nat)) : List Nat :=
  (List.range p.nb).flatMap (fun n => (List.range nblk).flatMap (fun b =>
    (List.range (p.od * p.oh * p.ow)).flatMap (fun q =>
      let r := nth [] rows (n * (p.od * p.oh * p.ow) + q)
      (List.range cb).map (fun i => nth 0 r (b * cb + i)))))

/-- Convert rows of channels (one for each position) by a format word into the layout of R93: element bytes, scale
bytes, counts, zero flags by position and channel. -/
def convLayout (w : Word) (p : CvPar) (rows : List (List (Ext × Nat))) : PlaneOut :=
  let rs := rows.map (convRun w)
  let nblk := chanBlocks p.cb w p.cout
  let bs := fmtBs w
  let scales :=
    if !fmtBlock w then []
    else if bs ≤ p.cb then toLayout p (p.cb / bs) nblk (rs.map (·.scales))
    else toLayout p 1 (nblk * p.cb / bs) (rs.map (·.scales))
  ⟨packElems (fmtBits w) (toLayout p p.cb nblk (rs.map (·.elems))), scales.map (BitVec.ofNat 8),
   rs.foldl (fun h r => h.add r.health) Health.zero,
   rs.map (fun r => r.elems.zipIdx.map (fun q => convZero w q.1 (nth 0 r.scales (q.2 / bs))))⟩

/-- The state of placing ZC segments: line in use of each busy core's slice, index entries, pool and spill writes. -/
structure ZcOut where
  used   : List Nat
  writes : List (Nat × List Byte)
  spills : Nat

/-- Write the segments of an element plane that `mine` names in ZC form (R104, R105): `owner s` is the busy core (by position) that writes segment
s, `used` what the slices hold. A core places its segments in ascending order within a unit of work; the mask of a spilled segment has a one for
each of its lines (log 44). -/
def zcWrite (io : IO) (w : Word) (cb hdr : Nat) (used : List Nat) (owner : Nat → Nat) (mine : Nat → Bool) (plane : List Byte) : ZcOut :=
  let rd (a n : Nat) : Nat := leNat ((upFrom a n).map io.va)
  let seg := zcSegBytes w cb
  let lines := seg / 64
  let index := rd hdr 8
  let pool := rd (hdr + 8) 8
  let slice' := rd (hdr + 0x10) 4 / max used.length 1
  let spill := rd (hdr + 0x18) 8
  ((List.range (ceilDiv plane.length seg)).filter mine).foldl (fun z s =>
    let d := slice plane (s * seg) seg
    let ls := (List.range lines).map (fun l => slice d (64 * l) 64)
    let keep := ls.filter (fun l => !l.all (· == 0))
    let o := owner s
    let u := nth 0 z.used o
    if u + keep.length ≤ slice' then
      let mask := ls.zipIdx.foldl (fun a l => a + flagAt (!l.1.all (· == 0)) l.2) 0
      let off := o * slice' + u
      ⟨z.used.set o (u + keep.length),
       z.writes ++ [(index + 8 * s, toLe 4 mask ++ toLe 4 off), (pool + 64 * off, keep.flatMap id)], z.spills⟩
    else
      ⟨z.used, z.writes ++ [(index + 8 * s, toLe 4 (2 ^ lines - 1) ++ toLe 4 (2 ^ 31)), (spill + s * seg, d)],
       z.spills + 1⟩) ⟨used, [], 0⟩

/-- The output position and channel of the first element of segment s of the output; padded channels go with the last. -/
def CvPar.segAt (p : CvPar) (w : Word) (s : Nat) : Nat × Nat :=
  let per := p.od * p.oh * p.ow
  let nblk := chanBlocks p.cb w p.cout
  let e := s * zcP w p.cb
  (e / (per * nblk) * per + e % per, min (e / per % nblk * p.cb) (p.cout - 1))

/-- The busy core that writes segment s of the output: the one whose share holds its first element. -/
def CvPar.segOwner (p : CvPar) (w : Word) (sh : List Share) (s : Nat) : Nat :=
  ((sh.filter Share.busy).findIdx? (fun h => h.holds (p.segAt w s).1 (p.segAt w s).2)).getD 0

/-- The pooled value of an output position and channel (R101–R103), as FP32 or exact. The sum of average pooling starts at +0: the spec gives no
starting value (DESIGN CHOICE, log 103). -/
def cvPool (io : IO) (p : CvPar) (zci m c : Nat) : Ext :=
  let vals := (List.range p.taps).filterMap (fun t =>
    (p.source m (t / (p.ah.k * p.aw.k)) (t / p.aw.k % p.ah.k) (t % p.aw.k)).map
      (fun q => cvIn io p zci q.1 c q.2.1 q.2.2.1 q.2.2.2))
  if p.mode = 2 then
    if vals.any Ext.isNan then .nan
    else
      match vals with
      | [] => Ext.zero
      | a :: t => t.foldl (fun b x =>
          if b.isZero && x.isZero then (if b.neg? then x else b) else if b.lt x then x else b) a
  else
    let n := if p.countPad then p.taps else vals.length
    if n = 0 then Ext.zero
    else v32 (fdiv (vals.foldl (fun a x => fadd a (f32 x)) fzero) (fOfNat n))

/-- The MmPar of the mapped product (R92): flags in MATMUL's places, M, N, K of the product. -/
def CvPar.mapped (p : CvPar) : MmPar :=
  { p.mm with
    m := if p.mode = 1 then p.wRows else p.positions
    n := p.cout
    k := if p.mode = 1 then p.positions else p.kLen
    flags := flagAt p.siding 2 + flagAt p.biasEn 3 + flagAt p.colsEn 4 + flagAt p.residEn 5 + flagAt p.preEn 6 +
      flagAt p.zinEn 7 + flagAt p.zoutEn 8 + putAt p.act 9 + flagAt p.contIn 14 + flagAt p.contOut 15 }

/-- The output stage of a CONV (fields of R106). -/
def cvOut (p : CvPar) : OutStage where
  m := p.positions
  n := p.cout
  fmtC := p.mm.fmtC
  fmtVec := p.mm.fmtVec
  fmtResid := p.mm.fmtResid
  fmtPre := p.mm.fmtPre
  scale := p.mm.scale
  slope := p.mm.slope
  act := p.act
  cols := if p.colsEn then some 22 else none
  bias := if p.biasEn then some 21 else none
  resid := if p.residEn then some 23 else none
  pre := if p.preEn then some 24 else none
  isInt := p.mm.isInt

/-- The owners of the bytes of a tensor in the layout of R93 whose planes have `nblk` blocks of `cb` entries a position: an entry stands for
`span` channels; padding goes with the last channel. -/
def CvPar.ownLayout {α : Type} (p : CvPar) (cb nblk span : Nat) (keep : Nat → Nat → α) (e : Nat) : α :=
  let per := p.od * p.oh * p.ow
  keep (e / (nblk * per * cb) * per + e / cb % per) (min ((e / (per * cb) % nblk * cb + e % cb) * span) (p.cout - 1))

/-- The product of MODE 0 or 1. -/
def cvProd (io : IO) (p : CvPar) (zci : Nat) : Product := if p.mode = 1 then cvWgrad io p zci else cvProduct io p zci

/-- The k-steps of that product. -/
def CvPar.steps (p : CvPar) : Nat :=
  if p.mode = 1 then ceilDiv p.positions p.mm.ks else if p.mm.block then p.kLen / 8 else ceilDiv p.kLen p.mm.ks

/-- The tiling of a MODE 0 or 1 CONV. -/
def CvPar.tiling (p : CvPar) : Tiling :=
  let mp := p.mapped
  ⟨tileExtent mp.m mp.gm, tileExtent mp.n mp.gn, mp.mb, mp.nb,
   ceilDiv p.steps (if mp.kp = 0 then max p.steps 1 else mp.kp)⟩

/-- A CONV that may go on from the partial regions it names (R73, R98). -/
def cvHeaders (io : IO) (p : CvPar) (cores : List Nat) : Bool :=
  if !p.contIn || p.positions == 0 || p.cout == 0 || decide (2 ≤ p.mode) then true
  else
    let mp := p.mapped
    headersMatch io (shares cores mp.m mp.n mp.gm mp.gn) mp.partAt mp.chain p.tiling.mc p.tiling.nc p.siding mp.isInt

/-- The elements of a stage of a CONV: converted planes, C and the pre-activation. -/
def cvRows (io : IO) (p : CvPar) (zci : Nat) (acc : List (List (Option Part × Nat))) (keep : Nat → Nat → Bool) :
    PlaneOut × PlaneOut :=
  let mp := p.mapped
  let none2 : PlaneOut := ⟨[], [], Health.zero, []⟩
  if 2 ≤ p.mode then
    (convLayout mp.fmtC p ((List.range p.positions).map (fun m => (List.range p.cout).map (fun c =>
      if keep m c then (cvPool io p zci m c, drawFor mp.fmtC io.rng 0 (m * p.cout + c)) else (Ext.zero, 0)))), none2)
  else
    let o := cvOut p
    let md : MergeMode := ⟨p.siding, mp.isInt, fmtIovf mp.fmtC⟩
    let residAt (m c : Nat) : Nat :=
      let q := p.pos m
      actIndex p.cb (chanBlocks p.cb mp.fmtResid p.cout) p.od p.oh p.ow q.1 c q.2.1 q.2.2.1 q.2.2.2
    let rows := acc.zipIdx.map (fun r => r.1.zipIdx.map (fun q =>
      if keep r.2 q.2 then
        let v := (q.1.1.map (Part.final md)).getD 0
        let i := r.2 * mp.n + q.2
        let f := o.value io v q.2 (residAt r.2 q.2)
        ((o.exact v f.1, drawFor mp.fmtC io.rng 0 i), (v32 f.2, drawFor mp.fmtPre io.rng 1 i))
      else ((Ext.zero, 0), (Ext.zero, 0))))
    if p.mode = 1 then (convRows mp.fmtC (rows.map (·.map (·.1))), none2)
    else
      (convLayout mp.fmtC p (rows.map (·.map (·.1))), if p.preEn then convLayout mp.fmtPre p (rows.map (·.map (·.2))) else none2)

/-- The outputs of a CONV from its converted planes: C (or its ZC form), its scales, its zero map, the pre-activation; the bytes of the outputs that
`keep` keeps. -/
def cvOuts (io : IO) (p : CvPar) (zco : Nat) (sh : List Share) (w : Win) (keep : Nat → Nat → Bool) (pl : PlaneOut × PlaneOut) : WorkOut :=
  let mp := p.mapped
  let c := pl.1
  let bs := fmtBs mp.fmtC
  let nblk := chanBlocks p.cb mp.fmtC p.cout
  let rows := if p.mode = 1 then p.wRows else p.positions
  let ownC : Nat → Bool := if p.mode = 1 then ownElem rows p.cout p.cout keep else p.ownLayout p.cb nblk 1 keep
  let ownP := p.ownLayout p.cb (chanBlocks p.cb mp.fmtPre p.cout) 1 keep
  let sc := if !fmtBlock mp.fmtC then []
    else if bs ≤ p.cb then cutBytes 20 (p.ownLayout (p.cb / bs) nblk bs keep) c.scales
    else cutBytes 20 (p.ownLayout 1 (nblk * p.cb / bs) bs keep) c.scales
  let zm := if p.zoutEn then cutBytes 26 (ownMap rows p.cout keep) (zeroMap rows p.cout (fun i j => nth true (nth [] c.zero i) j)) else []
  let pre := if p.preEn then cutPlane 24 (fmtBits mp.fmtPre) (2 * pl.2.elems.length) ownP pl.2.elems else []
  if p.zcOut then
    let busy := (sh.filter Share.busy).length
    let used := if w.lo = 0 then List.replicate busy 0 else io.zcUsed
    let z := zcWrite io mp.fmtC p.cb zco used (p.segOwner mp.fmtC sh) (fun s => keep (p.segAt mp.fmtC s).1 (p.segAt mp.fmtC s).2) c.elems
    { outs := sc ++ zm ++ pre
      direct := ((if w.lo = 0 then [(zco + 0x14, toLe 4 busy)] else []) ++ z.writes).map (fun x => (28, x.1, x.2))
      oc := [(Oc.zcSpill, z.spills)]
      zcUsed := some z.used }
  else
    { outs := cutPlane 15 (fmtBits mp.fmtC) (rows * p.cout) ownC c.elems ++ sc ++ zm ++ pre
      halves := if p.mode = 1 then cutHalves 15 (fmtBits mp.fmtC) (rows * p.cout) ownC c.elems else [] }

/-- What core entry ci reads of an operand of a CONV in unit u: B when `b` holds, else A (R69, R82, R92). -/
def cvReads (p : CvPar) (sh : List Share) (b : Bool) (ci u : Nat) : List (Nat × Nat) :=
  let g := p.tiling
  let mp := p.mapped
  let ks := chunkOf mp.chunkK mp.k (u / g.regions)
  match sh[ci]? with
  | none => []
  | some h =>
    let cols := g.colsOf h (u % g.regions)
    if !h.busy then []
    else if b then ks.flatMap (fun k => cols.filterMap (p.cellB k))
    else (p.gathered (g.rowsOf h (u % g.regions)) cols ks).map p.inCell

/-- The work of the units of a CONV on a core list (R92–R105). `zci` and `zco` are the ZC header addresses. Pooling is one unit. -/
def cvWork (io : IO) (p : CvPar) (zci zco : Nat) (cores : List Nat) (spec : Bool) (w : Win) : WorkOut :=
  if p.positions = 0 ∨ p.cout = 0 then WorkOut.none
  else if 2 ≤ p.mode then
    let sh := shares cores p.positions p.cout p.mm.gm 1
    { cvOuts io p zco sh w (fun _ _ => true) (cvRows io p zci [] (fun _ _ => true)) with
      health := byShare sh (fun _ h => (cvRows io p zci [] h.holds).1.health) }
  else
    let mp := p.mapped
    let pr := cvProd io p zci
    let md : MergeMode := ⟨p.siding, mp.isInt, fmtIovf mp.fmtC⟩
    let sh := shares cores pr.m pr.n mp.gm mp.gn
    let g := p.tiling
    let r := runUnits io sh pr md g w mp.kp mp.partAt mp.chain p.contIn p.contOut
    let zs := if p.zinEn ∧ spec then specCounts (cvSpec io p zci) sh g w (pr.len mp.kp) pr.steps else []
    let before (e : Nat) (h : Share) : Health :=
      ((expansions (cvA io p zci) g.units (cvReads p sh false) w e).add (expansions (cvB io p) g.units (cvReads p sh true) w e)).add
        ⟨h.overflows r.acc, 0⟩
    if p.contOut then { outs := [], parts := r.parts, health := byShare sh before, oc := zsOc zs, zs := zs }
    else
      let keep := g.ends w
      let counts (e : Nat) (h : Share) : Health :=
        let q := cvRows io p zci r.acc (fun i j => keep i j && h.holds i j)
        (before e h).add (q.1.health.add q.2.health)
      let o := cvOuts io p zco sh w keep (cvRows io p zci r.acc keep)
      { o with parts := r.parts, health := byShare sh counts, oc := zsOc zs ++ o.oc, zs := zs }

end Sys2Proof.Machine
end

