-- ==== Sys2Proof/Config.lean ====
section
/-!
DEFINITION. What an implementation fixes and the spec leaves open: opaque constants with no body, so that no proof can
see a value of one. A statement that mentions one holds for every value of it.
-/
namespace Sys2Proof.Config

/-- A Platform byte that the model does not know: after the `era`-th warm reset the Platform contents are unspecified
(17_power_clocks_supply.md R461). Free value (log 4). -/
opaque platByte : Nat → Nat → Byte

/-- Byte `i` of a record of dump section `t` with a given content, where R482 names the record's content and size but not its layout. Free
value (log 43). -/
opaque dumpByte : Nat → List Nat → Nat → Byte

/-- Byte `i` of the saved state that CTX_SAVE_DONE number `n` writes: R319 gives its parts and sizes, and no layout. Free
value (log 16). -/
opaque saveByte : Nat → Nat → Byte

/-- How far the time replica of a unit (by SRC of R473) stands from the fabric-time counter at a value of it, 0 to 4 for -2 to +2 ns (R25).
Free value (log 95). -/
opaque interp : Nat → Nat → Fin 5

/-- The capture error of a REF_SYNC edge at a value of the clock, 0 to 4 for -2 to +2 ns, and where in the 4 ns after the last tick the edge
lies, 0 to 3 ns (R492). Free values (log 39). -/
opaque captureError : Nat → Fin 5
opaque captureAt : Nat → Fin 4

/-- The hub takes nothing from the sources' trace FIFOs at its `n`-th turn: the spec says when a FIFO is full and not how fast the hub is
(R476). Free value (log 40). -/
opaque fifoStall : Nat → Bool

/-- The byte that a peer's HBM holds at a clock value, by node and address, for a record that a unit reads through TIER 4 (R227): a peer's
memory is no part of this machine. Free value (log 104). -/
opaque peerByte : Nat → Nat → Nat → Byte

/-- How a peer answers the read of a line for such a record, at a clock value, by node and address: 0 with its data, 1 with an error (it refuses
the access, R228), 2 with an uncorrectable error (R235). Free value (log 104). -/
opaque peerAnswer : Nat → Nat → Nat → Fin 3

/-- The host answers with an error the read of a line that a unit makes for a record, a list or a compressed page, at a clock value, by port and
address (R407). Free value (log 104). -/
opaque hostError : Nat → Nat → Nat → Bool

/-- A counter of R469 that counts cycles, idle flits or waiting time, at a clock value: timing, which the model does not have.
Free value (log 85). -/
opaque timeCount : Nat → Nat → BitVec 64

/-- The message of an exchange with the authenticated counter of the flash (R427): 0 for a read, 1 for an increment, and the value of the
answer. Its form is the flash's, outside the spec (log 10). -/
opaque ctrMessage : Nat → Word → List Byte

/-- The 256-bit PUF key that the power-up state of the PUF SRAM and the helper data give (R437). The recovery is not given by the spec
(log 10). -/
opaque pufKey : List Byte → List Byte → BitVec 256

/-- The record that fails a cross-check (R431, R433), as a number that is reduced to the records of the image: the spec does not say which of
the records that do not go together is the one that failed. Free value (log 114). -/
opaque crossRec : List (Nat × Nat) → Nat

/-- ML-DSA-87 verification under FIPS 204 (R426): key, message and signature. Uninterpreted (log 10). -/
opaque mldsaVerify : List Byte → List Byte → List Byte → Bool

/-- ML-DSA-87 signing under FIPS 204 (R426): private key and message. Uninterpreted (log 10). -/
opaque mldsaSign : List Byte → List Byte → List Byte

/-- ML-DSA-87 KeyGen_internal of a 32-byte seed (R437): public key and private key. Uninterpreted (log 10). -/
opaque mldsaKeyGen : List Byte → List Byte × List Byte

/-- The SHA3-512 digest of ROOT_PK that the boot ROM holds (R426 step 2). Fixed per part, not given by the spec
(log 10). -/
opaque rootDigest : List Byte

/-- The bytes of the boot ROM (measurement 1 of R441). Fixed per part, not given by the spec (log 10). -/
opaque bootRom : List Byte

/-- Lomdan's root certificate, the first of the chain of slot 0 (R440). Not given by the spec (log 10). -/
opaque rootCert : List Byte

/-- The X.509 body of the Alias certificate for an Alias public key and measurements 1–3 (R438). The DER encoding is
not given by the spec (log 10). -/
opaque aliasTbs : List Byte → List (List Byte) → List Byte

/-- The SPDM 1.2 signing message of a CHALLENGE or GET_MEASUREMENTS response (R440): request kind, nonce and
content. Framing is DMTF SPDM 1.2, outside the spec (log 10). -/
opaque spdmMessage : Nat → List Byte → List Byte → List Byte

/-- The responder's nonce of the `n`-th signed SPDM response (R440). Free value (log 10). -/
opaque spdmNonce : Nat → List Byte

/-- The position in the core list of the core that an attention work item after the first ones is handed to: the first that falls idle (R132);
log 110. -/
opaque itemCore : Nat → Nat

/-- What a read of MBX_DBSET or MBX_DBCLR of a channel returns, its doorbell bits being given: R419 states no value. Free
value (log 47). -/
opaque doorbellRead : Nat → Word → Word

end Sys2Proof.Config
end

