-- ==== Sys2Proof/Machine/Log.lean ====
section
/-!
DEFINITION. Observation: the always-on counters (R467–R469), the trace (R473–R477) and the error log (R471, R472).
-/
namespace Sys2Proof

/-- The 4-bit code of a master (00 "Names"). -/
def Master.code : Master → Nat
  | .h0 => 0x1
  | .h1 => 0x2
  | .h2 => 0x3
  | .h3 => 0x4
  | .m => 0x8
  | .s0 => 0x9
  | .s1 => 0xA
  | .d => 0xF

/-- The host function of a master, if it is one. -/
def Master.host? : Master → Option Nat
  | .h0 => some 0
  | .h1 => some 1
  | .h2 => some 2
  | .h3 => some 3
  | _ => none

/-- The error log's HOST code of a master: the function, or the device. -/
def Master.hostCode (mst : Master) : Nat := mst.host?.getD 0xF

end Sys2Proof

namespace Sys2Proof.Machine

/-! ## Status codes (00_scope.md, "Completion status") -/

def stOk : Byte := 0x00
def stAborted : Byte := 0x01
def stAlreadyDone : Byte := 0x02
def stAbandoned : Byte := 0x03
def stTimeout : Byte := 0x04
def stXlate : Byte := 0x05
def stRange : Byte := 0x06
def stStaleGen : Byte := 0x07
def stEpoch : Byte := 0x08
def stSigUnderflow : Byte := 0x09
def stEcc : Byte := 0x0A
def stLinkDown : Byte := 0x0B
def stResource : Byte := 0x0C
def stFormat : Byte := 0x0D
def stAltPath : Byte := 0x10
def stMasked : Byte := 0x11

/-- A status that reports that not all outputs were produced (R10). -/
def isError (st : Byte) : Bool := decide (1 ≤ st.toNat) && decide (st.toNat ≤ 0x0F)

/-- An error status that a device returns (R10): a peer's 0x0E or 0x0F is none. -/
def isReturned (st : Byte) : Bool := decide (1 ≤ st.toNat) && decide (st.toNat ≤ 0x0D)

/-! ## Serial-number arithmetic (R465) -/

/-- b is after a among n-bit values. -/
def serialAfter (n a b : Nat) : Bool :=
  let d := (b + 2 ^ n - a % 2 ^ n) % 2 ^ n
  decide (1 ≤ d) && decide (d ≤ 2 ^ (n - 1) - 1)

/-! ## Masters and hosts -/

/-- The master of a host function. -/
def hostMaster (k : Nat) : Master :=
  match k with
  | 0 => .h0
  | 1 => .h1
  | 2 => .h2
  | _ => .h3

/-- The sharing controls of host function k. -/
def State.hostCfg (s : State) (k : Nat) : HostCfg := Tab.get HostCfg.zero s.cfg.hosts k

/-- Context c lies in the range of host function k (R289). -/
def State.ctxOfHost (s : State) (k c : Nat) : Bool :=
  let h := s.hostCfg k
  decide (h.ctxFirst ≤ c) && decide (c < h.ctxFirst + h.ctxCount)

/-- The host port of a context (R289), if any. -/
def State.hostOfCtx (s : State) (c : Nat) : Option Nat := (List.range 4).find? (fun k => s.ctxOfHost k c)

/-- The error log's HOST code of a context. -/
def State.ctxHostCode (s : State) (c : Nat) : Nat := (s.hostOfCtx c).getD 0xF

/-- Whether a master may see or operate on a context (R289, R290). -/
def State.mayCtx (s : State) (mst : Master) (c : Nat) : Bool :=
  match mst.host? with
  | some k => s.ctxOfHost k c
  | none => true

/-! ## Counters (R467–R469) -/

def cntCore (core i : Nat) : Nat := 0x500000 + 0x100 * core + 8 * i
def cntStack (st i : Nat) : Nat := 0x512000 + 0x100 * st + 8 * i
def cntYard (i : Nat) : Nat := 0x512800 + 8 * i
def cntShunt (i : Nat) : Nat := 0x512900 + 8 * i
def cntPort (p i : Nat) : Nat := 0x512A00 + 0x100 * p + 8 * i
def cntDev (i : Nat) : Nat := 0x513200 + 8 * i
def cntCtx (c i : Nat) : Nat := 0x520000 + 0x40 * c + 8 * i

/-- The counters of R469 that count time: CYC, the BUSY counters and DATA_STALL of a core, CYC and TAG_WAIT of a stack, IDLE_TX
and WINDOW_WAIT of a port. -/
def timingCounter (off : Nat) : Bool :=
  let i := off % 0x100 / 8
  if off < 0x512000 then [0, 1, 2, 3, 13].contains i
  else if off < 0x512800 then i == 0 || i == 10
  else decide (0x512A00 ≤ off) && decide (off < 0x513200) && (i == 2 || i == 4)

/-- The value of a counter; that of a counter of time is a free value (log 85), which starts at 0 at cold start (R467). -/
def State.counter (s : State) (off : Nat) : Dword :=
  if timingCounter off then (if s.time.clk = 0 then 0 else Config.timeCount s.time.clk.toNat off) else Tab.get 0 s.cnt off

/-- A counter rises by n, modulo 2^64 (R466). -/
def State.bump (s : State) (off n : Nat) : State :=
  { s with cnt := Tab.modify 0 s.cnt off (fun v => v + BitVec.ofNat 64 n) }

/-- The index of a named operation counter among the device totals (R469). -/
def Oc.device : Oc → Option Nat
  | .kvCow => some 0
  | .zcSpill => some 1
  | .attSat => some 2
  | .attFm => some 3
  | .attSkip => some 4
  | .ringBad => some 5
  | .vfNan => some 6
  | .varClamp => some 7
  | .updSkip => some 8
  | _ => none

/-! ## Trace (R473–R477) -/

/-- The entries that the trace buffer holds: records, the head gap once it counts, the closing gap. In STOP mode the GAP
record is an entry only once it is written (R475). -/
def TrcSt.held (t : TrcSt) : Nat :=
  t.buf.length + b2n (t.headGap.count != 0) + b2n (t.tailGap.isSome && t.mode != 0)

/-- A GAP record (R473). -/
def gapRec (g : Gap) : TrcRec := ⟨0x0E, 0x15, 0, 0, 0, g.first, BitVec.ofNat 64 g.count, g.first⟩

/-- One more record counted in a gap. -/
def Gap.bump (g : Gap) (time : Dword) : Gap := ⟨g.count + 1, if g.count = 0 then time else g.first⟩

/-- A record is dropped into a gap; of a GAP record, the records that it counts, so that each is counted in one GAP record (R476). -/
def Gap.take (g : Gap) (r : TrcRec) : Gap :=
  if r.type = 0x0E then ⟨g.count + r.a.toNat, if g.count = 0 then r.b else g.first⟩ else g.bump r.time

/-- What dropping a record adds to DROPPED: a GAP record's are counted already. -/
def TrcRec.newlyDropped (r : TrcRec) : Nat := if r.type = 0x0E then 0 else 1

/-- Drop the oldest record into the head gap (R475). -/
def TrcSt.overwrite (t : TrcSt) : TrcSt :=
  match t.buf with
  | [] => t
  | r :: rest => { t with buf := rest, headGap := t.headGap.take r, dropped := t.dropped + r.newlyDropped }

/-- Write one record into the buffer by the mode (R475). -/
def TrcSt.push (t : TrcSt) (r : TrcRec) : TrcSt :=
  if t.mode = 0 then
    let t1 := match t.tailGap with
      | some g => if t.buf.length + 1 < 32768 then { t with buf := t.buf ++ [gapRec g], tailGap := none } else t
      | none => t
    match t1.tailGap with
    | some g => { t1 with tailGap := some (g.take r), dropped := t1.dropped + r.newlyDropped }
    | none =>
      if t1.buf.length < 32768 then { t1 with buf := t1.buf ++ [r] }
      else { t1 with tailGap := some ((Gap.mk 0 0).take r), dropped := t1.dropped + r.newlyDropped }
  else if t.frozen then
    match t.tailGap with
    | some g => { t with tailGap := some (g.take r), dropped := t.dropped + r.newlyDropped }
    | none => t
  else
    let t1 := { t with buf := t.buf ++ [r] }
    let t2 := if 32767 < t1.buf.length then t1.overwrite else t1
    match t2.share with
    | none => t2
    | some n =>
      if n ≤ 2 then
        let t3 := { t2 with share := some 1, tailGap := some ⟨0, 0⟩, frozen := true }
        if 32766 < t3.buf.length then t3.overwrite else t3
      else { t2 with share := some (n - 1) }

/-- The trigger condition that a record meets, as a bit of TRC_TRIG (R477). -/
def TrcSt.cause (t : TrcSt) (r : TrcRec) : Option Nat :=
  if t.onErr ∧ r.type = 0x0A ∧ 1 ≤ r.a.toNat ∧ r.a.toNat ≤ 0x0D then some 0
  else if t.onFail ∧ r.type = 0x03 ∧ 1 ≤ r.a.toNat % 256 ∧ r.a.toNat % 256 ≤ 0x0D then some 1
  else if t.onSig ∧ r.type = 0x04 ∧ r.seq.toNat = t.sigNum then some 2
  else if t.onDep ∧ r.type = 0x08 then some 3
  else none

/-- Fire the trigger (R475, R477): in TRIGGER mode a TRIGGER record, whose A is the cause, opens the post-trigger share of POST × 2,048
entries, of which it is the first and the closing GAP record the last. -/
def TrcSt.fire (t : TrcSt) (now : Dword) (a : Dword) : TrcSt :=
  if t.triggered then t
  else
    let t1 := { t with triggered := true }
    if t1.mode = 2 then
      ({ t1 with share := some (t1.post * 2048) }).push ⟨0x0D, 0x15, 0, 0, 0, now, a, 0⟩
    else t1

/-- A source emits a record (R474): `ctxed` says that the record has a context. -/
def TrcSt.emits (t : TrcSt) (ctxed : Bool) (r : TrcRec) : Bool :=
  t.en && (t.types.getLsbD r.type || r.type == 0x0D || r.type == 0x0E) && !(t.filtCtx && ctxed && r.ctx != t.ctxSel)

/-- The time replica of a unit: within 2 ns of the counter (R25, log 95). -/
def State.replica (s : State) (unit : Nat) : Dword :=
  BitVec.ofNat 64 (s.time.now.toNat + (Config.interp unit s.time.now.toNat).val - 2)

/-- A record enters the FIFO of its source, behind the GAP record of the run of drops that it ends; into a full FIFO it is dropped (R476). -/
def Fifo.offer (f : Fifo) (e : Emission) : Fifo × Nat :=
  let g : Fifo := if f.lost.count ≠ 0 ∧ f.recs.length < 64 then
      ⟨f.recs ++ [⟨{ gapRec f.lost with src := e.rec_.src }, false⟩], ⟨0, 0⟩⟩
    else f
  if g.recs.length < 64 then (⟨g.recs ++ [e], g.lost⟩, 0) else (⟨g.recs, g.lost.bump e.rec_.time⟩, 1)

/-- A record is written into the buffer, and may fire the trigger; `now` is the trace unit's time (R477). -/
def TrcSt.write (now : Dword) (t : TrcSt) (e : Emission) : TrcSt :=
  let t1 := t.push e.rec_
  match t.cause e.rec_ with
  | some b => t1.fire now (BitVec.ofNat 64 (2 ^ b))
  | none => if e.fires then t1.fire now 0 else t1

/-- The hub takes the records of every FIFO, in the order of the sources, unless it is not so far (R476, log 40). -/
def TrcSt.drain (t : TrcSt) (now : Dword) : TrcSt :=
  let t1 := { t with turn := t.turn + 1 }
  if Config.fifoStall t.turn then t1
  else (t.fifos.flatMap (fun e => e.2.recs)).foldl (TrcSt.write now)
    { t1 with fifos := Tab.onEach Fifo.empty (fun f => { f with recs := [] }) t.fifos }

/-- A record that a source writes enters its FIFO, and the hub has its turn. -/
def TrcSt.offer (t : TrcSt) (now : Dword) (e : Emission) : TrcSt :=
  let r := (Tab.get Fifo.empty t.fifos e.rec_.src).offer e
  ({ t with fifos := Tab.set Fifo.empty t.fifos e.rec_.src r.1, dropped := t.dropped + r.2 }).drain now

/-- A source writes a record, stamped by its time replica (R25); `fires` is TRIG of a MARK (R474, R477). -/
def State.traceAs (s : State) (ctxed : Bool) (r : TrcRec) (fires : Bool) : State :=
  if s.trc.emits ctxed r then
    { s with trc := s.trc.offer (s.replica 0x15) ⟨{ r with time := s.replica r.src }, fires⟩ }
  else s

/-- A source writes a record. -/
def State.trace (s : State) (ctxed : Bool) (r : TrcRec) : State := s.traceAs ctxed r false

/-- The hub's turn at the FIFOs, when one holds a record. -/
def State.drainTrace (s : State) : State :=
  if s.trc.fifos.all (fun e => e.2.recs.isEmpty) then s else { s with trc := s.trc.drain (s.replica 0x15) }

/-! ## Interrupt messages (R408, R411) -/

/-- The host function k. -/
def State.hostFn (s : State) (k : Nat) : HostFn := Tab.get HostFn.reset s.hosts k

def State.setHost (s : State) (k : Nat) (h : HostFn) : State := { s with hosts := Tab.set HostFn.reset s.hosts k h }

/-- A message leaves on the ordered stream of host function k (R408). -/
def State.hostPush (s : State) (k : Nat) (msg : HostMsg) : State :=
  let h := s.hostFn k
  s.setHost k { h with stream := h.stream ++ [msg] }

/-- The key in `HostFn.pci` of the MSI-X Message Control word (Machine/PciCfg.lean). -/
def msixCtlKey : Nat := 0x80

/-- Vector v of a host function is not masked: MSI-X Enable is set, Function Mask is clear, and so is the vector's own mask
bit (R411, PCI Express; log 42). -/
def HostFn.vectorOpen (h : HostFn) (v : Nat) : Bool :=
  let c := (Tab.get 0 h.pci msixCtlKey).toNat
  bitAt c 31 && !bitAt c 30 && !(Tab.get MsixEnt.reset h.msixTab v).mask

/-- Raise MSI-X vector v of host function k; a masked vector is held pending (R411). -/
def State.msix (s : State) (k v : Nat) : State :=
  let h := s.hostFn k
  if h.vectorOpen v then s.hostPush k (.msix v)
  else s.setHost k { h with msixPend := if h.msixPend.contains v then h.msixPend else h.msixPend ++ [v] }

/-! ## Error log (R471) -/

/-- What an event writes into its log entry. -/
structure LogArg where
  status : Byte
  unit   : Nat
  ctx    : Nat := 0
  /-- the HOST code of the context that the entry names, where that is not `host` -/
  owner  : Nat := 0xF
  host   : Nat := 0xF
  master : Nat := 0
  addr   : Nat := 0
  where_ : Nat := 0
  index  : Nat := 0
  detail : Nat := 0

/-- Unit kinds of ERR_ENT0. -/
def uCore : Nat := 0x01
def uCtrl : Nat := 0x02
def uDepot : Nat := 0x03
def uYard : Nat := 0x04
def uShunt : Nat := 0x05
def uPort : Nat := 0x06
def uHost : Nat := 0x07
def uSeq : Nat := 0x08
def uSig : Nat := 0x09
def uTbl : Nat := 0x0A
def uBoot : Nat := 0x0B
def uPwr : Nat := 0x0C
def uBook : Nat := 0x0D

/-- Whether an entry is repeated by an event now (R471): the same STATUS, UNIT, CTX and ADDR within the last 1 ms. -/
def ErrEnt.repeats (e : ErrEnt) (now : Dword) (a : LogArg) : Bool :=
  e.status == a.status && e.unit == a.unit && e.ctx == a.ctx && e.addr == a.addr
    && decide (now.toNat ≤ e.time.toNat + 1000000)

/-- Raise REPEAT of the newest entry that the event repeats. -/
def raiseRepeat (seq : Word) : List ErrEnt → List ErrEnt
  | [] => []
  | e :: t => if e.seq = seq then { e with rep := min 65535 (e.rep + 1) } :: t else e :: raiseRepeat seq t

/-- Raise the error vector of each host function that an entry names, itself or by one of its contexts (R411). -/
def State.errorVectors (s : State) (host owner : Nat) : State :=
  let s1 := if host < 4 then s.msix host 0 else s
  if owner < 4 ∧ owner ≠ host then s1.msix owner 0 else s1

/-- Make a new entry, raise the error vectors and trace it: the state, and the entry's SEQ. -/
def State.logNew (s : State) (a : LogArg) : State × Word :=
  let q := s.log.next
  let e : ErrEnt := ⟨q, a.status, a.master, a.host, a.unit, s.time.now, a.addr, a.ctx, a.where_, a.index, 0, a.detail⟩
  let es := s.log.entries ++ [e]
  let es := if 4096 < es.length then es.drop 1 else es
  let s1 := { s with log := { s.log with next := q + 1, entries := es } }
  let s2 := s1.errorVectors a.host a.owner
  (s2.trace false ⟨0x0A, 0x13, 0, 0, q, s.time.now, BitVec.ofNat 64 a.status.toNat, BitVec.ofNat 64 a.addr⟩, q)

/-- Log an event: the state, and the SEQ of the entry that records it. ECC events follow R235 and are never repeats. -/
def State.logSeq (s : State) (a : LogArg) : State × Word :=
  match (s.log.entries.reverse).find? (fun e => e.repeats s.time.now a && a.status != stEcc) with
  | some e => ({ s with log := { s.log with entries := raiseRepeat e.seq s.log.entries } }, e.seq)
  | none => s.logNew a

/-- Log an event. -/
def State.logErr (s : State) (a : LogArg) : State := (s.logSeq a).1

/-- Log a refused register access of a master with status RANGE (R7–R9). -/
def State.logReg (s : State) (mst : Master) (off : Nat) : State :=
  s.logErr { status := stRange, unit := uHost, host := mst.hostCode, master := mst.code, addr := off }

/-! ## The register bus (R8, R403) -/

/-- An access of a master discards its read latch and its held low half. -/
def State.clearBus (s : State) (mst : Master) : State :=
  { s with bus := { s.bus with readLatch := Tab.set none s.bus.readLatch mst.code none
                               writeHold := Tab.set none s.bus.writeHold mst.code none } }

/-- The registers are open to a master (R399, R403): a host function that the strap creates, once CFG_DONE = 1 and while its link is up; any
other master while the device is not held in reset. -/
def State.regOpen (s : State) (mst : Master) : Bool :=
  match mst.host? with
  | some k => s.cfg.cfgDone && (s.hostFn k).present && (s.hostFn k).width != 0
  | none => !s.pwr.inReset && !s.pwr.trip

/-! ## Accesses in an idle state (R454) -/

/-- The device is in an idle state, or enters or leaves one (R452). -/
def State.asleep (s : State) : Bool := s.pwr.state != 0 || s.pwr.trans

/-- A supply warning has slowed the compute dies, or is not yet over (R456). -/
def State.slowed (s : State) : Bool := s.pwr.warn || s.pwr.releasedAt.isSome

/-- The core and network clocks are stopped, as in I2, I3 and I4, or on the way there or back (R452). -/
def State.dieStopped (s : State) : Bool := decide (2 ≤ s.pwr.state) || (s.pwr.trans && decide (2 ≤ s.pwr.target))

/-- The registers that lie in a compute die, or whose access moves data of HBM: the contexts' windows in the sequencers, the counters of cores,
controllers and contexts, and MEM_TBL_OP, whose operations work on the table store (log 116). -/
def offNeeds (off : Nat) : Bool :=
  (decide (0x100000 ≤ off) && decide (off < 0x200000)) || (decide (0x500000 ≤ off) && decide (off < 0x512800))
    || (decide (0x520000 ≤ off) && decide (off < 0x560000)) || off / 8 == 0x804000 / 8

/-- A register access needs a compute die, HBM or the Depot (R454). -/
def needsPath : Instr → Bool
  | .registerWrite _ off _ _ | .lowHalfWrite _ off _ | .highHalfWrite _ off _ => offNeeds off
  | .lowHalfRead _ acc => offNeeds acc.off
  | .enable _ _ | .preempt _ _ | .restore _ _ | .reset _ _ | .ctxSeedWrite _ _ _ | .ctxStepWrite _ _ _ | .ctxProfWrite _ _ _
  | .ctxShareWrite _ _ _ | .sqDoorbell _ _ _ _ | .cqHeadWrite _ _ _ | .abort _ _ _ _ | .bind _ _ _ _ | .unbind _ _ _
  | .load _ _ _ | .swap _ _ _ | .sync _ _ _ | .map _ _ _ | .fork _ _ _ | .trim _ _ _ | .move _ _ _ | .query _ _ _
  | .count _ _ _ => true
  | _ => false

/-- An access of a master waits. -/
def HeldReq.of (mst : Master) : HeldReq → Bool
  | .access a _ => a == mst
  | _ => false

/-- A request waits for the path it needs (R454). -/
def State.wait (s : State) (q : HeldReq) : State := { s with pwr := { s.pwr with held := s.pwr.held ++ [q] } }

/-- A host's BAR0 access in an idle state waits: one that needs a path, and one behind another of its own, since they take effect in the
order of arrival (R403, R454). -/
def State.mustHold (s : State) (mst : Master) (i : Instr) : Bool :=
  mst.host?.isSome && s.asleep && (needsPath i || s.pwr.held.any (HeldReq.of mst))

/-- The registers are open to a master, and an access of it, which needs a path or does not, need not wait. -/
def State.regReady (s : State) (mst : Master) (path : Bool) : Bool :=
  s.regOpen mst && !(mst.host?.isSome && s.asleep && (path || s.pwr.held.any (HeldReq.of mst)))

/-- The outcome of a row that is a register write of a master: while the registers are not open to it, the write has no
effect and is not logged; in an idle state a host's may wait. -/
def regRow (i : Instr) (mst : Master) (s : State) (f : State → State) : Host.Outcome State Fault Refusal :=
  .next (if s.regOpen mst && s.mustHold mst i then s.wait (.access mst i)
    else if s.regOpen mst then f (s.clearBus mst) else s.clearBus mst)

end Sys2Proof.Machine
end

