-- ==== Sys2Proof/Machine/Flags.lean ====
section
/-!
DEFINITION. Status ranking (R11), the words of the completion record (R309–R311) and the accumulators of a command
slot (R470).
-/
namespace Sys2Proof.Machine

/-! ## Status (R11) -/

/-- The rank of a status: an error, then ALT_PATH, then FULLY_MASKED_ROWS, then OK. -/
def stRank (st : Byte) : Nat := if isError st then 3 else if st = stAltPath then 2 else if st = stMasked then 1 else 0

/-- The status after one more applies: the higher rank, the first detected among errors. -/
def joinStatus (old new : Byte) : Byte := if stRank old < stRank new then new else old

/-- The first failing check of one step of R300 (R11): a FORMAT case, then a RANGE case, then the first of the rest. -/
def rankChecks (l : List (Bool × Byte)) : Option Byte :=
  let bad := (l.filter (·.1)).map (·.2)
  if bad.contains stFormat then some stFormat
  else if bad.contains stRange then some stRange
  else bad.head?

/-- A command keeps the first error status (R11). -/
def Cmd.mark (c : Cmd) (st detail : Byte) : Cmd :=
  match c.status with
  | some (x, _) => if stRank x < stRank st then { c with status := some (st, detail) } else c
  | none => { c with status := some (st, detail) }

def Cmd.st (c : Cmd) : Byte := (c.status.getD (stOk, 0)).1
def Cmd.detail (c : Cmd) : Byte := (c.status.getD (stOk, 0)).2

/-- A command has ended with an error: one whose accumulate-write has failed goes on (R212). -/
def Cmd.ended (c : Cmd) : Bool := isError c.st && !c.indLine

/-- A command that has started (R305). -/
def Cmd.started (c : Cmd) : Bool := c.phase == .started || c.phase == .worked

/-- A command whose signal entries have joined the lists (R327): not a dual-path command before its main phase. -/
def Cmd.joined (c : Cmd) : Bool :=
  match c.dual with
  | some d => d.mainIn
  | none => true

/-- A dual-path command in its load or branch phase (R250). -/
def Cmd.beforeMain (c : Cmd) : Bool :=
  match c.dual with
  | some d => d.phase != .main
  | none => false

/-- A command made of a fused chain (R280). -/
def Cmd.chained (c : Cmd) : Bool := c.crec.chain

/-- The first stage's parameter block. -/
def Cmd.pb (c : Cmd) : List Byte := (c.stages.head?.map (·.pb)).getD []

/-- The opcode family of the first stage. -/
def Cmd.op (c : Cmd) : Nat := c.crec.opcode

/-! ## Accumulators (R470) -/

/-- Add to a list of named counters. -/
def addOc (o : Oc) (n : Nat) : List (Oc × Nat) → List (Oc × Nat)
  | [] => if n = 0 then [] else [(o, n)]
  | (p, v) :: t => if p = o then (p, v + n) :: t else (p, v) :: addOc o n t

/-- The value of a named counter. -/
def getOc (o : Oc) : List (Oc × Nat) → Nat
  | [] => 0
  | (p, v) :: t => if p = o then v else getOc o t

def Accum.add (a b : Accum) : Accum where
  fmtSat := a.fmtSat + b.fmtSat
  fmtFtz := a.fmtFtz + b.fmtFtz
  strWaste := a.strWaste + b.strWaste
  refetch := a.refetch + b.refetch
  specFault := a.specFault + b.specFault
  dpWaste := a.dpWaste + b.dpWaste
  oc := b.oc.foldl (fun l p => addOc p.1 p.2 l) a.oc

/-! ## The completion record (R309–R311) -/

/-- The counters that OC0–OC3 hold for an opcode family (R311, R396). -/
def ocLayout (op : Nat) : List (Option Oc) :=
  match op with
  | 0x01 => [some .zsSkip, some .zsReplay, some .kvCow, none]
  | 0x02 => [some .zsSkip, some .zsReplay, some .zcSpill, some .kvCow]
  | 0x03 => [some .attSat, some .attFm, some .attSkip, some .ringBad]
  | 0x04 => [some .attSat, some .attFm, some .attSkip, some .ringBad]
  | 0x05 => [some .vfNan, some .kvCow, none, none]
  | 0x06 => [some .vfNan, some .varClamp, some .kvCow, none]
  | 0x07 => [some .kvCow, none, none, none]
  | 0x08 => [some .migMoved, some .migPinned, some .migLost, none]
  | 0x09 => [some .ydOnebit, some .ydTopk, some .ydNonfin, some .ydBad]
  | 0x0A => [some .ydGen, some .ydWaitUs, none, some .ydBad]
  | 0x0B => [some .ydDrainUs, some .ydSent, some .ydRecv, some .ydBad]
  | 0x0C => [some .updSkip, some .updNonfin, none, none]
  | 0x0F => [some .iterDone, some .bodyErr, none, none]
  | _ => [none, none, none, none]

/-- The value of one slot. -/
def ocSlot (a : Accum) (o : Option Oc) : Nat :=
  match o with
  | some x => capCount (getOc x a.oc)
  | none => 0

/-- OC_PARTIAL: a non-zero counter has no slot. -/
def ocPartial (op : Nat) (a : Accum) : Bool := a.oc.any (fun p => p.2 != 0 && !(ocLayout op).contains (some p.1))

/-- The indeterminate outputs that a record lists (R308): IND_MASK and the IND_ flags. -/
structure Indet where
  mask : Nat
  all  : Bool
  stage : Bool
  part : Bool
  line : Bool
  deriving DecidableEq, Repr

def Indet.none : Indet := ⟨0, false, false, false, false⟩

/-- What a command that ends with a status lists. -/
def Cmd.indet (c : Cmd) (st : Byte) : Indet :=
  if !isError st || st == stSigUnderflow then Indet.none
  else if c.chained then ⟨0, c.started, c.indStage, c.indPart, false⟩
  else ⟨c.indMask.toNat, c.indAll, c.indStage, c.indPart, c.indLine⟩

/-- DP_PATH (R253, R310). -/
def Cmd.dpPath (c : Cmd) : Nat := (c.dual.map (·.path)).getD 0

/-- DL_MISS (R253, R305) of a command that retires at fabric time `now`. -/
def Cmd.dlMiss (c : Cmd) (now : Dword) : Bool :=
  match c.dual with
  | some d => d.dlMiss || (d.phase != .main && decide (c.crec.tDead.toNat < now.toNat))
  | none => c.crec.dlEn && decide (c.crec.tDead.toNat < now.toNat)

/-- STATW without PHASE. -/
def Cmd.statw (c : Cmd) (st detail : Byte) (now : Dword) : Nat :=
  let i := c.indet st
  st.toNat + putAt detail.toNat 8 + flagAt i.all 16 + flagAt i.stage 17 + flagAt i.part 18 + flagAt i.line 19
    + putAt c.dpPath 20 + flagAt (c.dlMiss now) 22 + flagAt (ocPartial c.op c.acc) 23
    + putAt (if c.chained && isError st then c.failStage else 0) 24

/-- The 64 bytes of a completion record, without PHASE. -/
def Cmd.record (c : Cmd) (st detail : Byte) (now : Dword) : List Byte :=
  let i := c.indet st
  let body := match c.body with
    | some (b, _, _) => b
    | none => 0xFFFF
  let oc (k : Nat) : Nat := ocSlot c.acc (nth none (ocLayout c.op) k)
  toLe 4 (c.statw st detail now) ++ toLe 4 (c.ctx + putAt c.queue 12 + putAt body 16) ++ toLe 4 c.seq.toNat
    ++ toLe 4 (c.errSeq.getD 0xFFFFFFFF).toNat ++ toLe 4 (capCount c.acc.fmtSat) ++ toLe 4 (capCount c.acc.fmtFtz)
    ++ toLe 4 i.mask ++ toLe 4 (capCount c.acc.dpWaste) ++ toLe 8 (min c.acc.strWaste (2 ^ 64 - 1))
    ++ toLe 4 (capCount c.acc.refetch) ++ toLe 4 (capCount c.acc.specFault)
    ++ toLe 4 (oc 0) ++ toLe 4 (oc 1) ++ toLe 4 (oc 2) ++ toLe 4 (oc 3)

end Sys2Proof.Machine
end

