-- ==== Sys2Proof/Machine/Link.lean ====
section
/-!
DEFINITION. Rudom links, the sending side (13_rudom_and_timetable.md): flits and their CRC (R343, R344), packet headers
(R348), node identities and routes (R355–R359), departure windows (R367, R368), queues, credits and the flits that leave
(R345–R350).
-/
namespace Sys2Proof.Machine

/-! ## CRC-32C (R344) -/

/-- One bit of the reflected division by 0x1EDC6F41. -/
def crcBit (c : Word) : Word := if c.getLsbD 0 then (c >>> 1) ^^^ 0x82F63B78 else c >>> 1

/-- One byte. -/
def crcByte (c : Word) (b : Byte) : Word :=
  crcBit (crcBit (crcBit (crcBit (crcBit (crcBit (crcBit (crcBit (c ^^^ b.setWidth 32))))))))

/-- CRC-32C of a byte list. -/
def crc32c (l : List Byte) : Word := l.foldl crcByte 0xFFFFFFFF ^^^ 0xFFFFFFFF

/-! ## Flits (R343) -/

/-- The 96-bit header of a flit. -/
def Flit.header (f : Flit) : Nat :=
  f.ftype + putAt f.first 4 + putAt f.seq.toNat 8 + putAt f.ack.toNat 20 + flagAt f.ackV 32 + flagAt f.nak 33
    + flagAt f.rpl 34

/-- The 272 bytes of a flit. -/
def Flit.bytes (f : Flit) : List Byte :=
  let b := toLe 12 f.header ++ f.body
  b ++ toLe 4 (crc32c b).toNat

/-- The flit of 272 bytes; `none` when R344 discards it. -/
def parseFlit (b : List Byte) : Option Flit :=
  let h := fieldAt b 0 12
  if b.length = 272 ∧ crc32c (b.take 268) = BitVec.ofNat 32 (u32At b 268) ∧ field h 3 0 ≤ 2 ∧ h < 2 ^ 35 then
    some ⟨field h 3 0, field h 7 4, BitVec.ofNat 12 (field h 19 8), BitVec.ofNat 12 (field h 31 20), bitAt h 32,
      bitAt h 33, bitAt h 34, slice b 12 256⟩
  else none

/-! ## Packets (R348, R349) -/

end Sys2Proof.Machine

namespace Sys2Proof

/-- Data slots of a packet. -/
def Packet.len (p : Packet) : Nat := p.data.length / 32

open Machine in
/-- The virtual channel 2 × CLASS + DL (R350). -/
def Packet.vc (p : Packet) : Nat := 2 * p.cls.toNat + b2n p.dl

/-- NULL, CREDIT and TIME: link-local kinds, which consume no credit. -/
def Packet.linkLocal (p : Packet) : Bool := p.kind == 0 || p.kind == 9 || p.kind == 0xA

open Machine in
/-- The header slot. -/
def Packet.header (p : Packet) : List Byte :=
  toLe 2 p.dst.toNat ++ toLe 2 p.src.toNat ++ toLe 1 (p.kind.toNat + putAt p.cls.toNat 4 + flagAt p.dl 6)
    ++ toLe 1 p.hops.toNat ++ toLe 2 p.len ++ toLe 8 p.addr.toNat ++ toLe 2 p.tag.toNat ++ toLe 1 p.depClass.toNat
    ++ toLe 1 p.status.toNat ++ toLe 4 p.arg.toNat ++ toLe 8 p.arg2.toNat

/-- The slots of a packet, as bytes. -/
def Packet.slots (p : Packet) : List Byte := p.header ++ p.data

end Sys2Proof

namespace Sys2Proof.Machine

/-- Data slots that the header of a kind may name (R349). -/
def lenAllowed (kind cls len : Nat) : Bool :=
  match kind with
  | 0x1 => cls == 0 && len == 0
  | 0x2 => cls == 0 && len == 16
  | 0x3 => cls == 0 && len == 18
  | 0x4 => cls == 1 && len == 16
  | 0x5 => cls == 1 && len == 0
  | 0x6 => cls == 1 && len == 0
  | 0x7 => cls == 2 && decide (1 ≤ len) && decide (len ≤ 256)
  | 0x8 => cls == 3 && decide (len ≤ 8)
  | 0x9 => len == 0
  | 0xA => len == 0
  | _ => false

/-- The packet of a header slot and the data slots after it. -/
def packetOf (h data : List Byte) : Packet :=
  let kc := u8At h 4
  { dst := BitVec.ofNat 16 (u16At h 0), src := BitVec.ofNat 16 (u16At h 2), kind := BitVec.ofNat 4 kc
    cls := BitVec.ofNat 2 (kc / 16), dl := bitAt kc 6, hops := BitVec.ofNat 8 (u8At h 5)
    addr := BitVec.ofNat 64 (u64At h 8), tag := BitVec.ofNat 16 (u16At h 0x10)
    depClass := BitVec.ofNat 8 (u8At h 0x12), status := BitVec.ofNat 8 (u8At h 0x13)
    arg := BitVec.ofNat 32 (u32At h 0x14), arg2 := BitVec.ofNat 64 (u64At h 0x18), data := data }

/-- Whether a header breaks R348 or R349: reserved bits, KIND, CLASS and LEN, TAG, DEP_CLASS (1–255 for BULK, zero for others), STATUS (an
error status for ERR_RSP, zero for others), a ring cancel's LEN and ARG2, and the equal DST and SRC of the link-local kinds. -/
def headerBad (h : List Byte) : Bool :=
  let kc := u8At h 4
  let kind := kc % 16
  let len := field (u16At h 6) 8 0
  bitAt kc 7 || !lenAllowed kind (kc / 16 % 4) len || field (u16At h 6) 15 9 != 0
    || decide (511 < u16At h 0x10)
    || (kind == 7) != (u8At h 0x12 != 0)
    || (if kind = 6 then !isReturned (BitVec.ofNat 8 (u8At h 0x13)) else u8At h 0x13 != 0)
    || (kind == 8 && u8At h 0x14 == 1 && (len != 0 || u32At h 0x1C != 0))
    || ((kind == 9 || kind == 0xA) && u16At h 0 != u16At h 2)

/-! ## Nodes and routes (R355–R359) -/

/-- Size of axis a: D, P, T, S. -/
def NodeCfg.size (n : NodeCfg) (a : Nat) : Nat :=
  match a with
  | 0 => n.ndM1 + 1
  | 1 => n.npM1 + 1
  | 2 => n.ntM1 + 1
  | _ => n.nsM1 + 1

/-- This device's coordinate on axis a. -/
def NodeCfg.own (n : NodeCfg) (a : Nat) : Nat :=
  match a with
  | 0 => n.cd
  | 1 => n.cp
  | 2 => n.ct
  | _ => n.cs

/-- The coordinate of a node identity on axis a (R355). -/
def NodeCfg.coord (n : NodeCfg) (node a : Nat) : Nat :=
  match a with
  | 0 => node % n.size 0
  | 1 => node / n.size 0 % n.size 1
  | 2 => node / (n.size 0 * n.size 1) % n.size 2
  | _ => node / (n.size 0 * n.size 1 * n.size 2) % n.size 3

/-- The identity of the member at coordinate c of this device's line along axis a. -/
def NodeCfg.member (n : NodeCfg) (a c : Nat) : Nat :=
  let g (x : Nat) : Nat := if x = a then c else n.own x
  ((g 3 * n.size 2 + g 2) * n.size 1 + g 1) * n.size 0 + g 0

/-- The product of the axis sizes. -/
def NodeCfg.count (n : NodeCfg) : Nat := n.size 0 * n.size 1 * n.size 2 * n.size 3

/-- Dimension order (R356); `none` for this device itself. -/
def NodeCfg.dimOrder (n : NodeCfg) (dst : Nat) : Option Nat :=
  (List.range 4).findSome? (fun a =>
    let d := (n.coord dst a + n.size a - n.own a) % n.size a
    if d = 0 then none else some (if 2 * d ≤ n.size a then 2 * a else 2 * a + 1))

/-- A table-unit slot by kind and number. -/
def tblKey (kind slot : Nat) : Nat := kind * 4096 + slot

def State.tblSlot (s : State) (kind slot : Nat) : TblSlot := Tab.get TblSlot.unbound s.tbl.slots (tblKey kind slot)

def State.setTbl (s : State) (kind slot : Nat) (t : TblSlot) : State :=
  { s with tbl := { s.tbl with slots := Tab.set TblSlot.unbound s.tbl.slots (tblKey kind slot) t } }

/-- A bank of a slot. -/
def TblSlot.bank (t : TblSlot) (b : Nat) : List Byte := if b % 2 = 0 then t.bank0 else t.bank1

/-- The active bank GEN[0] (R150). -/
def TblSlot.active (t : TblSlot) : Nat := t.gen.toNat % 2

/-- Where a packet for a node leaves (R356, R358). -/
inductive Route where
  | here
  | port (k : Nat)
  | unreachable
  deriving DecidableEq, Repr

/-- Where a packet that port k is to carry leaves: the port's routing table may name another (R358). -/
def State.routeVia (s : State) (k dst : Nat) : Route :=
  let t := s.tblSlot 4 k
  let v := if t.bound then (nth 0 (t.bank t.active) dst).toNat % 16 else 0
  if v = 0 then .port k else if v ≤ 8 then .port (v - 1) else .unreachable

def State.routeTo (s : State) (dst : Nat) : Route :=
  match s.cfg.node.dimOrder dst with
  | none => .here
  | some k => s.routeVia k dst

/-- Whether leaving on a port crosses a wrap link (R357). -/
def NodeCfg.wraps (n : NodeCfg) (k : Nat) : Bool :=
  let a := k / 2
  if k % 2 = 0 then n.own a + 1 == n.size a else n.own a == 0

/-! ## Ports -/

def State.port (s : State) (k : Nat) : Port := Tab.get Port.reset s.fab.ports k

def State.setPort (s : State) (k : Nat) (p : Port) : State :=
  { s with fab := { s.fab with ports := Tab.set Port.reset s.fab.ports k p } }

/-- Receiver slots of a virtual channel (R350). -/
def vcCap (vc : Nat) : Nat :=
  match vc / 2 with
  | 0 => 768
  | 1 => 768
  | 2 => 2048
  | _ => 512

/-- The packet of a wagon is in the output queue or in the replay buffer of a port. -/
def Port.holds (p : Port) (w : Nat) : Bool :=
  p.queues.any (fun q => q.2.any (fun t => t.wagon == some w)) || p.inReplay.any (fun e => e.wagon == some w)

/-- A wagon waits on a port that retrains, in its output queue or in its replay buffer: its timer is held (R264, R354). -/
def State.timerHeld (s : State) (x : Wagon) : Bool :=
  match x.req.line with
  | .peer _ _ => (s.port x.port).state == .retraining && (s.port x.port).holds x.id
  | _ => false

/-- A port packet or record of the error log. -/
def State.logPort (s : State) (k : Nat) (st : Byte) (addr detail : Nat) : State :=
  s.logErr { status := st, unit := uPort, where_ := k, addr := addr, detail := detail }

/-! ## Departure windows (R367, R368) -/

def State.ttPort (s : State) (k : Nat) : TtPort := Tab.get TtPort.zero s.cfg.ttPort k
def State.depEnt (s : State) (k n : Nat) : DepEnt := Tab.get DepEnt.zero s.cfg.dep (1024 * k + n)

/-- The stamp of port k: its time replica (R25, R363). -/
def State.portTime (s : State) (k : Nat) : Dword := s.replica (0x18 + k)

/-- The place of fabric time in a port's period: inside window n, inside the guard before window n, or outside both
with the ns to the next guard. -/
inductive DepPos where
  | window (n remain : Nat)
  | guard (n : Nat)
  | open_ (remain : Nat)
  deriving DecidableEq, Repr

/-- The first entry at or after n that decides the position. -/
def State.depFrom (s : State) (k pos : Nat) : Nat → Nat → DepPos
  | _, 0 =>
    let t := s.ttPort k
    .open_ (t.periodNs - pos + (s.depEnt k 0).offset - t.guardNs)
  | n, fuel + 1 =>
    let e := s.depEnt k n
    let g := (s.ttPort k).guardNs
    if pos < e.offset - g then .open_ (e.offset - g - pos)
    else if pos < e.offset then .guard n
    else if pos < e.offset + e.length then .window n (e.offset + e.length - pos)
    else s.depFrom k pos (n + 1) fuel

def State.depPos (s : State) (k : Nat) : DepPos :=
  let t := s.ttPort k
  if t.nent = 0 ∨ t.periodNs = 0 then .open_ (2 ^ 64) else s.depFrom k ((s.portTime k).toNat % t.periodNs) 0 t.nent

/-- Hundredths of a ns until the packets that have started on a port have left. -/
def State.busyFor (s : State) (k : Nat) : Nat := (s.port k).busyTo - 100 * s.time.clk.toNat

/-- The ns from now until the last slot of a packet leaves that starts behind those that have started (R342). -/
def State.leavesIn (s : State) (k n : Nat) : Nat := ceilDiv (s.busyFor k + 16 * n) 100

/-- Whether the departure rules let a packet start behind those that have started (R368, R369). -/
def State.mayDepart (s : State) (k : Nat) (p : Packet) : Bool :=
  if s.cfg.profile ≠ .express then true
  else
    let t := s.leavesIn k (p.len + 1)
    match s.depPos k with
    | .window n r =>
      if p.kind = 7 then (s.depEnt k n).cls == p.depClass.toNat && decide (t ≤ r)
      else p.cls == 3 && decide (s.busyFor k < 100 * r)
    | .guard _ => false
    | .open_ r => p.kind != 7 && decide (t ≤ r)

/-- Whether a port has a window of a class (R368). -/
def State.hasWindow (s : State) (k cls : Nat) : Bool :=
  s.cfg.profile != .express || (List.range (s.ttPort k).nent).any (fun n => (s.depEnt k n).cls == cls)

/-! ## Sending -/

/-- The next flit of a port carries its ACK, ACK_V and NAK (R343, R345). -/
def Port.stamp (p : Port) (f : Flit) : Flit := { f with ack := p.rxNext - 1, ackV := p.ackV, nak := p.nakDue }

/-- A flit leaves the port. -/
def Port.send (p : Port) (f : Flit) : Port :=
  { p with sent := p.sent ++ [p.stamp f], nakDue := false, nakGone := p.nakGone || p.nakDue }

def idleFlit : Flit := ⟨0, 15, 0, 0, false, false, false, List.replicate 256 0⟩

/-- A DATA flit leaves, numbered, and is kept for replay (R345, R346). -/
def Port.sendData (p : Port) (now : Dword) (first : Nat) (body : List Byte) : Port :=
  let f : Flit := ⟨1, first, p.txSeq, 0, false, false, false, body⟩
  { p.send f with replay := p.replay ++ [(now, f)], txSeq := p.txSeq + 1 }

/-- Whether slot i of a run of packets is a header, from the lengths of the packets. -/
def headerSlots : List Nat → List Bool
  | [] => []
  | n :: t => true :: (List.replicate n false ++ headerSlots t)

/-- The index of the first header among 8 slots, 15 for none; the slots past the end hold NULL headers. -/
def firstHeader (l : List Bool) : Nat :=
  match (l ++ List.replicate (8 - l.length) true).findIdx? (fun b => b) with
  | some i => i
  | none => 15

/-- Cut a run of slots into DATA flits. -/
def Port.cutFlits (now : Dword) : Nat → List Byte → List Bool → Port → Port
  | 0, _, _, p => p
  | fuel + 1, b, hs, p =>
    match b with
    | [] => p
    | _ => Port.cutFlits now fuel (b.drop 256) (hs.drop 8) (p.sendData now (firstHeader (hs.take 8)) (slice b 0 256))

/-- The queue of a virtual channel; channel 8 holds link-local packets. -/
def Port.queue (p : Port) (vc : Nat) : List TxPkt := Tab.get [] p.queues vc

def Port.credit (p : Port) (vc : Nat) : Nat := Tab.get 0 p.credits vc

/-- Packets of a channel that may start now: the head, when its credits and its departure allow. -/
def State.startable (s : State) (k vc : Nat) : Option TxPkt :=
  let p := s.port k
  match p.queue vc with
  | [] => none
  | t :: _ =>
    if vc = 8 then some t
    else if t.p.len + 1 ≤ p.credit vc ∧ s.mayDepart k t.p ∧ !s.trc.dump.busy
        ∧ p.replay.length + ceilDiv (t.p.len + 1) 8 ≤ 512 then some t
    else none

/-- The order in which channels are tried (R350): link-local, CTRL, then RSP, REQ and BULK in turn from `rr`. -/
def vcOrder (rr : Nat) : List Nat :=
  let turn : List (List Nat) := [[2, 3], [0, 1], [4, 5]]
  8 :: 6 :: 7 :: ((turn.drop (rr % 3)) ++ (turn.take (rr % 3))).flatten

/-- The turn after a channel has sent. -/
def nextTurn (rr vc : Nat) : Nat :=
  match vc / 2 with
  | 1 => 1
  | 0 => 2
  | 2 => 0
  | _ => rr

/-- A packet becomes the first of its channel now. -/
def nextHead (now : Dword) : List TxPkt → List TxPkt
  | [] => []
  | t :: l => { t with since := now } :: l

/-- The receiver slots of a transit packet are free again, and its port returns their credits (R350). -/
def State.giveBack (s : State) (t : TxPkt) : State :=
  match t.from_ with
  | none => s
  | some (i, vc) =>
    let p := s.port i
    s.setPort i { p with ret := Tab.set 0 p.ret vc (Tab.get 0 p.ret vc + t.p.len + 1) }

/-- A TIME packet is stamped as its flit leaves (R363): t1 in a request, which the port notes by its exchange number, t3 in a response. -/
def Port.stampTime (p : Port) (now : Dword) (t : TxPkt) : Port × TxPkt :=
  if t.p.kind ≠ 0xA then (p, t)
  else if t.p.arg.toNat % 256 = 1 then
    ({ p with reqAt := Tab.set none p.reqAt t.p.tag.toNat (some now) }, { t with p := { t.p with addr := now } })
  else (p, { t with p := { t.p with arg2 := now } })

/-- Hundredths of a ns that n flits take on the link, their NULL slots included (R342). -/
def flitTime (n : Nat) : Nat := 128 * n

/-- Send the packets that may start, one after another. -/
def State.pumpPort (k : Nat) : Nat → State → State
  | 0, s => s
  | fuel + 1, s =>
    let p := s.port k
    if p.state = .up ∧ p.replay.length < 512 then
      match (vcOrder p.rr).findSome? (fun vc => (s.startable k vc).map (fun t => (vc, t))) with
      | none => s
      | some (vc, t0) =>
        let st := p.stampTime (s.portTime k) t0
        let p := st.1
        let t := st.2
        let n := t.p.len + 1
        let p1 := { p with
          queues := Tab.set [] p.queues vc (nextHead s.time.clk ((p.queue vc).drop 1))
          credits := if vc = 8 then p.credits else Tab.set 0 p.credits vc (p.credit vc - n)
          busyTo := max p.busyTo (100 * s.time.clk.toNat) + flitTime (ceilDiv n 8)
          rr := nextTurn p.rr vc }
        let p2 := Port.cutFlits s.time.clk (n + 1) t.p.slots (headerSlots [t.p.len]) p1
        let p3 := if vc = 8 then p2 else { p2 with inReplay := p2.inReplay ++ [⟨p2.txSeq - 1, t.wagon, t.slot, vc, n⟩] }
        let flits := ceilDiv n 8
        let s1 := ((s.setPort k p3).giveBack t).bump (cntPort k 0) flits
        let s2 := if t.p.kind = 7 then s1.bump (cntPort k 3) n else s1
        State.pumpPort k fuel s2
    else s

/-- A port sends what it may. -/
def State.pump (s : State) (k : Nat) : State :=
  State.pumpPort k ((s.port k).queues.foldl (fun a e => a + e.2.length) 0) s

/-- Put a packet into the queue of its channel on a port, and send what may leave. -/
def State.enqueue (s : State) (k vc : Nat) (t : TxPkt) : State :=
  let p := s.port k
  (s.setPort k { p with queues := Tab.set [] p.queues vc (p.queue vc ++ [t]) }).pump k

/-- What became of a packet that this device sends or forwards. -/
inductive SendRes where
  | sent
  | down
  | lost
  deriving DecidableEq, Repr

/-- Send a packet along a route (R354, R356–R359): `inPort` is the port and channel on which a
transit packet arrived. `down` asks the
caller to settle a packet whose port is DOWN, OFF or unreachable. -/
def State.sendOn (s : State) (r : Route) (p : Packet) (wagon slot : Option Nat) (inPort : Option (Nat × Nat)) : State × SendRes :=
  if s.cfg.node.count ≤ p.dst.toNat then (s.logPort 0 stRange p.dst.toNat 0, .lost)
  else
    match r with
    | .here => ({ s with fab := { s.fab with loop := s.fab.loop ++ [p] } }, .sent)
    | .unreachable => (s, .down)
    | .port k =>
      let st := (s.port k).state
      if st = .down ∨ st = .off then (s, .down)
      else
        let sameAxis := match inPort with
          | some i => i.1 / 2 == k / 2
          | none => false
        let dl := (sameAxis && p.dl) || s.cfg.node.wraps k
        let p1 := { p with dl := dl, hops := p.hops + 1 }
        if 64 < p.hops.toNat + 1 then ((s.logPort k stRange p.dst.toNat 0).bump (cntPort k 5) 1, .lost)
        else if p.kind = 7 ∧ inPort.isSome ∧ !s.hasWindow k p.depClass.toNat then
          ((s.logPort k stRange p.dst.toNat 0).bump (cntPort k 5) 1, .lost)
        else (s.enqueue k p1.vc ⟨p1, wagon, slot, inPort, s.time.clk⟩, .sent)

/-- Send a packet by dimension order. -/
def State.sendPacket (s : State) (p : Packet) (wagon slot : Option Nat) (inPort : Option (Nat × Nat)) : State × SendRes :=
  s.sendOn (s.routeTo p.dst.toNat) p wagon slot inPort

/-- The class of a kind (R349). -/
def kindClass (kind : Nat) : Nat :=
  match kind with
  | 4 => 1
  | 5 => 1
  | 6 => 1
  | 7 => 2
  | 8 => 3
  | _ => 0

/-- A packet of this device. -/
def State.mkPacket (s : State) (dst kind addr tag : Nat) (data : List Byte) : Packet :=
  { dst := BitVec.ofNat 16 dst, src := BitVec.ofNat 16 (s.cfg.node.node), kind := BitVec.ofNat 4 kind
    cls := BitVec.ofNat 2 (kindClass kind), dl := false, hops := 0, addr := BitVec.ofNat 64 addr
    tag := BitVec.ofNat 16 tag, depClass := 0, status := 0, arg := 0, arg2 := 0, data := data }

/-- A response of this device; one that cannot leave is dropped and logged (R354). -/
def State.respond (s : State) (p : Packet) : State :=
  let r := s.sendPacket p none none none
  if r.2 = .down then s.logPort 0 stLinkDown p.dst.toNat 0 else r.1

/-- An ERR_RSP to the source of a request (R354, R360). -/
def State.errRsp (s : State) (req : Packet) (st : Byte) : State :=
  s.respond { s.mkPacket req.src.toNat 6 req.addr.toNat req.tag.toNat [] with status := st }

end Sys2Proof.Machine
end

