-- ==== Sys2Proof/Machine/Berxis.lean ====
section
/-!
DEFINITION. Berxis activation compression (09_tiers_and_depot.md R240–R242).
-/
namespace Sys2Proof.Machine

/-- Element bytes of a WCODE. -/
def wBytes (wcode : Nat) : Nat := if wcode = 0 then 1 else if wcode = 1 then 2 else 4

/-- Bits, least significant first, packed into `n` bytes. -/
def packBits (n : Nat) (bits : List Bool) : List Byte :=
  (List.range n).map (fun i => BitVec.ofNat 8 ((List.range 8).foldl (fun a j => a + flagAt (nth false bits (8 * i + j)) j) 0))

/-- Nibbles, low first, packed into bytes. -/
def packNibbles : List Nat → List Byte
  | [] => []
  | [a] => [BitVec.ofNat 8 (a % 16)]
  | a :: b :: t => BitVec.ofNat 8 (a % 16 + 16 * (b % 16)) :: packNibbles t

/-- Insert a byte into an ascending list without repeats. -/
def insertByte (b : Byte) : List Byte → List Byte
  | [] => [b]
  | a :: t => if b.toNat < a.toNat then b :: a :: t else if b = a then a :: t else a :: insertByte b t

/-- Pad with zero bytes to a multiple of 64. -/
def pad64 (l : List Byte) : List Byte := l ++ List.replicate (roundUp l.length 64 - l.length) 0

/-- The elements of a chunk, each `w` bytes. -/
def chunkElems (w : Nat) (c : List Byte) : List (List Byte) := (List.range (4096 / w)).map (fun e => slice c (w * e) w)

/-- The dictionary of the kept elements' top bytes, ascending. -/
def topBytes (w : Nat) (kept : List (List Byte)) : List Byte :=
  kept.foldl (fun d e => insertByte (nth 0 e (w - 1)) d) []

/-- The position of a byte in a list. -/
def posOf (b : Byte) : List Byte → Nat
  | [] => 0
  | a :: t => if a = b then 0 else posOf b t + 1

/-- An encoded chunk: MODE, DICT, its data (R241). -/
def encodeChunk (w : Nat) (c : List Byte) : Nat × Bool × List Byte :=
  if c.all (· == 0) then (0, false, [])
  else
    let es := chunkElems w c
    let isZero (e : List Byte) : Bool := e.all (· == 0)
    let kept := es.filter (fun e => !isZero e)
    let mask := packBits (4096 / (8 * w)) (es.map (fun e => !isZero e))
    let dict := topBytes w kept
    let useDict := decide (2 ≤ w) && decide (dict.length ≤ 16)
    let tops :=
      if w = 1 then []
      else if useDict then
        dict ++ List.replicate (16 - dict.length) 0 ++ packNibbles (kept.map (fun e => posOf (nth 0 e (w - 1)) dict))
      else kept.map (fun e => nth 0 e (w - 1))
    let lows := kept.flatMap (fun e => if w = 1 then e else e.take (w - 1))
    let body := pad64 (mask ++ tops ++ lows)
    if 64 ≤ body.length / 64 then (2, false, c) else (1, useDict, body)

/-- The 4,096-byte chunks of a source, the last padded with zero bytes. -/
def sourceChunks (src : List Byte) : List (List Byte) :=
  (List.range (ceilDiv src.length 4096)).map (fun i => slice src (4096 * i) 4096)

/-- A compressed stream (R240). -/
def compress (wcode : Nat) (src : List Byte) : List Byte :=
  let cs := (sourceChunks src).map (encodeChunk (wBytes wcode))
  let dir := pad64 (cs.flatMap (fun c => toLe 4 (c.1 + flagAt c.2.1 2 + putAt (c.2.2.length / 64) 3)))
  let data := cs.flatMap (fun c => c.2.2)
  let total := 64 + dir.length + data.length
  toLe 4 cs.length ++ [BitVec.ofNat 8 wcode] ++ List.replicate 3 0 ++ toLe 8 src.length ++ toLe 8 total
    ++ List.replicate 40 0 ++ dir ++ data

/-- How many entries of a dictionary are values: they ascend strictly, and the padding does not. -/
def dictSize : List Byte → Nat
  | [] => 0
  | [_] => 1
  | a :: b :: t => if a.toNat < b.toNat then dictSize (b :: t) + 1 else 1

/-- Decode one chunk of MODE PACK; `none` when it is malformed (R242). -/
def decodePack (w : Nat) (dict : Bool) (d : List Byte) : Option (List Byte) :=
  let ne := 4096 / w
  let maskBytes := ne / 8
  let keep (e : Nat) : Bool := bitAt (u8At d (e / 8)) (e % 8)
  let kept := (List.range ne).filter keep
  let n := kept.length
  let topLen := if w = 1 then 0 else if dict then 16 + ceilDiv n 2 else n
  let need := maskBytes + topLen + n * (if w = 1 then 1 else w - 1)
  if d.length < need ∨ (dict ∧ w = 1) then none
  else
    let dtab := slice d maskBytes 16
    let size := dictSize dtab
    let idx (j : Nat) : Nat := field (u8At d (maskBytes + 16 + j / 2)) (4 * (j % 2) + 3) (4 * (j % 2))
    if dict ∧ (List.range n).any (fun j => size ≤ idx j) then none
    else
      let lowAt := maskBytes + topLen
      let elem (j : Nat) : List Byte :=
        if w = 1 then slice d (lowAt + j) 1
        else slice d (lowAt + j * (w - 1)) (w - 1) ++
          [if dict then nth 0 dtab (idx j) else nth 0 d (maskBytes + j)]
      let step (acc : Nat × List Byte) (e : Nat) : Nat × List Byte :=
        if keep e then (acc.1 + 1, acc.2 ++ elem acc.1) else (acc.1, acc.2 ++ List.replicate w 0)
      some ((List.range ne).foldl step (0, [])).2

/-- Decode the chunks from directory entries; `at_` is the offset of the next chunk's data. -/
def decodeChunks (w : Nat) (s : List Byte) : List Nat → Nat → Option (List Byte)
  | [], _ => some []
  | ent :: t, off =>
    let mode := field ent 1 0
    let dict := bitAt ent 2
    let lines := field ent 9 3
    if ent / 1024 ≠ 0 ∨ mode = 3 ∨ (mode = 0 ∧ (lines ≠ 0 ∨ dict)) ∨ (mode = 2 ∧ (lines ≠ 64 ∨ dict))
        ∨ (mode = 1 ∧ (lines = 0 ∨ 64 ≤ lines)) then none
    else
      let d := slice s off (64 * lines)
      let c := if mode = 0 then some (List.replicate 4096 0) else if mode = 2 then some d else decodePack w dict d
      match c, decodeChunks w s t (off + 64 * lines) with
      | some a, some b => some (a ++ b)
      | _, _ => none

/-- The number of bytes of a stream as its header gives it (TOTAL_BYTES). -/
def streamTotal (h : List Byte) : Nat := u64At h 0x10

/-- The number of source bytes of a stream as its header gives it (SRC_BYTES). -/
def streamSrc (h : List Byte) : Nat := u64At h 0x08

/-- Decode a stream exactly; `none` when it is malformed (R242). -/
def decompress (s : List Byte) : Option (List Byte) :=
  let nchunk := u32At s 0
  let wcode := u8At s 4
  let src := streamSrc s
  let dirLen := roundUp (4 * nchunk) 64
  let ents := (List.range nchunk).map (fun i => u32At s (64 + 4 * i))
  let lines := ents.foldl (fun a e => a + field e 9 3) 0
  if 2 < wcode ∨ !zeroAt s 5 3 ∨ !zeroAt s 0x18 0x28 ∨ nchunk ≠ ceilDiv src 4096
      ∨ streamTotal s ≠ 64 + dirLen + 64 * lines ∨ !zeroAt s (64 + 4 * nchunk) (dirLen - 4 * nchunk) then none
  else (decodeChunks (wBytes wcode) s ents (64 + dirLen)).map (fun b => b.take src)

end Sys2Proof.Machine
end

