-- ==== Sys2Proof/Machine/Mem.lean ====
section
/-!
DEFINITION. Bytes of the five tiers (R227): reading and writing by location. A write keeps the canonical form: the
value that an unlisted byte reads as is not listed.
-/
namespace Sys2Proof.Machine

/-- The byte that an unlisted Platform byte reads as (logs 3, 4). -/
def platDefault (era key : Nat) : Byte := if era % 2 = 0 then 0 else Config.platByte era key

def platKey (core off : Nat) : Nat := core * 2 ^ 21 + off
def hostKey (port a : Nat) : Nat := port * 2 ^ 52 + a

/-- Read one byte of a location. Peer HBM is not part of the device: it is read by packets (R349), and reads zero
here. -/
def Memories.get (m : Memories) : Loc → Byte
  | .hbm pa => Tab.get 0 m.hbm pa
  | .depot o => Tab.get 0 m.depot o
  | .plat c o => Tab.get (platDefault m.platEra (platKey c o)) m.plat (platKey c o)
  | .host p a => Tab.get 0 m.host (hostKey p a)
  | .peer _ _ => 0

/-- Write one byte of a location; peer HBM is written by packets. -/
def Memories.set (m : Memories) (l : Loc) (b : Byte) : Memories :=
  match l with
  | .hbm pa => { m with hbm := Tab.set 0 m.hbm pa b }
  | .depot o => { m with depot := Tab.set 0 m.depot o b }
  | .plat c o => { m with plat := Tab.set (platDefault m.platEra (platKey c o)) m.plat (platKey c o) b }
  | .host p a => { m with host := Tab.set 0 m.host (hostKey p a) b }
  | .peer _ _ => m

/-- The location `n` bytes further on. -/
def Loc.add (l : Loc) (n : Nat) : Loc :=
  match l with
  | .hbm pa => .hbm (pa + n)
  | .depot o => .depot (o + n)
  | .plat c o => .plat c (o + n)
  | .host p a => .host p (a + n)
  | .peer d pa => .peer d (pa + n)

/-- The byte address of a location within its tier. -/
def Loc.addr : Loc → Nat
  | .hbm pa => pa
  | .depot o => o
  | .plat _ o => o
  | .host _ a => a
  | .peer _ pa => pa

/-- A location with another byte address. -/
def Loc.withAddr (l : Loc) (a : Nat) : Loc :=
  match l with
  | .hbm _ => .hbm a
  | .depot _ => .depot a
  | .plat c _ => .plat c a
  | .host p _ => .host p a
  | .peer d _ => .peer d a

/-- The 512-byte line of a location (R261). -/
def Loc.line (l : Loc) : Loc := l.withAddr (l.addr / 512 * 512)

/-- The offset of a location in its line. -/
def Loc.inLine (l : Loc) : Nat := l.addr % 512

/-- Read `n` bytes from a location. -/
def Memories.read (m : Memories) (l : Loc) (n : Nat) : List Byte := (List.range n).map (fun i => m.get (l.add i))

/-- Write bytes from a location on. -/
def Memories.write (m : Memories) (l : Loc) : List Byte → Memories
  | [] => m
  | b :: t => (m.set l b).write (l.add 1) t

/-- Write masked bytes (offset, byte) of a line (R261). -/
def Memories.writeMasked (m : Memories) (line : Loc) : List (Nat × Byte) → Memories
  | [] => m
  | (o, b) :: t => (m.set (line.add o) b).writeMasked line t

/-- A little-endian word of `n` bytes of HBM. -/
def Memories.hbmWord (m : Memories) (pa n : Nat) : Nat := leNat (m.read (.hbm pa) n)

/-- The canonical form of the memories: keys rising, and no byte listed that equals what its key reads as unlisted. -/
def Memories.wf (m : Memories) : Bool :=
  Tab.wf 0 m.hbm && Tab.wf 0 m.depot && Tab.wf 0 m.host
    && Tab.sorted m.plat && m.plat.all (fun e => !decide (e.2 = platDefault m.platEra e.1))

/-- The HBM line number of an address. -/
def hbmLine (pa : Nat) : Nat := pa / 512

/-- The number of a 64-byte Depot line in the tables of lines, above those of HBM. -/
def depotKey (off : Nat) : Nat := 2 ^ 30 + off / 64

/-- The number of the line that holds a location, in the table of lines with a known error: of HBM and of the Depot (R235). -/
def eccKey : Loc → Option Nat
  | .hbm pa => some (hbmLine pa)
  | .depot o => some (2 ^ 31 + o / 512)
  | _ => none

/-- The ECC condition of the line that holds a location (R235). -/
def Memories.eccAt (m : Memories) (l : Loc) : EccEvent :=
  match eccKey l with
  | some k => Tab.get EccEvent.clean m.ecc k
  | none => .clean

/-- Note what the codes find of the line that holds a location. -/
def Memories.setEcc (m : Memories) (l : Loc) (e : EccEvent) : Memories :=
  match eccKey l with
  | some k => { m with ecc := Tab.set EccEvent.clean m.ecc k e }
  | none => m

end Sys2Proof.Machine
end

