-- ==== Sys2Proof/Machine/Xlate.lean ====
section
/-!
DEFINITION. Translation of device virtual addresses (R224–R230, R233, R234, R237, R500) and reading and writing
through it.
-/
namespace Sys2Proof.Machine

/-! ## What exists -/

/-- The pseudo-channels left in a half: P_n of R233. -/
def State.pn (s : State) (half : Nat) : Nat :=
  256 - (s.inv.mapOut.filter (fun k => k / 256 == half)).length

/-- The Depot scratchpad in units of 8 MiB: S of R237. -/
def State.scratchEff (s : State) : Nat := min s.cfg.scratchUnits s.inv.banks

/-- The half of an HBM address and its GiB within the half. -/
def hbmHalf (pa : Nat) : Nat := pa / 2 ^ 38
def hbmGib (pa : Nat) : Nat := pa % 2 ^ 38 / 2 ^ 30

/-- An HBM address that is not a hole (R234). -/
def State.hbmExists (s : State) (pa : Nat) : Bool := decide (pa < 2 ^ 39) && decide (hbmGib pa < s.pn (hbmHalf pa))

/-- The table-store region of R500: the top RES_GIB GiB of the die-0 half. -/
def State.inTstore (s : State) (pa : Nat) : Bool :=
  hbmHalf pa == 0 && decide (s.pn 0 - s.cfg.resGib ≤ hbmGib pa)

/-- An HBM address in the partition of host function k (R230). -/
def State.hbmInPart (s : State) (k pa : Nat) : Bool :=
  let h := s.hostCfg k
  let g := hbmGib pa
  s.hbmExists pa && !s.inTstore pa &&
    (if hbmHalf pa = 0 then decide (h.h0Base ≤ g) && decide (g < h.h0Base + h.h0Size)
     else decide (h.h1Base ≤ g) && decide (g < h.h1Base + h.h1Size))

/-- A Depot offset in the partition of host function k (R230, R237). -/
def State.depotInPart (s : State) (k off : Nat) : Bool :=
  let h := s.hostCfg k
  let u := off / 2 ^ 23
  decide (u < s.scratchEff) && decide (h.dBase ≤ u) && decide (u < h.dBase + h.dSize)

/-- A core site that is enabled (R16). -/
def State.siteEnabled (s : State) (core : Nat) : Bool := s.inv.sites.contains core

/-- A Platform range that an admitted command of a context other than `ctx` holds (R228). -/
def State.platHeld (s : State) (ctx core off len : Nat) : Bool :=
  s.cmds.slots.any (fun e =>
    match e.2 with
    | some c => c.ctx != ctx && c.resv.plat.any (fun r => r.1 == core && decide (r.2.1 < off + len) && decide (off < r.2.2))
    | none => false)

/-! ## The walk (R225–R227) -/

/-- A valid leaf: permissions, tier, the location of the page, log2 of the page size. -/
structure Leaf where
  r    : Bool
  w    : Bool
  dc   : Bool
  comp : Bool
  tier : Nat
  base : Loc
  size : Nat
  /-- HBM address of the entry, and the entry -/
  slotPa : Nat
  entry  : Nat
  deriving DecidableEq, Repr

/-- The location of a leaf's LOC by tier (R227); `none` when the entry breaks the table. -/
def leafLoc (e size : Nat) (comp : Bool) : Option Loc :=
  let loc := e / 2 ^ 12 * 2 ^ 12
  let align := if comp then 2 ^ 12 else 2 ^ size
  match field e 8 6 with
  | 0 => if e < 2 ^ 39 ∧ loc % align = 0 then some (.hbm loc) else none
  | 1 => if e < 2 ^ 29 ∧ loc % align = 0 ∧ !comp then some (.depot loc) else none
  | 2 =>
    let x := field e 24 21
    let y := field e 28 25
    if e < 2 ^ 30 ∧ size = 16 ∧ field e 15 12 = 0 ∧ x < 12 ∧ y < 12 ∧ !comp then
      some (.plat (144 * field e 29 29 + 12 * y + x) (field e 20 16 * 2 ^ 16))
    else none
  | 3 =>
    let a := field e 51 12 * 2 ^ 12
    if e < 2 ^ 54 ∧ a % align = 0 then some (.host (field e 53 52) a) else none
  | 4 =>
    let a := field e 38 12 * 2 ^ 12
    if field e 47 39 = 0 ∧ a % align = 0 ∧ !comp then some (.peer (field e 63 48) a) else none
  | _ => none

/-- A leaf entry (R226); `none` when the SX16 treats it as invalid. -/
def parseLeaf (e size slotPa : Nat) : Option Leaf :=
  let comp := bitAt e 5
  let dc := bitAt e 4
  let w := bitAt e 3
  let tier := field e 8 6
  if !bitAt e 0 ∨ !bitAt e 1 ∨ bitAt e 9 ∨ field e 11 10 ≠ 0 ∨ (comp ∧ (w ∨ dc ∨ size ≠ 16))
      ∨ (dc ∧ tier ≠ 0 ∧ tier ≠ 3) then none
  else (leafLoc e size comp).map (fun l => ⟨bitAt e 2, w, dc, comp, tier, l, size, slotPa, e⟩)

/-- The next table of a non-leaf entry (R225). -/
def nextTable (e : Nat) : Option Nat := if e % 2 ^ 15 = 1 ∧ e < 2 ^ 39 then some (e - 1) else none

/-- Entry `i` of a table of a context on host function k: its address and value (R225, R230). -/
def State.tableEntry (s : State) (k table i : Nat) : Option (Nat × Nat) :=
  if s.hbmInPart k table then some (table + 8 * i, s.mem.hbmWord (table + 8 * i) 8) else none

/-- A leaf entry as a walk sees it: MIG = 1 is valid while the shunting engine holds the page (R226). -/
def State.heldEntry (s : State) (slotPa e : Nat) : Nat :=
  if bitAt e 9 ∧ s.xlt.mig.any (fun h => h.slotPa == slotPa) then e - 2 ^ 9 else e

/-- Walk the translation table of a context to the leaf of an address (R225, R226). -/
def State.walk (s : State) (ctx va : Nat) : Option Leaf := do
  let k ← s.hostOfCtx ctx
  let root := Tab.get (false, 0) s.xlt.root ctx
  if !root.1 ∨ 2 ^ 52 ≤ va then none
  let e0 ← s.tableEntry k (root.2 * 2 ^ 15) (field va 51 40)
  let t1 ← nextTable e0.2
  let e1 ← s.tableEntry k t1 (field va 39 28)
  if bitAt e1.2 1 then parseLeaf e1.2 28 e1.1
  else
    let t2 ← nextTable e1.2
    let e2 ← s.tableEntry k t2 (field va 27 16)
    parseLeaf (s.heldEntry e2.1 e2.2) 16 e2.1

/-- The location of an address under a leaf that is not compressed. -/
def Leaf.at_ (l : Leaf) (va : Nat) : Loc := l.base.add (va % 2 ^ l.size)

/-- A location that a context may reach (R228, R399): in its partition, its own host port in CXL mode, a Platform range that no other
context's command holds. -/
def State.locOk (s : State) (ctx : Nat) (l : Loc) : Bool :=
  match s.hostOfCtx ctx with
  | none => false
  | some k =>
    match l with
    | .hbm pa => s.hbmInPart k pa
    | .depot o => s.depotInPart k o
    | .plat c o => s.siteEnabled c && !s.platHeld ctx c (o / 2 ^ 16 * 2 ^ 16) (2 ^ 16)
    | .host p _ => p == k && (s.hostFn p).cxl
    | .peer _ _ => true

/-- What an access to an address meets: a location, a compressed record with the offset in its page, or a fault. -/
inductive Acc where
  | plain (l : Loc)
  | comp (record : Loc) (off : Nat)
  | bad
  deriving DecidableEq, Repr

/-- An access of a context to an address (R228). -/
def State.acc (s : State) (ctx va : Nat) (wr : Bool) : Acc :=
  match s.walk ctx va with
  | none => .bad
  | some l =>
    if (wr && !l.w) || (!wr && !l.r) then .bad
    else if l.comp then (if s.locOk ctx l.base then .comp l.base (va % 2 ^ 16) else .bad)
    else if s.locOk ctx (l.at_ va) then .plain (l.at_ va) else .bad

/-- Where an address lies, whatever its page permits: `none` where it does not translate, on a compressed page, and on a location that the
context may not reach. -/
def State.locAt (s : State) (ctx va : Nat) : Option Loc :=
  match s.walk ctx va with
  | none => none
  | some l => if !l.comp && s.locOk ctx (l.at_ va) then some (l.at_ va) else none

/-- The first address of [va, va + n) whose access faults, page by page, with `fuel` pages left. -/
def State.faultFrom (s : State) (ctx : Nat) (wr : Bool) : Nat → Nat → Nat → Option Nat
  | 0, _, _ => none
  | fuel + 1, va, stop =>
    if stop ≤ va then none
    else if s.acc ctx va wr = .bad then some va
    else s.faultFrom ctx wr fuel ((va / 2 ^ 16 + 1) * 2 ^ 16) stop

/-- The first address of a range that a context may not read (or write). -/
def State.rangeFault (s : State) (ctx va n : Nat) (wr : Bool) : Option Nat :=
  if n = 0 then none else s.faultFrom ctx wr (n / 2 ^ 16 + 2) va (va + n)

/-- The stored stream of a compressed record. -/
def State.compStream (s : State) (l : Loc) : List Byte := s.mem.read l (streamTotal (s.mem.read l 64))

/-- The 64 KiB that a compressed record stands for; `none` when it is malformed (R242). -/
def State.compPage (s : State) (l : Loc) : Option (List Byte) :=
  match decompress (s.compStream l) with
  | some b => if b.length = 65536 then some b else none
  | none => none

/-- Why the line of a location that a unit reads itself, by no wagon, cannot be read: a known uncorrectable error (R235), an error that the host
answers (R407), the answer of a peer (R228). -/
def State.lineStatus (s : State) (l : Loc) : Option Byte :=
  match l with
  | .peer n pa =>
    match Config.peerAnswer s.time.clk.toNat n (pa / 512 * 512) with
    | 0 => none
    | 1 => some stXlate
    | 2 => some stEcc
  | .host k a => if Config.hostError s.time.clk.toNat k (a / 512 * 512) then some stEcc else none
  | _ => if s.mem.eccAt l == .uncorrectable then some stEcc else none

/-- The first line of the stored stream of a compressed record that cannot be read (R235, R407). -/
def State.compLine (s : State) (l : Loc) : Option Loc :=
  ((List.range (ceilDiv (streamTotal (s.mem.read l 64)) 512 + 1)).map (fun i => l.add (512 * i))).find? (fun x => (s.lineStatus x).isSome)

/-- Read one byte at a device virtual address; a faulting access reads zero (the caller has checked the range). A byte of peer HBM is what the
peer answers (log 104). -/
def State.rdByte (s : State) (ctx va : Nat) : Byte :=
  match s.acc ctx va false with
  | .plain (.peer n pa) => Config.peerByte s.time.clk.toNat n pa
  | .plain l => s.mem.get l
  | .comp l o => nth 0 ((s.compPage l).getD []) o
  | .bad => 0

/-- Read `n` bytes at a device virtual address. -/
def State.rdBytes (s : State) (ctx va n : Nat) : List Byte := (List.range n).map (fun i => s.rdByte ctx (va + i))

/-- Where an access fails, as the error log shows it: at an address of the context, or at a line of memory. -/
inductive FaultAt where
  | va (a : Nat)
  | line (l : Loc)
  deriving DecidableEq, Repr

/-- Where and why a demanded read of an address fails (R228, R235, R242, R407): XLATE_FAULT, ECC_UNCORR, FORMAT for a malformed compressed
page. -/
def State.readFault (s : State) (ctx va : Nat) : Option (Byte × FaultAt) :=
  match s.acc ctx va false with
  | .bad => some (stXlate, .va va)
  | .plain l => (s.lineStatus l).map (fun st => (st, if st = stEcc then .line l.line else .va va))
  | .comp l _ =>
    match s.compLine l with
    | some x => some (stEcc, .line x.line)
    | none => if (s.compPage l).isNone then some (stFormat, .va va) else none

def State.readStatus (s : State) (ctx va : Nat) : Option Byte := (s.readFault ctx va).map (·.1)

/-- Why a record that the device fetches whole cannot be read: its first failing line. -/
def State.recFault (s : State) (ctx va n : Nat) : Option (Byte × FaultAt) :=
  if n = 0 then none
  else
    match s.rangeFault ctx va n false with
    | some a => some (stXlate, .va a)
    | none => (List.range (n / 512 + 2)).findSome? (fun i =>
        let a := if i = 0 then va else (va / 512 + i) * 512
        if a < va + n then s.readFault ctx a else none)

def State.recStatus (s : State) (ctx va n : Nat) : Option Byte := (s.recFault ctx va n).map (·.1)

/-- Read a record that the device fetches whole: `none` when it cannot be read. -/
def State.rdRecord (s : State) (ctx va n : Nat) : Option (List Byte) :=
  match s.recStatus ctx va n with
  | some _ => none
  | none => some (s.rdBytes ctx va n)

/-- The status of a record that cannot be read. -/
def State.recBad (s : State) (ctx va n : Nat) : Byte := (s.recStatus ctx va n).getD stXlate

/-- Write one byte at a device virtual address; a faulting access writes nothing. -/
def State.wrByte (s : State) (ctx va : Nat) (b : Byte) : State :=
  match s.acc ctx va true with
  | .plain l => { s with mem := s.mem.set l b }
  | _ => s

/-- Write bytes at a device virtual address. -/
def State.wrBytes (s : State) (ctx va : Nat) : List Byte → State
  | [] => s
  | b :: t => (s.wrByte ctx va b).wrBytes ctx (va + 1) t

end Sys2Proof.Machine
end

