-- ==== Sys2Proof/Machine/Operands.lean ====
section
/-!
DEFINITION. Operands of commands: stream descriptors (R254–R260, R282), the location of their logical bytes, and
reading and writing through them.
-/
namespace Sys2Proof.Machine

/-! ## Descriptors -/

/-- The role of a descriptor field (R254, R265): output; the header fields RA, PLAT and PITCH honoured; fetched by a
core; table-slot form allowed; hand-over form allowed; EARLY allowed. -/
structure Role where
  out      : Bool
  honoured : Bool
  core     : Bool
  slotOk   : Bool
  handOk   : Bool
  deriving DecidableEq, Repr

/-- A 64-bit stride, two's complement. -/
def strideAt (b : List Byte) (o : Nat) : Int := signed 64 (u64At b o)

/-- Parse a descriptor record (R256, R258, R259, R159, R282). -/
def parseDesc (b : List Byte) : Desc :=
  let c := u32At b 0
  let body : DescBody :=
    match field c 3 0 with
    | 1 => .strided (u64At b 0x20) (u32At b 0x28) (u32At b 0x2C) (u32At b 0x30) (u32At b 0x34) (u32At b 0x38)
        (strideAt b 0x40) (strideAt b 0x48) (strideAt b 0x50) (strideAt b 0x58)
    | 2 => .blocks (u64At b 0x20) (u32At b 0x28) (u8At b 0x2C) []
    | 3 => .slot (u16At b 0x20) (u8At b 0x22) (u16At b 0x24) (u32At b 0x28) (u32At b 0x2C)
    | _ => .hand (u8At b 0x20) (u8At b 0x21) (u8At b 0x22) (u32At b 0x24) (u64At b 0x28)
  { acc := bitAt c 4, early := bitAt c 5, platAuto := bitAt c 6, ra := field c 11 8 + 1, watchN := field c 14 12
    pitch := field c 23 16, platOff := field (u32At b 4) 20 0, body := body }

/-- The spans of a strided output (R258): whether every stride whose count is above 1 clears the span below it. -/
def spansOk (c0 : Nat) : List (Nat × Int) → Bool
  | l =>
    (l.foldl (fun (a : Bool × Int) p =>
      if 1 < p.1 then (a.1 && decide (a.2 ≤ p.2), p.2 * (p.1 - 1) + a.2) else a) (true, (c0 : Int))).1

/-- Least and greatest address of a strided extent (R258). -/
def spanEnds (base c0 : Nat) (l : List (Nat × Int)) : Int × Int :=
  (l.foldl (fun a p => a + min 0 (p.2 * ((p.1 : Int) - 1))) (base : Int),
   l.foldl (fun a p => a + max 0 (p.2 * ((p.1 : Int) - 1))) ((base : Int) + c0 - 1))

/-- The dimensions 1–4 of a strided body. -/
def dims (c1 c2 c3 c4 : Nat) (s1 s2 s3 s4 : Int) : List (Nat × Int) := [(c1, s1), (c2, s2), (c3, s3), (c4, s4)]

/-- The extent E of a descriptor (R258, R259); a table slot or hand-over has the extent its operation gives. -/
def Desc.extent (d : Desc) : Option Nat :=
  match d.body with
  | .strided _ c0 c1 c2 c3 c4 _ _ _ _ => some (c0 * c1 * c2 * c3 * c4)
  | .blocks _ n b _ => some (n * 2 ^ b)
  | _ => none

/-- Whether R256, R258–R260 or R282 reject a record with status FORMAT. -/
def descFormat (r : Role) (b : List Byte) : Bool :=
  let c := u32At b 0
  let d := parseDesc b
  let form := field c 3 0
  let headerZero := d.ra == 1 && d.platOff == 0 && !d.platAuto && d.pitch == 0
  decide (form = 0) || decide (4 < form)
    || bitAt c 7 || bitAt c 15 || field c 31 24 != 0 || field (u32At b 4) 31 21 != 0 || !zeroAt b 8 24
    || (form == 4 && (!r.handOk || !headerZero || d.acc || d.early || d.watchN != 0
        || u8At b 0x23 != 0 || !zeroAt b 0x30 0x50))
    || (form == 3 && (!r.slotOk || u8At b 0x23 != 0 || !zeroAt b 0x26 2 || !zeroAt b 0x30 0x50 || decide (2 < u8At b 0x22)
        || (!r.out && u32At b 0x2C != 0)))
    || (form == 2 && !zeroAt b 0x2D 0x53)
    || (form == 1 && (!zeroAt b 0x3C 4 || !zeroAt b 0x60 0x20))
    || (d.acc && !r.out) || (d.early && (r.out || !r.core))
    || (!r.honoured && !headerZero)
    || (form != 4 && (r.core != (d.watchN != 0)))
    || (d.platAuto && d.platOff != 0)
    || (match d.body with
        | .strided _ c0 c1 c2 c3 c4 s1 s2 s3 s4 => r.out && !spansOk c0 (dims c1 c2 c3 c4 s1 s2 s3 s4)
        | _ => false)

/-- Whether R254, R258, R259 or R260 reject a record with status RANGE. -/
def descRange (b : List Byte) : Bool :=
  let d := parseDesc b
  d.platOff % 64 != 0 ||
  match d.body with
  | .strided base c0 c1 c2 c3 c4 s1 s2 s3 s4 =>
    let e := spanEnds base c0 (dims c1 c2 c3 c4 s1 s2 s3 s4)
    c0 == 0 || c1 == 0 || c2 == 0 || c3 == 0 || c4 == 0 || decide (2 ^ 52 < c0 * c1 * c2 * c3 * c4)
      || decide (e.1 < 0) || decide ((2 ^ 52 : Int) ≤ e.2) || decide (2 ^ 52 ≤ base)
  | .blocks l n s _ => n == 0 || decide (s < 12) || decide (28 < s) || l % 128 != 0 || decide (2 ^ 52 ≤ l)
  | _ => false

/-- Whether an accumulate-write stream places every FP32 element whole at a 4-byte-aligned address (R208). -/
def Desc.accAligned (d : Desc) : Bool :=
  match d.body with
  | .strided base c0 c1 c2 c3 c4 s1 s2 s3 s4 =>
    base % 4 == 0 && c0 % 4 == 0 && (dims c1 c2 c3 c4 s1 s2 s3 s4).all (fun p => decide (p.1 ≤ 1) || p.2 % 4 == 0)
  | _ => true

/-! ## Where a logical byte lies -/

/-- The location of a logical byte: an address; a hole or an invalid list entry, or a list entry that cannot be read, with the address of the
entry; nothing (beyond E or not addressed by this form). -/
inductive SLoc where
  | va (a : Nat)
  | hole (entry : Nat)
  | invalid (entry : Nat)
  | list (status : Byte) (entry : Nat)
  | none
  deriving DecidableEq, Repr

/-- The address of logical offset o of a strided body (R258). -/
def stridedAt (base c0 c1 c2 c3 : Nat) (s1 s2 s3 s4 : Int) (o : Nat) : Nat :=
  let q1 := o / c0
  let q2 := q1 / c1
  let q3 := q2 / c2
  let q4 := q3 / c3
  ((base : Int) + (o % c0 : Nat) + s1 * (q1 % c1 : Nat) + s2 * (q2 % c2 : Nat) + s3 * (q3 % c3 : Nat) + s4 * q4).toNat

/-- What the list entry at an address says: a block's address, a hole, an invalid entry, one that cannot be read (R259). -/
def State.listEntry (s : State) (ctx at_ : Nat) : SLoc :=
  match s.readStatus ctx at_ with
  | some st => .list st at_
  | none =>
    let e := leNat (s.rdBytes ctx at_ 8)
    if e = 2 ^ 64 - 1 then .hole at_ else if e % 4096 ≠ 0 ∨ 2 ^ 52 ≤ e then .invalid at_ else .va e

/-- The location of logical offset o (R257–R259): by the list entry that a burst of the command has read (R271), else by the entry in context
memory. -/
def State.slocOf (s : State) (ctx : Nat) (d : Desc) (o : Nat) : SLoc :=
  match d.body with
  | .strided base c0 c1 c2 c3 c4 s1 s2 s3 s4 =>
    if o < c0 * c1 * c2 * c3 * c4 then .va (stridedAt base c0 c1 c2 c3 s1 s2 s3 s4 o) else .none
  | .blocks l n b read =>
    if o / 2 ^ b < n then
      let at_ := l + 8 * (o / 2 ^ b)
      match read.find? (fun e => e.1 == at_) with
      | some e => .va (e.2 + o % 2 ^ b)
      | none =>
        match s.listEntry ctx at_ with
        | .va e => .va (e + o % 2 ^ b)
        | l => l
    else .none
  | _ => .none

/-- Logical bytes that lie together from offset o on: to the end of the contiguous run and of the 512-byte line. -/
def Desc.runLen (d : Desc) (o va : Nat) : Nat :=
  let line := 512 - va % 512
  match d.body with
  | .strided _ c0 _ _ _ _ _ _ _ _ => min line (c0 - o % c0)
  | .blocks _ _ b _ => min line (2 ^ b - o % 2 ^ b)
  | _ => 1

/-- A piece of a stream inside one line: logical offset, location, length. -/
structure Piece where
  off : Nat
  loc : SLoc
  len : Nat
  deriving DecidableEq, Repr

/-- The pieces of logical bytes [o, o + n) (`fuel` ≥ n). -/
def State.pieces (s : State) (ctx : Nat) (d : Desc) : Nat → Nat → Nat → List Piece
  | 0, _, _ => []
  | fuel + 1, o, n =>
    if n = 0 then []
    else
      match s.slocOf ctx d o with
      | .va a =>
        let k := max 1 (min n (d.runLen o a))
        ⟨o, .va a, k⟩ :: s.pieces ctx d fuel (o + k) (n - k)
      | l => ⟨o, l, 1⟩ :: s.pieces ctx d fuel (o + 1) (n - 1)

def State.piecesOf (s : State) (ctx : Nat) (d : Desc) (o n : Nat) : List Piece := s.pieces ctx d n o n

/-! ## Command slots -/

/-- The command in a slot. -/
def State.cmd? (s : State) (slot : Nat) : Option Cmd := Tab.get none s.cmds.slots slot

def State.setCmd (s : State) (slot : Nat) (c : Option Cmd) : State :=
  { s with cmds := { s.cmds with slots := Tab.set none s.cmds.slots slot c } }

/-- Change the command of a slot, if there is one. -/
def State.modCmd (s : State) (slot : Nat) (f : Cmd → Cmd) : State :=
  match s.cmd? slot with
  | some c => s.setCmd slot (some (f c))
  | none => s

/-- Commands in their slots, keys included, in key order. -/
def State.cmdList (s : State) : List (Nat × Cmd) := s.cmds.slots.filterMap (fun e => e.2.map (fun c => (e.1, c)))

/-- Admitted, unretired commands of a context: those that hold a command slot. -/
def State.admitted (s : State) (ctx : Nat) : List (Nat × Cmd) :=
  s.cmdList.filter (fun e => e.2.ctx == ctx && decide (e.1 < 4096))

/-- A descriptor with the list entries that bursts have read (R271). -/
def Desc.withBursts (d : Desc) (read : List (Nat × Nat)) : Desc :=
  match d.body with
  | .blocks l n b _ => { d with body := .blocks l n b read }
  | _ => d

/-- The descriptor of a field of a stage. -/
def Cmd.desc (c : Cmd) (stage f : Nat) : Option Desc :=
  ((c.stages[stage]?).bind (fun st => st.descs.find? (fun d => d.1 == f))).map (fun d => d.2.withBursts c.bursts)

/-! ## Reading -/

/-- The byte of a location that a fetched tile of a stream holds. -/
def Cmd.tileByte (c : Cmd) (stage f : Nat) (l : Loc) : Option Byte :=
  c.tiles.findSome? (fun t =>
    if t.stage = stage ∧ t.field = f then
      t.lines.findSome? (fun e => if e.1 = l.line then e.2.map (fun d => nth 0 d l.inLine) else none)
    else none)

/-- Read a byte at a device virtual address for a stream of a command: from a fetched tile when one holds it (R275),
else from memory. -/
def State.cmdByte (s : State) (c : Cmd) (stage f va : Nat) : Byte :=
  match s.acc c.ctx va false with
  | .plain l => (c.tileByte stage f l).getD (s.mem.get l)
  | .comp l o => nth 0 ((s.compPage l).getD []) o
  | .bad => 0

/-- The entries that the bursts for bytes [o, o + n) of a block-list stream read: groups of 16 from a 128-byte-aligned address (R271). Holes, invalid
entries and those that cannot be read are not kept: they are read again. -/
def State.burstsOf (s : State) (c : Cmd) (stage f o n : Nat) : List (Nat × Nat) :=
  match c.desc stage f with
  | none => []
  | some d =>
    match d.body with
    | .blocks l count b read =>
      if n = 0 then []
      else
        let lo := o / 2 ^ b / 16 * 16
        let hi := min count (((o + n - 1) / 2 ^ b / 16 + 1) * 16)
        (upFrom lo (hi - lo)).filterMap (fun i =>
          let at_ := l + 8 * i
          if read.any (fun e => e.1 == at_) then none
          else
            match s.listEntry c.ctx at_ with
            | .va e => some (at_, e)
            | _ => none)
    | _ => []

/-- The reader of a stream: padding and bytes beyond E read zero (R268). -/
def State.streamRd (s : State) (c : Cmd) (stage f o : Nat) : Byte :=
  match c.desc stage f with
  | none => 0
  | some d =>
    match s.slocOf c.ctx d o with
    | .va a => s.cmdByte c stage f a
    | _ => 0

/-- Where a demanded access of a piece fails: its status and address (R228, R235, R242, R259). A line that is read by wagons is found by its
wagon: `held` says that it is read here. -/
def State.pieceFault (s : State) (ctx : Nat) (wr held : Bool) (p : Piece) : Option (Byte × FaultAt) :=
  match p.loc with
  | .hole a => some (stXlate, .va a)
  | .invalid a => some (stRange, .va a)
  | .list st a => (s.readFault ctx a).orElse fun _ => some (st, .va a)
  | .none => none
  | .va a =>
    match s.acc ctx a wr with
    | .bad => some (stXlate, .va a)
    | .comp _ _ => if wr then some (stXlate, .va a) else s.readFault ctx a
    | .plain _ => if !wr && held then s.readFault ctx a else none

/-- The first failure of the demanded bytes of a stream. -/
def State.demandFault (s : State) (c : Cmd) (stage f o n : Nat) (wr : Bool) : Option (Byte × FaultAt) :=
  match c.desc stage f with
  | none => none
  | some d => (s.piecesOf c.ctx d o n).findSome? (s.pieceFault c.ctx wr false)

/-- The line of a piece that a read wagon fetches; a compressed page is read as a whole by the decoder (log 7). -/
def State.pieceLine (s : State) (ctx : Nat) (p : Piece) : Option Loc :=
  match p.loc with
  | .va a =>
    match s.acc ctx a false with
    | .plain l => some l.line
    | _ => none
  | _ => none

/-- The lines of the demanded bytes of a stream. -/
def State.demandedLines (s : State) (c : Cmd) (stage f o n : Nat) : List Loc :=
  match c.desc stage f with
  | none => []
  | some d => (s.piecesOf c.ctx d o n).filterMap (s.pieceLine c.ctx)

/-! ## Writing -/

/-- The write wagons of bytes at logical offset o of a stream: one for each piece (R261, R269). A piece whose write
faults issues no wagon. -/
def State.writeReqs (s : State) (slot : Nat) (c : Cmd) (stage f o : Nat) (bytes : List Byte) : List WagonReq :=
  match c.desc stage f with
  | none => []
  | some d => (s.piecesOf c.ctx d o bytes.length).filterMap (fun p =>
      match p.loc with
      | .va a =>
        match s.acc c.ctx a true with
        | .plain l =>
          some { slot := slot, stage := stage, field := f, tile := 0, spec := false, kind := .write, va := a, line := l.line
                 bytes := (List.range p.len).map (fun i => (l.inLine + i, nth 0 bytes (p.off - o + i))), addend := [] }
        | _ => none
      | _ => none)

/-- The write wagons of bytes at a device virtual address (a ZC output, the outcome bytes of MIGRATE). -/
def State.writeReqsVa (s : State) (slot ctx stage f va : Nat) (bytes : List Byte) : List WagonReq :=
  let d : Desc := ⟨false, false, false, 1, 0, 0, 0, .strided va (max 1 bytes.length) 1 1 1 1 0 0 0 0⟩
  (s.piecesOf ctx d 0 bytes.length).filterMap (fun p =>
    match p.loc with
    | .va a =>
      match s.acc ctx a true with
      | .plain l =>
        some { slot := slot, stage := stage, field := f, tile := 0, spec := false, kind := .write, va := a, line := l.line
               bytes := (List.range p.len).map (fun i => (l.inLine + i, nth 0 bytes (p.off + i))), addend := [] }
      | _ => none
    | _ => none)

/-- The accumulate-write wagons of FP32 words at logical offset o of a stream (R208, R209): one for each piece. -/
def State.accReqs (s : State) (slot : Nat) (c : Cmd) (stage f o : Nat) (bytes : List Byte) : List WagonReq :=
  match c.desc stage f with
  | none => []
  | some d => (s.piecesOf c.ctx d o bytes.length).filterMap (fun p =>
      match p.loc with
      | .va a =>
        match s.acc c.ctx a true with
        | .plain l =>
          some { slot := slot, stage := stage, field := f, tile := 0, spec := false, kind := .acc, va := a, line := l.line
                 bytes := []
                 addend := (List.range (p.len / 4)).map (fun i =>
                   (l.inLine / 4 + i, BitVec.ofNat 32 (u32At bytes (p.off - o + 4 * i)))) }
        | _ => none
      | _ => none)

end Sys2Proof.Machine
end

