-- ==== Sys2Proof/Machine/Signals.lean ====
section
/-!
DEFINITION. The signal unit (12_signals_and_books.md): waits and posts (R324–R331), host operations (R333), the last
signaller (R334), abandoned signals (R336), and the meanings of the SIG_OP and SIG_ADD rows.
-/
namespace Sys2Proof.Machine

def State.sigOf (s : State) (n : Nat) : Signal := Tab.get Signal.free s.sig.sigs n

def State.setSig (s : State) (n : Nat) (g : Signal) : State :=
  { s with sig := { s.sig with sigs := Tab.set Signal.free s.sig.sigs n g } }

/-- Signal n lies in the range of host function k (R323). -/
def State.sigOfHost (s : State) (k n : Nat) : Bool :=
  let h := s.hostCfg k
  decide (h.sigFirst ≤ n) && decide (n < h.sigFirst + h.sigCount)

/-- A command of a context may name signal n (R323). -/
def State.sigForCtx (s : State) (ctx n : Nat) : Bool :=
  match s.hostOfCtx ctx with
  | some k => s.sigOfHost k n
  | none => false

/-- A master may operate on signal n (R323). -/
def State.maySig (s : State) (mst : Master) (n : Nat) : Bool :=
  match mst.host? with
  | some k => s.sigOfHost k n
  | none => decide (n < 65536)

/-! ## Waits (R325, R328) -/

/-- The waits of a command that are in use, with their indices. -/
def Cmd.waits (c : Cmd) : List (Nat × SigEnt) :=
  (c.crec.waits.zipIdx.filter (fun p => p.1.op != 0)).map (fun p => (p.2, p.1))

def Cmd.posts (c : Cmd) : List SigEnt := c.crec.posts.filter (fun e => e.op != 0)

/-- The sum of a command's TAKE values on a signal. -/
def Cmd.takeSum (c : Cmd) (n : Nat) : Nat :=
  (c.waits.filter (fun p => p.2.sig == n && p.2.op == 4)).foldl (fun a p => a + p.2.val.toNat) 0

/-- Whether one wait holds against the values the signals hold now (R325, R328). -/
def State.waitHolds (s : State) (c : Cmd) (e : SigEnt) : Bool :=
  let v := (s.sigOf e.sig).value.toNat
  match e.op with
  | 1 => decide (e.val.toNat ≤ v)
  | 2 => v == e.val.toNat
  | 3 => v != e.val.toNat
  | 4 => decide (c.takeSum e.sig ≤ v)
  | _ => true

/-- Whether all waits of a command hold at this instant (R328). -/
def State.waitsHold (s : State) (c : Cmd) : Bool := c.waits.all (fun p => s.waitHolds c p.2)

/-- Take a command's entries out of every waiter list. -/
def State.dropWaiter (s : State) (slot : Nat) (c : Cmd) : State :=
  c.waits.foldl (fun s p =>
    let g := s.sigOf p.2.sig
    s.setSig p.2.sig { g with waiters := g.waiters.filter (fun w => w.slot != slot) }) s

/-- The waits of a command are satisfied (R328): every TAKE subtracts its VALUE, the entries leave every list, and the
command is eligible to start. -/
def State.satisfy (s : State) (slot : Nat) (c : Cmd) (cause : Nat) : State :=
  let takes := c.waits.filter (fun p => p.2.op == 4)
  let s1 := takes.foldl (fun s p =>
    let g := s.sigOf p.2.sig
    s.setSig p.2.sig { g with value := g.value - p.2.val }) s
  let s2 := s1.dropWaiter slot c
  let left := c.waitLeft - (s.time.cmdClk - c.waitAt).toNat
  let s3 := s2.setCmd slot (some { c with phase := .ready, waitLeft := left, held := takes.map (fun p => (p.2.sig, p.2.val)) })
  s3.trace false ⟨0x05, 0x10, 0, 0, BitVec.ofNat 32 cause, s.time.now,
    BitVec.ofNat 64 (s3.sigOf cause).value.toNat, BitVec.ofNat 64 slot⟩

/-- The first waiter of a signal, in list order, whose command's waits hold (R328). -/
def State.firstHeld (s : State) (n : Nat) : Option (Nat × Cmd) :=
  (s.sigOf n).waiters.findSome? (fun w =>
    match s.cmd? w.slot with
    | some c => if c.phase = .admitted ∧ s.waitsHold c then some (w.slot, c) else none
    | none => none)

/-- Re-examine lists until no waiter in them holds (R328): after a command is satisfied its list is examined again from its oldest waiter, and
the lists of the other signals whose value its TAKEs changed come after. -/
def State.examineAll : Nat → State → List Nat → State
  | 0, s, _ => s
  | _ + 1, s, [] => s
  | f + 1, s, n :: t =>
    match s.firstHeld n with
    | none => State.examineAll f s t
    | some (slot, c) =>
      let changed := (c.waits.filter (fun p => p.2.op == 4 && p.2.sig != n)).map (fun p => p.2.sig)
      State.examineAll f (s.satisfy slot c n) (n :: (t ++ changed))

/-- The signal unit re-examines the waiter lists of changed signals (R328). Each satisfied command adds at most four
signals, so the fuel covers every list. -/
def State.examine (s : State) (ns : List Nat) : State :=
  State.examineAll (ns.length + 5 * s.cmds.slots.length + 1) s ns

/-! ## Posts (R326, R330, R334) -/

/-- Who posts: master identity, context, queue, SEQ (R334). -/
structure Poster where
  master : Nat
  ctx    : Nat
  queue  : Nat
  seq    : Word
  deriving DecidableEq, Repr

/-- Whether a class allows a POP (R324). -/
def popAllowed (cls pop : Nat) : Bool := pop == 1 || pop == 3 || (pop == 2 && cls == 0)

/-- Whether a class allows a WOP (R324). -/
def wopAllowed (cls wop : Nat) : Bool := wop == 1 || wop == 2 || wop == 3 || (wop == 4 && cls == 0)

/-- The value after one post; `none` when a data signal would leave its range (R324, R326). -/
def postValue (g : Signal) (pop : Nat) (v : Word) : Option (Word × Bool) :=
  let x := g.value.toNat
  match pop with
  | 1 =>
    if x + v.toNat < 2 ^ 32 then some (g.value + v, g.sat)
    else if g.cls = 1 then some (0xFFFFFFFF, true) else none
  | 2 => if v.toNat ≤ x then some (g.value - v, g.sat) else none
  | _ => some (v, false)

/-- Check a set of posts in order (R330): whether every one stays in range; posts to abandoned signals are discarded. -/
def State.postsFit (s : State) : List SigEnt → Bool
  | [] => true
  | e :: t =>
    let g := s.sigOf e.sig
    if g.state = .live then
      match postValue g e.op e.val with
      | some v => (s.setSig e.sig { g with value := v.1, sat := v.2 }).postsFit t
      | none => false
    else s.postsFit t

/-- Apply one post that fits: the value, SAT, the last-signaller record and its trace record (R330, R334); a post to
an abandoned signal is discarded and logged (R336). -/
def State.applyPost (s : State) (p : Poster) (e : SigEnt) : State :=
  let g := s.sigOf e.sig
  if g.state = .live then
    match postValue g e.op e.val with
    | some v =>
      let last : LastSig := ⟨p.master, p.ctx, p.queue, e.op, p.seq, s.time.now⟩
      (s.setSig e.sig { g with value := v.1, sat := v.2, last := last }).trace false
        ⟨0x04, 0x10, 0, 0, BitVec.ofNat 32 e.sig, s.time.now, BitVec.ofNat 64 v.1.toNat,
          BitVec.ofNat 64 (p.master + putAt p.ctx 4)⟩
    | none => s
  else
    s.logErr { status := stAbandoned, unit := uSig, ctx := p.ctx, host := s.ctxHostCode p.ctx, master := p.master,
               index := e.sig }

/-- Apply a set of posts in one step of the signal unit (R330): all, or none with `false`. -/
def State.postAll (s : State) (p : Poster) (es : List SigEnt) : State × Bool :=
  if s.postsFit es then
    let live := (es.filter (fun e => (s.sigOf e.sig).state == .live)).map (·.sig)
    ((es.foldl (fun s e => s.applyPost p e) s).examine live, true)
  else
    (es.foldl (fun s e => s.logErr { status := stSigUnderflow, unit := uSig, ctx := p.ctx, host := s.ctxHostCode p.ctx,
                                     master := p.master, index := e.sig }) s, false)

/-! ## The entries of a command (R327, R331) -/

/-- What R327 finds wrong with a command's entries at the latch instant. -/
def State.entryFault (s : State) (ctx : Nat) (waits posts : List SigEnt) : Option Byte :=
  let ws := waits.filter (fun e => e.op != 0)
  let ps := posts.filter (fun e => e.op != 0)
  let free (e : SigEnt) : Bool := (s.sigOf e.sig).state == .free
  let missing (e : SigEnt) : Bool := free e || !s.sigForCtx ctx e.sig
  let fmt := ws.any (fun e => !free e && !wopAllowed (s.sigOf e.sig).cls e.op)
    || ps.any (fun e => !free e && !popAllowed (s.sigOf e.sig).cls e.op)
    || ws.any (fun e => e.op == 4 && e.val == 0)
  if fmt then some stFormat
  else if ws.any missing || ps.any missing then some stRange
  else if ws.any (fun e => (s.sigOf e.sig).state == .abandoned) then some stAbandoned
  else none

/-- The entries of an admitted command: one REFS each, and its waits join the lists in order (R327). -/
def State.joinEntries (s : State) (slot : Nat) (c : Cmd) : State :=
  let s1 := (c.waits.map (·.2) ++ c.posts).foldl (fun s e =>
    let g := s.sigOf e.sig
    s.setSig e.sig { g with refs := g.refs + 1 }) s
  c.waits.foldl (fun s p =>
    let g := s.sigOf p.2.sig
    s.setSig p.2.sig { g with waiters := g.waiters ++ [⟨slot, p.1, p.2.op, p.2.val⟩] }) s1

/-- The entries of a command that retires or ends: REFS falls by one each, and its waits leave the lists (R327). -/
def State.leaveEntries (s : State) (slot : Nat) (c : Cmd) : State :=
  (c.waits.map (·.2) ++ c.posts).foldl (fun s e =>
    let g := s.sigOf e.sig
    s.setSig e.sig { g with refs := g.refs - 1 }) (s.dropWaiter slot c)

/-- Return the tokens of a command that ends before it starts (R331). -/
def State.returnTokens (s : State) (c : Cmd) : State :=
  let s1 := c.held.foldl (fun s h =>
    let g := s.sigOf h.1
    if g.state = .live then
      if g.value.toNat + h.2.toNat < 2 ^ 32 then s.setSig h.1 { g with value := g.value + h.2 }
      else (s.setSig h.1 { g with value := 0xFFFFFFFF }).logErr
        { status := stSigUnderflow, unit := uSig, ctx := c.ctx, host := s.ctxHostCode c.ctx, index := h.1 }
    else s) s
  s1.examine (c.held.map (·.1))

/-! ## Host operations (R333) -/

def State.sigRegs (s : State) (mst : Master) : SigRegs := Tab.get SigRegs.zero s.sig.regs mst.code

def State.setSigRegs (s : State) (mst : Master) (r : SigRegs) : State :=
  { s with sig := { s.sig with regs := Tab.set SigRegs.zero s.sig.regs mst.code r } }

/-- Report the outcome of a master's signal operation. -/
def State.sigDone (s : State) (mst : Master) (st : Byte) : State :=
  s.setSigRegs mst { s.sigRegs mst with busy := false, status := st }

/-- The poster of a host post (R334). -/
def Poster.ofMaster (mst : Master) : Poster := ⟨mst.code, 0, 0, 0xFFFFFFFF⟩

/-- An operation on a signal outside the master's range is refused and logged (R333). -/
def State.sigRefused (s : State) (mst : Master) : State :=
  (s.logErr { status := stRange, unit := uSig, host := mst.hostCode, master := mst.code, index := (s.sigRegs mst).sel }).sigDone
    mst stRange

/-- Signals owned by a context. -/
def State.ownedSigs (s : State) (ctx : Nat) : List Nat :=
  Tab.keysWhere (fun g => g.state == .live && g.owner == ctx) s.sig.sigs

/-- A post of a host to one signal (R327, R333): FORMAT before RANGE before ABANDONED; the state and the status; a refused or discarded post is logged (R330, R336). -/
def State.hostPost (s : State) (mst : Master) (n pop : Nat) (v : Word) : State × Byte :=
  let g := s.sigOf n
  if pop = 0 ∨ 3 < pop then (s, stFormat)
  else if g.state = .free then (s, stRange)
  else if !popAllowed g.cls pop then (s, stFormat)
  else if g.state = .abandoned then
    (s.logErr { status := stAbandoned, unit := uSig, ctx := g.owner, owner := s.ctxHostCode g.owner, host := mst.hostCode, master := mst.code, index := n },
     stAbandoned)
  else
    match postValue g pop v with
    | none =>
      (s.logErr { status := stSigUnderflow, unit := uSig, ctx := g.owner, owner := s.ctxHostCode g.owner, host := mst.hostCode, master := mst.code, index := n },
       stSigUnderflow)
    | some _ => ((s.applyPost (Poster.ofMaster mst) ⟨n, pop, v⟩).examine [n], stOk)

/-- BIND of SIG_OP (R333). -/
def sigBindOp (mst : Master) (cls ctx : Nat) (v : Word) (s : State) : State :=
  let n := (s.sigRegs mst).sel
  if !s.maySig mst n then s.sigRefused mst
  else if (s.sigOf n).state ≠ .free ∨ !s.mayCtx mst ctx then s.sigDone mst stRange
  else if 256 ≤ (s.ownedSigs ctx).length then s.sigDone mst stResource
  else (s.setSig n { Signal.free with state := .live, cls := cls % 2, owner := ctx, value := v }).sigDone mst stOk

/-- UNBIND of SIG_OP (R333). -/
def sigUnbindOp (mst : Master) (s : State) : State :=
  let n := (s.sigRegs mst).sel
  if !s.maySig mst n then s.sigRefused mst
  else
    let g := s.sigOf n
    if g.state = .free ∨ g.refs ≠ 0 ∨ g.ownerSaved then s.sigDone mst stResource
    else (s.setSig n Signal.free).sigDone mst stOk

/-- POST of SIG_OP (R333). -/
def sigPostOp (mst : Master) (pop : Nat) (v : Word) (s : State) : State :=
  let n := (s.sigRegs mst).sel
  if !s.maySig mst n then s.sigRefused mst
  else
    let r := s.hostPost mst n pop v
    r.1.sigDone mst r.2

/-- CLRSAT of SIG_OP (R324, R333). -/
def clrsatOp (mst : Master) (s : State) : State :=
  let n := (s.sigRegs mst).sel
  if !s.maySig mst n then s.sigRefused mst
  else
    let g := s.sigOf n
    if g.state = .free then s.sigDone mst stRange
    else (s.setSig n { g with sat := false }).sigDone mst stOk

/-- A write of SIG_ADDn (12 "SIG_VAL and SIG_ADD windows"): a POST ADD; any outcome but OK is logged, and SIG_STAT is
unchanged. -/
def sigAddOp (mst : Master) (n : Nat) (v : Word) (s : State) : State :=
  let off := 0x3C0000 + 4 * n
  if !s.maySig mst n then s.logReg mst off
  else
    let r := s.hostPost mst n 1 v
    if r.2 = stOk ∨ r.2 = stAbandoned ∨ r.2 = stSigUnderflow then r.1
    else r.1.logErr { status := r.2, unit := uSig, host := mst.hostCode, master := mst.code, addr := off, index := n }

end Sys2Proof.Machine
end

