-- ==== Sys2Proof/Machine/Ops.lean ====
section
/-!
DEFINITION. The shared operations on commands and memory: contexts, wagons and their tags (R261–R264), watched writes
(R273–R277), cancelling (R278), the retire point and the completion queue (R306–R312), and ending a command early.
-/
namespace Sys2Proof.Machine

/-! ## Contexts and commands -/

def State.ctx (s : State) (c : Nat) : Ctx := Tab.get Ctx.zero s.ctxs c

def State.setCtx (s : State) (c : Nat) (x : Ctx) : State := { s with ctxs := Tab.set Ctx.zero s.ctxs c x }

/-- The STATE code of CTX_STATE. -/
def CtxState.code : CtxState → Nat
  | .off => 0
  | .on => 1
  | .preempting => 2
  | .saved => 3
  | .restoring => 4
  | .resetting => 5

/-- A context changes its state: the new one is traced (R473). -/
def State.enterCtx (s : State) (c : Nat) (x : Ctx) : State :=
  (s.setCtx c x).trace true ⟨0x06, 0x9, c, 0, 0, s.time.now, BitVec.ofNat 64 x.state.code, 0⟩

def State.modCtx (s : State) (c : Nat) (f : Ctx → Ctx) : State := s.setCtx c (f (s.ctx c))

/-- Submission queue q of a context. -/
def Ctx.sq (x : Ctx) (q : Nat) : Sq :=
  match q with
  | 0 => x.sq0
  | 1 => x.sq1
  | 2 => x.sq2
  | _ => x.sq3

def Ctx.setSq (x : Ctx) (q : Nat) (v : Sq) : Ctx :=
  match q with
  | 0 => { x with sq0 := v }
  | 1 => { x with sq1 := v }
  | 2 => { x with sq2 := v }
  | _ => { x with sq3 := v }

/-- When a stall watchdog that starts now expires (R316, R464). -/
def State.stallDue (s : State) : Nat := s.time.cmdClk.toNat + s.pwr.stallMs * 1000000

/-- A command makes progress: its stall watchdog starts again (R316). -/
def State.progress (s : State) (slot : Nat) : State := s.modCmd slot (fun c => { c with stallBy := s.stallDue })

/-- Every admitted, unretired command, those of pre-empted contexts included (R151, R168). -/
def State.allCmds (s : State) : List Cmd :=
  s.cmdList.map (·.2) ++ s.ctxs.flatMap (fun e =>
    match e.2.saved with
    | some v => v.cmds
    | none => [])

/-- The home sequencer of a command (R306). -/
def Cmd.home (c : Cmd) : Nat :=
  match ((c.stages.head?.map (·.cores)).getD []).head? with
  | some k => if 144 ≤ k then 0xA else 0x9
  | none => 0x9

/-- The cores that a command uses. -/
def Cmd.cores (c : Cmd) : List Nat := (c.stages.flatMap (·.cores)).eraseDups

/-- A trace record of a command. -/
def State.traceCmd (s : State) (c : Cmd) (type a b : Nat) : State :=
  s.trace true ⟨type, c.home, c.ctx, c.queue, c.seq, s.time.now, BitVec.ofNat 64 a, BitVec.ofNat 64 b⟩

/-- Change the accumulators of a command. -/
def State.modAcc (s : State) (slot : Nat) (f : Accum → Accum) : State := s.modCmd slot (fun c => { c with acc := f c.acc })

/-- Count an operation counter of a command, and its device total (R311, R469). -/
def State.count (s : State) (slot : Nat) (o : Oc) (n : Nat) : State :=
  if n = 0 then s
  else
    let s1 := s.modAcc slot (fun a => { a with oc := addOc o n a.oc })
    match o.device with
    | some i => s1.bump (cntDev i) n
    | none => s1

/-- Count conversions of a command (R56, R58): the accumulators and the device totals. -/
def State.countHealth (s : State) (slot : Nat) (h : Health) : State :=
  ((s.modAcc slot (fun a => { a with fmtSat := a.fmtSat + h.sat, fmtFtz := a.fmtFtz + h.ftz })).bump (cntDev 14) h.sat).bump
    (cntDev 15) h.ftz

/-- Count conversions by core (R469): core entries of a list of cores. -/
def State.countByCore (s : State) (cores : List Nat) (h : List (Nat × Health)) : State :=
  h.foldl (fun s e =>
    match cores[e.1]? with
    | some k => (s.bump (cntCore k 9) e.2.sat).bump (cntCore k 10) e.2.ftz
    | none => s) s

/-- The log entry of an event that a command causes: its context, the HOST code of that, its home sequencer, and for an entry
of the sequencer its SEQ as the record index. -/
def Cmd.ofCmd (c : Cmd) (a : LogArg) (host : Nat) : LogArg :=
  { a with ctx := c.ctx, host := host, master := c.home, index := if a.unit = uSeq then c.seq.toNat % 65536 else a.index }

/-- Log an event that a command causes; the record of the command names its first entry (R309). -/
def State.logCmd (s : State) (slot : Nat) (a : LogArg) : State :=
  match s.cmd? slot with
  | none => s.logErr a
  | some c =>
    let r := s.logSeq (c.ofCmd a (s.ctxHostCode c.ctx))
    r.1.modCmd slot (fun c => { c with errSeq := some (c.errSeq.getD r.2) })

/-! ## Wagon tags (R262, R263) -/

/-- A pool of tags: its kind, its unit, its size. -/
structure Pool where
  kind : Nat
  unit : Nat
  size : Nat
  deriving DecidableEq, Repr

/-- The pseudo-channels of a half in interleave order, as 64 × stack + 2 × channel + pseudo-channel (R233). -/
def State.pcList (s : State) (half : Nat) : List Nat :=
  ((List.range 256).map (fun k => 64 * (4 * half + k % 4) + 2 * (k / 4 % 32) + k / 128)).filter
    (fun x => !s.inv.mapOut.contains x)

/-- The pseudo-channel that holds an HBM address (R233). -/
def State.pcOf (s : State) (pa : Nat) : Nat :=
  let h := hbmHalf pa
  let l := s.pcList h
  nth 0 l (pa % 2 ^ 38 / 512 % max 1 l.length)

/-- The stack that holds an HBM address (R14, R233). -/
def State.stackOf (s : State) (pa : Nat) : Nat := s.pcOf pa / 64

/-- The log entry of an event on an HBM line. -/
def State.lineArg (s : State) (status : Byte) (pa : Nat) : LogArg :=
  { status := status, unit := uCtrl, addr := pa / 512 * 512, where_ := s.stackOf pa, index := s.pcOf pa % 64 }

/-- The unit and place of a line in the error log. -/
def State.placeArg (s : State) (l : Loc) (port : Nat) (st : Byte) : LogArg :=
  let base : LogArg := { status := st, unit := uCtrl, addr := l.addr }
  match l with
  | .hbm pa => s.lineArg st pa
  | .depot _ => { base with unit := uDepot }
  | .host k _ => { base with unit := uHost, where_ := k }
  | .peer _ _ => { base with unit := uPort, where_ := port }
  | .plat c _ => { base with unit := uCore, where_ := c / 144, index := c % 144 }

/-- The Rudom port on which a peer wagon leaves. -/
def State.peerPort (s : State) (node : Nat) : Nat :=
  match s.routeTo node with
  | .port k => k
  | _ => 0

/-- The log entry of an access that a unit makes and that fails. -/
def State.faultArg (s : State) (unit : Nat) (f : Byte × FaultAt) : LogArg :=
  match f.2 with
  | .va a => { status := f.1, unit := unit, addr := a }
  | .line l =>
    let port := match l with
      | .peer n _ => s.peerPort n
      | _ => 0
    s.placeArg l port f.1

/-- The number of a pool. -/
def Pool.code (p : Pool) : Nat := p.kind * 2 ^ 16 + p.unit

/-- The pool of a location (R262). -/
def State.poolOf (s : State) (l : Loc) : Pool :=
  match l with
  | .hbm pa => ⟨0, s.pcOf pa, 80⟩
  | .depot o => ⟨1, o / 512 % max 1 s.inv.banks, 32⟩
  | .host p _ => ⟨2, p, 256⟩
  | .peer n _ => ⟨3, s.peerPort n, 512⟩
  | .plat c _ => ⟨4, c, 16⟩

/-- Tags held in a pool. -/
def State.tagsHeld (s : State) (p : Pool) : Nat :=
  (s.cmds.wagons.filter (fun w =>
    if p.kind = 3 then (s.poolOf w.req.line).kind = 3 ∧ w.port = p.unit else s.poolOf w.req.line = p)).length

/-- Wagons of a context in flight. -/
def State.ctxWagons (s : State) (ctx : Nat) : Nat := (s.cmds.wagons.filter (fun w => w.ctx == ctx)).length

/-- The lowest free requester tag of a port. -/
def State.freeTag (s : State) (port : Nat) : Nat :=
  ((List.range 512).find? (fun t => !s.cmds.wagons.any (fun w => w.port == port && w.tag == t
    && (s.poolOf w.req.line).kind == 3))).getD 0

/-- The slot number of wagons whose command has retired. -/
def orphanSlot : Nat := 2 ^ 40

/-- The packets of a command that leaves its slot name it no longer. -/
def Port.orphan (p : Port) (slot : Nat) : Port :=
  let free (o : Option Nat) : Option Nat := if o = some slot then none else o
  { p with queues := p.queues.map (fun (e : Nat × List TxPkt) => (e.1, e.2.map (fun (x : TxPkt) => { x with slot := free x.slot })))
           inReplay := p.inReplay.map (fun (x : ReplayEnt) => { x with slot := free x.slot }) }

/-- The wagons and packets of a command that leaves its slot name it no longer (R264). -/
def State.orphan (s : State) (slot : Nat) : State :=
  let ws := s.cmds.wagons.map (fun (w : Wagon) =>
    if w.req.slot = slot then { w with req := { w.req with slot := orphanSlot } } else w)
  { s with cmds := { s.cmds with wagons := ws }
           fab := { s.fab with ports := s.fab.ports.map (fun (e : Nat × Port) => (e.1, e.2.orphan slot)) } }

/-- What an attempt to issue a wagon meets. -/
inductive IssueRes where
  | issued
  | wait
  | down
  deriving DecidableEq, Repr

/-- The request packet of a peer wagon (R349). -/
def State.peerPacket (s : State) (r : WagonReq) (node pa tag : Nat) : Packet :=
  match r.kind with
  | .read => s.mkPacket node 1 pa tag []
  | _ =>
    let at_ (i : Nat) : Option Byte := (r.bytes.find? (fun e => e.1 == i)).map (·.2)
    let line := (List.range 512).map (fun i => (at_ i).getD 0)
    if (List.range 512).all (fun i => (at_ i).isSome) then s.mkPacket node 2 pa tag line
    else
      let mask := (List.range 64).map (fun b =>
        BitVec.ofNat 8 ((List.range 8).foldl (fun a i => a + flagAt (at_ (8 * b + i)).isSome i) 0))
      s.mkPacket node 3 pa tag (mask ++ line)

/-- The core whose stream engine issues a wagon, those of a dual-path load among them (R250); none for the wagons of the engines of the hub dies. -/
def State.wagonCore (s : State) (r : WagonReq) : Option Nat :=
  if 0xFD ≤ r.field then (s.cmd? r.slot).bind (fun c => c.cores[tileCore r.tile]?)
  else if 32 ≤ r.field then none
  else (s.cmd? r.slot).bind (fun c => ((nth Stage.none c.stages r.stage).cores)[tileCore r.tile]?)

/-- The unit that waits for a tag (R263): a core, or a hub-die engine: the shunting engine, the Yard, an update engine by stack, the engine of
table writes and loads. -/
def State.unitOf (s : State) (r : WagonReq) : Nat :=
  match s.wagonCore r with
  | some k => k
  | none =>
    match (s.cmd? r.slot).map Cmd.op, r.line with
    | some 0x08, _ => 288
    | some 0x09, _ => 289
    | some 0x0A, _ => 289
    | some 0x0B, _ => 289
    | some 0x0C, .hbm pa => 296 + s.stackOf pa
    | _, _ => 290

/-- The counters of an issued wagon (R469): its core and its context. -/
def State.countIssue (s : State) (c : Cmd) (r : WagonReq) : State :=
  let s1 := s.bump (cntCtx c.ctx 3) 1
  match s.wagonCore r with
  | some k => s1.bump (cntCore k (if r.kind = .read then 4 else 5)) 1
  | none => s1

/-- A core's stream engine holds 512 read wagons, or 128 write and accumulate-write wagons, in flight (R262). -/
def State.engineFull (s : State) (r : WagonReq) : Bool :=
  match s.wagonCore r with
  | some k =>
    let rd (q : WagonReq) : Bool := q.kind == .read
    decide ((if rd r then 512 else 128) ≤
      (s.cmds.wagons.filter (fun w => rd w.req == rd r && s.wagonCore w.req == some k)).length)
  | none => false

/-- The pool of a wagon has a tag, its core's engine has room and its context is below its cap (R262, R263). -/
def State.canIssue (s : State) (ctx : Nat) (r : WagonReq) : Bool :=
  let p := s.poolOf r.line
  !(decide (p.size ≤ s.tagsHeld p) || (s.cfg.wagonCap != 0 && decide (s.cfg.wagonCap ≤ s.ctxWagons ctx)) || s.engineFull r)

/-- Issue a wagon when it may be (R262, R263); one to a node that does not exist is dropped and logged (R355). -/
def State.issue (s : State) (c : Cmd) (r : WagonReq) : State × IssueRes :=
  if !s.canIssue c.ctx r then (s, .wait)
  else
    let p := s.poolOf r.line
    let id := s.cmds.nextId
    let w (port tag : Nat) : Wagon := ⟨id, c.ctx, port, tag, r, s.time.clk, s.time.clk.toNat + s.pwr.wagonUs * 1000, false, false, [], false, false, false⟩
    let add (s : State) (port tag : Nat) : State :=
      { s with cmds := { s.cmds with wagons := s.cmds.wagons ++ [w port tag], nextId := id + 1
                                     turns := Tab.set 0 s.cmds.turns p.code (s.unitOf r) } }
    match r.line with
    | .peer n pa =>
      let tag := s.freeTag p.unit
      let q := (add s p.unit tag).sendPacket (s.peerPacket r n pa tag) (some id) (some r.slot) none
      if q.2 = .sent then (q.1.countIssue c r, .issued)
      else if q.2 = .lost then ((s.sendPacket (s.peerPacket r n pa tag) (some id) (some r.slot) none).1, .down)
      else (s, .down)
    | .host k a =>
      let s1 := add s 0 0
      ((if r.kind = .read then s1 else s1.hostPush k (.data a r.bytes)).countIssue c r, .issued)
    | _ => ((add s 0 0).countIssue c r, .issued)

/-- Mark the output of an issued write wagon as indeterminate, should the command end early (R308). -/
def Cmd.noteIssue (c : Cmd) (r : WagonReq) : Cmd :=
  if r.kind = .read ∨ c.chained ∨ 32 ≤ r.field then c else { c with indMask := c.indMask ||| (1 <<< r.field) }

/-- Issue what may leave of a list of requests: the state, the requests that wait, whether a port was down. -/
def State.issueAll (slot : Nat) : List WagonReq → State → State × List WagonReq × Bool
  | [], s => (s, [], false)
  | r :: t, s =>
    match s.cmd? slot with
    | none => (s, r :: t, false)
    | some c =>
      let q := s.issue c r
      let u := State.issueAll slot t (if q.2 = .issued then q.1.modCmd slot (Cmd.noteIssue · r) else q.1)
      if q.2 = .issued then u
      else if q.2 = .wait then (u.1, r :: u.2.1, u.2.2)
      else (u.1, u.2.1, u.2.2 || !r.spec)

/-- Wagons of a command that its retire point waits for (R306). -/
def State.outstanding (s : State) (slot : Nat) : List Wagon :=
  s.cmds.wagons.filter (fun w => w.req.slot == slot && !w.discard && !w.timedOut)

/-- Wagons of a command that have been issued and neither acknowledged nor timed out, discarded reads included. -/
def State.unacked (s : State) (slot : Nat) : List Wagon :=
  s.cmds.wagons.filter (fun w => w.req.slot == slot && !w.timedOut)

/-! ## Watch windows (R273–R277) -/

/-- Two locations lie in the same tier and unit. -/
def Loc.sameSpace (a b : Loc) : Bool := a.withAddr 0 == b.withAddr 0

/-- The range of a tile: its lowest line and the end of its highest. -/
def Tile.range (t : Tile) : Option (Loc × Nat × Nat) :=
  match t.lines with
  | [] => none
  | (l, _) :: _ =>
    some (l.withAddr 0, t.lines.foldl (fun a e => min a e.1.addr) l.addr, t.lines.foldl (fun a e => max a (e.1.addr + 512)) 0)

/-- Tiles of one window: the same stream, core and window. -/
def Tile.mates (t u : Tile) : Bool :=
  t.stage == u.stage && t.field == u.field && tileCore t.idx == tileCore u.idx && t.window == u.window

/-- A written byte range hits the window of a tile. -/
def tileHit (ts : List Tile) (t : Tile) (l : Loc) (lo hi : Nat) : Bool :=
  match (ts.filter (·.mates t)).filterMap Tile.range with
  | [] => false
  | r :: rs =>
    let a := rs.foldl (fun a x => min a x.2.1) r.2.1
    let b := rs.foldl (fun b x => max b x.2.2) r.2.2
    l.sameSpace r.1 && decide (lo < b) && decide (a < hi)

/-- The read request of line l of a tile. -/
def Tile.req (t : Tile) (slot : Nat) (spec : Bool) (l : Loc) : WagonReq :=
  { slot := slot, stage := t.stage, field := t.field, tile := t.idx, spec := spec, kind := .read, va := 0, line := l
    bytes := [], addend := [] }

/-- A wagon of a tile. -/
def Wagon.ofTile (w : Wagon) (slot : Nat) (t : Tile) : Bool :=
  w.req.slot == slot && w.req.kind == .read && w.req.stage == t.stage && w.req.field == t.field && w.req.tile == t.idx

/-- Two entries of one tile. -/
def Tile.same (t u : Tile) : Bool := t.stage == u.stage && t.field == u.field && t.idx == u.idx

/-- A tile that is not fetched again until it is demanded (R264, R270, R276). -/
def Tile.dropped (t : Tile) : Tile := { t with lines := [], hits := 16 }

/-- Invalidate the tiles of a command that a write hits (R275, R276): all entries of a tile of which one is hit. The consumption of a demanded tile
has begun: no write affects it. A tile with 16 hits is fetched at its demand. -/
def State.hitCmd (s : State) (slot : Nat) (c : Cmd) (l : Loc) (lo hi : Nat) : State :=
  let struck := c.tiles.filter (fun t => t.use == .ahead && decide (t.hits < 16) && tileHit c.tiles t l lo hi)
  if struck = [] then s
  else
    let isHit (t : Tile) : Bool := t.use == .ahead && decide (t.hits < 16) && struck.any t.same
    let hit := c.tiles.filter isHit
    let flying (t : Tile) : Nat :=
      (s.cmds.wagons.filter (fun w => w.ofTile slot t && t.lines.any (fun e => e.1 == w.req.line) && !w.discard && !w.arrived)).length
    let got (t : Tile) : Nat := (t.lines.filter (fun e => e.2.isSome)).length
    let lost (t : Tile) : Nat := flying t + got t
    let waste := hit.foldl (fun a t => a + 512 * lost t) 0
    let core (stage idx : Nat) : Nat := nth 0 (nth Stage.none c.stages stage).cores (tileCore idx)
    let fresh (t : Tile) : Tile := { t with lines := t.lines.map (fun e => (e.1, none)), hits := t.hits + 1 }
    let again := (hit.map fresh).filter (fun t => t.hits < 16)
    let tiles := c.tiles.map (fun t => if isHit t then (if (fresh t).hits < 16 then fresh t else t.dropped) else t)
    let outQ := c.outQ.filter (fun r => !(r.kind == .read && hit.any (fun t => r.stage == t.stage && r.field == t.field
      && r.tile == t.idx)))
    let reqs := again.flatMap (fun t => t.lines.map (fun e => t.req slot true e.1))
    let s1 := { s with cmds := { s.cmds with wagons := s.cmds.wagons.map (fun (w : Wagon) =>
      if hit.any (fun t => w.ofTile slot t) then { w with discard := true } else w) } }
    let keys := (hit.map (fun t => (t.stage, t.field, t.idx))).eraseDups
    let acc := { c.acc with strWaste := c.acc.strWaste + waste, refetch := c.acc.refetch + keys.length }
    let s2 := s1.setCmd slot (some { c with tiles := tiles, outQ := outQ ++ reqs, acc := acc })
    let s3 := hit.foldl (fun s t => s.bump (cntCore (core t.stage t.idx) 6) (lost t)) s2
    keys.foldl (fun s k => s.bump (cntCore (core k.1 k.2.2) 7) 1) s3

/-- A watched write to bytes [lo, hi) of the space of a location checks every armed window but the writer's own
(R274, R275, R277). -/
def State.watch (s : State) (writer : Option Nat) (l : Loc) (lo hi : Nat) : State :=
  s.cmdList.foldl (fun s e =>
    if writer = some e.1 then s
    else
      match s.cmd? e.1 with
      | some c => s.hitCmd e.1 c l lo hi
      | none => s) s

/-- A write of the masked bytes of a line checks the windows. -/
def State.watchBytes (s : State) (writer : Option Nat) (line : Loc) (bytes : List (Nat × Byte)) : State :=
  match bytes with
  | [] => s
  | _ =>
    let lo := bytes.foldl (fun a e => min a e.1) 511
    let hi := bytes.foldl (fun a e => max a (e.1 + 1)) 0
    s.watch writer line (line.addr + lo) (line.addr + hi)

/-- A write of the masked bytes of a line lands (R210): the bytes change, an error of the line is overwritten by a whole
new line, and the windows are checked. -/
def State.landLine (s : State) (writer : Option Nat) (line : Loc) (bytes : List (Nat × Byte)) : State :=
  let m := s.mem.writeMasked line bytes
  let m := if 512 ≤ bytes.length then m.setEcc line .clean else m
  match bytes with
  | [] => s
  | _ => ({ s with mem := m }).watchBytes writer line bytes

/-- A write of one of the device's own engines lands; one into host memory leaves on the ordered stream of its host function (R408). -/
def State.landOut (s : State) (writer : Option Nat) (line : Loc) (bytes : List (Nat × Byte)) : State :=
  let s1 := match line with
    | .host k a => s.hostPush k (.data a bytes)
    | _ => s
  s1.landLine writer line bytes

/-! ## Pages under migration (R247) -/

/-- Write a leaf entry (watched: R274). -/
def State.putEntry (s : State) (slotPa e : Nat) : State :=
  s.landLine none (Loc.hbm slotPa).line ((toLe 8 e).zipIdx.map (fun b => (slotPa % 512 + b.2, b.1)))

/-- The shunting engine writes bytes of its own at a device virtual address: in peer HBM by write wagons of the command, elsewhere at once
(watched, R274). -/
def State.shuntVa (s : State) (slot ctx va : Nat) (bytes : List Byte) : State :=
  (s.writeReqsVa slot ctx 0 40 va bytes).foldl (fun s r =>
    match r.line with
    | .peer _ _ => s.modCmd slot (fun c => { c with outQ := c.outQ ++ [r] })
    | _ => s.landOut none r.line r.bytes) s

/-- The outcome byte of a page of a MIGRATE (R248), with its counts; the next page is taken up. -/
def State.migOutcome (s : State) (slot page : Nat) (out : Nat) : State :=
  match s.cmd? slot with
  | none => s
  | some c =>
    let va := u64At c.pb 0x20 + page
    let s1 := s.shuntVa slot c.ctx va [BitVec.ofNat 8 out]
    let o : Option (Oc × Nat) := match out with
      | 0 => some (.migMoved, 0)
      | 1 => some (.migPinned, 1)
      | 3 => some (.migLost, 2)
      | _ => none
    let s2 := match o with
      | some x => (s1.count slot x.1 1).bump (cntShunt x.2) 1
      | none => s1
    s2.modCmd slot (fun c => { c with mig := page + 1 })

/-- Step 4 of R247 for the pages under migration, one after another: the compare-and-swap of each entry; the state, and the pages with their
outcomes. -/
def State.swapMigs : List MigHold → State → State × List (MigHold × Nat)
  | [], s => (s, [])
  | h :: t, s =>
    let won := s.mem.hbmWord h.slotPa 8 = h.expect
    let r := State.swapMigs t (if won then s.putEntry h.slotPa h.fresh else s)
    (r.1, (h, if won then 0 else 3) :: r.2)

/-- Every page under migration is finished, and its outcome written. A write that translates such a page stalls until then (R247), so a step
that writes begins with this. -/
def State.settleMigs (s : State) : State :=
  match s.xlt.mig with
  | [] => s
  | hs =>
    let r := State.swapMigs hs { s with xlt := { s.xlt with mig := [] } }
    r.2.foldl (fun s x => s.migOutcome x.1.slot x.1.page x.2) r.1

/-- A direct write of one of the device's engines at a device virtual address, line by line, watched (R274). -/
def State.landVa (s : State) (writer : Option Nat) (ctx va : Nat) (bytes : List Byte) : State :=
  let s := s.settleMigs
  (s.writeReqsVa 0 ctx 0 0 va bytes).foldl (fun s r => s.landOut writer r.line r.bytes) s

/-- A write of the table unit that the watch windows do not see (R274): the frame numbers of a MAP. -/
def State.putVa (s : State) (ctx va : Nat) (bytes : List Byte) : State :=
  let s := s.settleMigs
  (s.writeReqsVa 0 ctx 0 0 va bytes).foldl (fun s r =>
    let s1 := match r.line with
      | .host k a => s.hostPush k (.data a r.bytes)
      | _ => s
    { s1 with mem := s1.mem.writeMasked r.line r.bytes }) s

/-! ## Cancelling (R278) -/

/-- Cancel the streams of a command: nothing further is issued, read data in flight is discarded, fetched tiles are
dropped, and every discarded wagon is counted, those of consumed tiles not, with the core whose stream engine issued it (R469). The outcome bytes of a MIGRATE still leave
(R248). -/
def State.cancel (s : State) (slot : Nat) : State :=
  match s.cmd? slot with
  | none => s
  | some c =>
    let mine (w : Wagon) : Bool := w.req.slot == slot && w.req.kind == .read && !w.discard
    let inAir := s.cmds.wagons.filter (fun w => mine w && !w.arrived)
    let flying := inAir.length
    let held (t : Tile) : Nat := if t.use = .past then 0 else (t.lines.filter (fun e => e.2.isSome)).length
    let got := c.tiles.foldl (fun a t => a + held t) 0
    let load := match c.dual with
      | some d => if d.phase = .load then d.got.length else 0
      | none => 0
    let dp := match c.dual with
      | some d => if d.phase = .load then flying + load else 0
      | none => 0
    let n := flying + got + load
    let s1 := { s with cmds := { s.cmds with wagons := s.cmds.wagons.map (fun (w : Wagon) =>
      if mine w then { w with discard := true } else w) } }
    let acc := { c.acc with strWaste := c.acc.strWaste + 512 * n, dpWaste := c.acc.dpWaste + dp }
    let dual := c.dual.map (fun d => { d with got := [] })
    let s2 := s1.setCmd slot (some { c with
      tiles := [], eaten := 0, bursts := [], outQ := if c.op = 8 then c.outQ.filter (fun r => r.kind != .read) else [], paged := [], acc := acc, dual := dual })
    let s3 := c.tiles.foldl (fun (s : State) t =>
      match (nth Stage.none c.stages t.stage).cores[tileCore t.idx]? with
      | some k => s.bump (cntCore k 6) (held t)
      | none => s) (s2.bump (cntDev 13) dp)
    (inAir.filterMap (fun w => s.wagonCore w.req)).foldl (fun s k => s.bump (cntCore k 6) 1) s3

/-! ## Leases (R390, R391) -/

/-- The HBM address of the word at a device virtual address, if it lies in HBM. -/
def State.hbmWordAt (s : State) (ctx va : Nat) : Option Nat :=
  match s.acc ctx va false with
  | .plain (.hbm pa) => some pa
  | _ => none

/-- The entry of the lease table for a word. -/
def State.leaseKey (s : State) (pa : Nat) : Option Nat :=
  (s.yard.leases.find? (fun e =>
    match e.2 with
    | some l => l.paddr == pa
    | none => false)).map (·.1)

def State.setLease (s : State) (k : Nat) (l : Option Lease) : State :=
  { s with yard := { s.yard with leases := Tab.set none s.yard.leases k l } }

/-- The generation word of a GATHER with LEASE or RELEASE, or of an UPDATE (R390). -/
def Cmd.leaseVa (c : Cmd) : Option Nat :=
  if c.op = 0x0C then (if u64At c.pb 0x88 = 0 then none else some (u64At c.pb 0x88))
  else if c.op = 0x0A ∧ (bitAt (u32At c.pb 0x08) 10 ∨ bitAt (u32At c.pb 0x08) 11) then some (u64At c.pb 0x40)
  else none

/-- Free the entries that nothing names (R390). -/
def State.sweepLeases (s : State) : State :=
  let named := s.allCmds.filterMap (fun c => (c.leaseVa).bind (fun va => s.hbmWordAt c.ctx va))
  let ls := s.yard.leases.filter (fun e =>
    match e.2 with
    | some l => l.leases != 0 || l.upd || named.contains l.paddr
    | none => false)
  { s with yard := { s.yard with leases := ls } }

/-- What a command does to its lease entry at its retire point (R390, R391). -/
def State.leaseRetire (s : State) (c : Cmd) (st : Byte) : State :=
  match (c.leaseVa).bind (fun va => s.hbmWordAt c.ctx va) with
  | none => s
  | some pa =>
    match s.leaseKey pa with
    | none => s
    | some k =>
      match Tab.get none s.yard.leases k with
      | none => s
      | some l =>
        let g := u32At c.pb 0x08
        if c.op = 0x0C then s.setLease k (some { l with upd := if c.leased then false else l.upd })
        else if bitAt g 11 then s.setLease k (some { l with leases := l.leases - 1 })
        else if c.leased ∧ isError st then s.setLease k (some { l with leases := l.leases - 1 })
        else s

/-! ## The completion queue (R312) -/

/-- Room in the completion queue. -/
def Cq.room (q : Cq) : Bool := decide ((q.tail - q.head).toNat < 2 ^ q.log2n)

/-- PHASE of the next record (R310). -/
def Cq.phase (q : Cq) : Bool := !bitAt q.tail.toNat q.log2n

/-- A write of a completion record that meets a fault is logged once with XLATE_FAULT (R312). -/
def State.logCqFault (s : State) (ctx : Nat) (q : Cq) (va : Nat) (rest : List CqRec) (r : CqRec) : State :=
  if r.logged then s
  else
    let s1 := s.modCtx ctx (fun x => { x with cq := { q with waiting := { r with logged := true } :: rest } })
    s1.logErr { status := stXlate, unit := uSeq, ctx := ctx, host := s.ctxHostCode ctx, addr := va }

/-- Write waiting records, oldest first, until none is left, the queue is full, or a write faults. -/
def State.cqFlush (ctx : Nat) : Nat → State → State
  | 0, s => s
  | fuel + 1, s =>
    let s := s.settleMigs
    let q := (s.ctx ctx).cq
    match q.waiting with
    | [] => s
    | r :: rest =>
      if !q.room then s
      else
        let va := q.addr * 4096 + 64 * (q.tail.toNat % 2 ^ q.log2n)
        if (s.rangeFault ctx va 64 true).isSome then s.logCqFault ctx q va rest r
        else
          let w := BitVec.ofNat 32 (u32At r.bytes 0 + flagAt q.phase 31)
          let bytes := toLe 4 w.toNat ++ r.bytes.drop 4
          let s1 := s.modCtx ctx (fun x => { x with cq := { q with tail := q.tail + 1, waiting := rest } })
          let s2 := s1.wrBytes ctx va bytes
          let x := s2.ctx ctx
          let s3 := match s.hostOfCtx ctx with
            | none => s2
            | some k =>
              let s2 := match s.acc ctx va true with
                | .plain (.host p a) => s2.hostPush p (.record a)
                | _ => s2
              if r.irq ∧ x.irqEn then s2.msix k x.irqVec else s2
          State.cqFlush ctx fuel s3

/-- A completion record enters the queue of its context: written, kept waiting, or discarded where the context keeps no
queue or is being reset (R312, R321). -/
def State.cqPush (s : State) (ctx : Nat) (bytes : List Byte) (irq : Bool) : State :=
  let x := s.ctx ctx
  if x.cq.log2n = 0 ∨ x.state = .resetting then s
  else
    let empty := x.cq.waiting.isEmpty
    let s1 := s.modCtx ctx (fun x => { x with cq := { x.cq with waiting := x.cq.waiting ++ [⟨bytes, irq, false⟩] } })
    if empty then State.cqFlush ctx 1 s1 else s1

/-! ## The retire point (R306) -/

/-- Write the words of R498; `false` when one faults: that word is left unchanged and the fault is logged. -/
def State.retireWords (slot : Nat) (ctx : Nat) : List RetireWord → State → State × Bool
  | [], s => (s, true)
  | w :: t, s =>
    let n := if w.incr then 4 else w.bytes.length
    match s.rangeFault ctx w.va n true with
    | some a =>
      let r := State.retireWords slot ctx t (s.logCmd slot { status := stXlate, unit := uSeq, addr := a })
      (r.1, false)
    | none =>
      let bytes := if w.incr then toLe 4 (leNat (s.rdBytes ctx w.va 4) + 1) else w.bytes
      State.retireWords slot ctx t (s.landVa (some slot) ctx w.va bytes)

/-- What the retire of a loop body command does to its loop (R314, R315). -/
def LoopSt.retired (l : LoopSt) (iter idx : Nat) (st detail : Byte) : LoopSt :=
  let w := joinStatus l.worst st
  { l with live := l.live.filter (fun p => p != (iter, idx)), worst := w
           worstDetail := if w = l.worst then l.worstDetail else if w = stTimeout then detail else 0
           stopped := l.stopped || (isError st && l.stopErr) }

/-- Every body command of an iteration has retired. -/
def LoopSt.iterDone (l : LoopSt) (iter : Nat) : Bool :=
  !l.live.any (fun p => p.1 == iter) && (decide (iter < l.iter) || (iter == l.iter && l.pos == l.nbody))

def State.loopRetire (s : State) (c : Cmd) (st detail : Byte) : State :=
  match c.body with
  | none => s
  | some (idx, slot, iter) =>
    match s.cmd? slot with
    | some lc =>
      match lc.loop with
      | some l =>
        let l1 := l.retired iter idx st detail
        let s1 := s.setCmd slot (some { lc with loop := some l1, stallBy := s.stallDue })
        let s2 := s1.count slot .bodyErr (b2n (isError st))
        s2.count slot .iterDone (b2n (l1.iterDone iter && !l.iterDone iter))
      | none => s
    | none => s

/-- CORE_CYC of a retired command (R302; log 45): cores times core-clock cycles since its start at 1.1 GHz. -/
def State.coreCycles (s : State) (c : Cmd) : Nat :=
  if c.started then c.coreCyc + c.cores.length * ((s.time.cmdClk - c.startAt).toNat * 11 / 10) else c.coreCyc

/-- Counters and trace of a retire (R469, R473). -/
def State.retireCounts (s : State) (c : Cmd) (st detail : Byte) (phase : Nat) : State :=
  let cyc := s.coreCycles c
  let s1 := (s.bump (cntDev 16) 1).bump (cntCtx c.ctx 0) 1
  let s2 := if isError st then (s1.bump (cntDev 17) 1).bump (cntCtx c.ctx 1) 1 else s1
  let s3 := (s2.bump (cntCtx c.ctx 2) cyc).bump (cntCtx c.ctx 5) (b2n (st == stAltPath))
  let s4 := s3.bump (cntDev 12) (b2n (c.dlMiss s.time.now))
  let s5 := match c.dual with
    | some d => if d.decided ∨ d.mainIn then s4.bump (cntDev (9 + d.path)) 1 else s4
    | none => s4
  let s6 := if c.started then c.cores.foldl (fun s k => s.bump (cntCore k 14) 1) s5 else s5
  s6.traceCmd c 0x03 (c.statw st detail s.time.now + phase) cyc

/-- PHASE of the record that enters the completion queue of a context next, at bit 31 of STATW (R310, R312): zero when none is kept. -/
def State.nextPhase (s : State) (ctx : Nat) : Nat :=
  let x := s.ctx ctx
  if x.cq.log2n = 0 ∨ x.state = .resetting then 0 else flagAt (!bitAt (x.cq.tail.toNat + x.cq.waiting.length) x.cq.log2n) 31

/-- The context after a retire: its virtual time (R302) and its watchdog period (R317). -/
def State.retireCtx (s : State) (c : Cmd) : State :=
  let cyc := s.coreCycles c
  s.modCtx c.ctx (fun x => { x with
    vtime := x.vtime + cyc * 65536 / max 1 x.weight
    wdogFrom := if (s.admitted c.ctx).isEmpty then none else some s.time.cmdClk })

/-- The first entry of a log that is not in an earlier one, or whose REPEAT has risen (R309). -/
def firstNew (old new : List ErrEnt) : Option Word :=
  if old = new then none
  else (new.find? (fun e => !old.any (fun x => x.seq == e.seq && x.rep == e.rep))).map (·.seq)

/-- A command that ends with a status 0x03–0x0D that no entry of its own shows gets an entry by the sequencer (R10; log 48):
the state, and the command's first entry. -/
def State.logEnd (s : State) (c : Cmd) (first : Option Word) (st detail : Byte) : State × Option Word :=
  let shown := match first with
    | some q => s.log.entries.any (fun e => e.seq == q && e.status == st)
    | none => false
  if 3 ≤ st.toNat ∧ st.toNat ≤ 0x0D ∧ !shown then
    let r := s.logSeq (c.ofCmd { status := st, unit := uSeq, detail := detail.toNat } (s.ctxHostCode c.ctx))
    (r.1, some (first.getD r.2))
  else (s, first)

/-- The retire point of a command (R306): tokens of an unstarted command return, its words and posts are made when its
status allows, its entries leave, what it holds is released, and its completion record is written. -/
def State.retireCore (s : State) (slot : Nat) (c : Cmd) : State × Byte :=
  let st0 := c.st
  let admitted := (s.cmd? slot).isSome
  let s0 := if c.started ∨ !admitted then s else s.returnTokens c
  let w := if isError st0 then (s0, true) else State.retireWords slot c.ctx c.atRetire s0
  let c := (w.1.cmd? slot).getD c
  let st1 := if isError st0 then st0 else if w.2 then st0 else stXlate
  let detail := c.detail
  let poster : Poster := ⟨c.home, c.ctx, c.queue, c.seq⟩
  let p := if isError st1 then (w.1, true) else w.1.postAll poster c.posts
  let st := if p.2 then st1 else stSigUnderflow
  let s1 := if c.joined ∧ admitted then p.1.leaveEntries slot c else p.1
  let s2 := if admitted then s1.leaseRetire c st else s1
  let first := (c.errSeq.orElse fun _ => firstNew s.log.entries s2.log.entries)
  let lg := ((s2.setCmd slot none).orphan slot).logEnd c first st detail
  let s3 := lg.1
  let c := { c with errSeq := lg.2 }
  let quiet := c.parent.isSome || (match c.body with
    | some (_, ls, _) => st == stOk && !(((s3.cmd? ls).bind (·.loop)).map (·.allCmpl)).getD false
    | none => false)
  let s4 := (s3.retireCounts c st detail (if quiet then 0 else s3.nextPhase c.ctx)).retireCtx c
  let s5 := if quiet then s4 else s4.cqPush c.ctx (c.record st detail s.time.now) c.crec.irq
  ((s5.loopRetire c st detail).sweepLeases, st)

/-- A dual-path command lists its outputs as indeterminate (R252, R253). -/
def Cmd.listOuts (c : Cmd) : Cmd :=
  if c.chained then { c with indAll := true } else { c with indMask := c.indMask ||| (c.dual.map (·.outs)).getD 0 }

/-- The end of a recompute command (R204, R252): its counters are added to those of its dual-path command, which ends with
it on an error, and whose stage is complete after the last. -/
def State.progRetire (s : State) (slot : Nat) (c : Cmd) (st : Byte) : State :=
  match c.parent with
  | none => s
  | some key =>
    match s.cmd? key with
    | none => s
    | some p =>
      match p.dual with
      | none => s
      | some d =>
        let busy := d.progBusy.filter (fun x => x != slot)
        let acc := p.acc.add c.acc
        if isError st then
          let p1 := { (p.mark st c.detail).listOuts with acc := acc, indStage := true, dual := some { d with progBusy := busy } }
          if busy.isEmpty then ((s.setCmd key (some p1)).retireCore key p1).1 else s.setCmd key (some p1)
        else if isError p.st ∧ busy.isEmpty then
          let p1 := { p with acc := acc, dual := some { d with progBusy := busy } }
          ((s.setCmd key (some p1)).retireCore key p1).1
        else
          let fin := busy.isEmpty && d.progPos == d.nprog
          let d1 := { d with progBusy := busy, phase := if fin then .main else d.phase
                             stageDone := if fin then some s.time.now else d.stageDone
                             dlMiss := d.dlMiss || (fin && decide (p.crec.tDead.toNat < s.time.now.toNat))
                             since := if fin then none else d.since }
          s.setCmd key (some { p with acc := acc, dual := some d1 })

/-- Retire the command of a slot. -/
def State.retire (s : State) (slot : Nat) (c : Cmd) : State :=
  let r := s.retireCore slot c
  r.1.progRetire slot c r.2

/-! ## Ending a command early -/

/-- The tag and the CTRL packet of a cancel (R349). -/
def State.cancelPacket (s : State) (dst : Nat) (tag : Nat) : Packet :=
  { s.mkPacket dst 8 0 0 [] with arg := 1, arg2 := BitVec.ofNat 64 tag }

/-- The stream tag of a Yard command (R375). -/
def Cmd.stream (c : Cmd) : Nat := u16At c.pb 0x10 * 65536 + u16At c.pb 0x0C

/-- The attention stages of a command on the ring (R129), with their numbers. -/
def Cmd.ringStages (c : Cmd) : List (Stage × Nat) :=
  c.stages.zipIdx.filter (fun e => (e.1.op == 3 || e.1.op == 4) && bitAt (u32At e.1.pb 0x0C) 3)

/-- An attention command on the ring. -/
def Cmd.ringEn (c : Cmd) : Bool := !c.ringStages.isEmpty

/-- The stage that goes round its ring now: the first that has not. -/
def Cmd.ringStage (c : Cmd) : Option (Stage × Nat) := c.ringStages.find? (fun e => !c.rung.any (fun r => r.1 == e.2))

/-- The neighbour of this device on a port. -/
def State.neighbour (s : State) (port : Nat) : Nat :=
  let n := s.cfg.node
  let a := port / 2
  n.member a ((n.own a + (if port % 2 = 0 then 1 else n.size a - 1)) % n.size a)

/-- Send packets; those that cannot leave are dropped. -/
def State.sendEach (s : State) (slot : Nat) (ps : List Packet) : State :=
  ps.foldl (fun s p => (s.sendPacket p none (some slot) none).1) s

/-- Send a packet to the neighbour on a port, out of that port (R138, R356); one that cannot leave is dropped. -/
def State.sendOut (s : State) (slot port : Nat) (p : Packet) : State := (s.sendOn (s.routeVia port p.dst.toNat) p none (some slot) none).1

/-- The ring cancel that leaves an S port (R138). -/
def State.cancelOut (s : State) (slot port tag : Nat) : State := s.sendOut slot port (s.cancelPacket (s.neighbour port) tag)

/-- The cancel frames of a command that ends early (R140, R395). -/
def State.sendCancels (s : State) (slot : Nat) (c : Cmd) : State :=
  match c.yard with
  | some y =>
    let dests := (y.opened ++ y.grants.map (·.1)).eraseDups
    s.sendEach slot (dests.map (fun m => s.cancelPacket (s.cfg.node.member y.axis m) c.stream))
  | none =>
    c.ringStages.foldl (fun s e => (s.cancelOut slot 6 (u32At e.1.pb 0x2C)).cancelOut slot 7 (u32At e.1.pb 0x2C)) s

/-- The outputs that a started command lists when it ends early, whatever it has issued (R222, R395). -/
def Cmd.earlyMask (c : Cmd) (st : Byte) : Word :=
  if !c.started then 0
  else if c.op = 0x0C ∧ st = stAborted then
    let has (f : Nat) : Nat := flagAt (u64At c.pb (8 * f) != 0) f
    BitVec.ofNat 32 (has 8 + has 10 + has 11 + has 12 + has 14 + flagAt (bitAt (u32At c.pb 0x08) 4) 9)
  else if c.op = 9 then 0x40 ||| (if field (u32At c.pb 0x08) 4 3 = 0 then 0 else 0x80)
  else if c.op = 10 ∨ c.op = 11 then 0x40
  else 0

/-- A MIGRATE that ends early lets the page in progress finish; the pages after it receive 7 (R248). -/
def State.endMigrate (s : State) (slot : Nat) : State :=
  match s.cmd? slot with
  | none => s
  | some c =>
    if c.op = 8 ∧ c.phase = .started then
      let s1 := s.settleMigs
      match s1.cmd? slot with
      | some c1 => (upFrom c1.mig (u32At c1.pb 0 - c1.mig)).foldl (fun s k => s.migOutcome slot k 7) s1
      | none => s1
    else s

/-- A GATHER that ends while it waits on UPD, and a PERMUTE that ends before its drain is over, have waited until now (R396). -/
def State.countWaits (s : State) (slot : Nat) (c : Cmd) : State :=
  let us (t : Dword) : Nat := (s.time.cmdClk - t).toNat / 1000
  if c.started then s
  else if c.op = 0x0A then s.count slot .ydWaitUs ((c.leaseAt.map us).getD 0)
  else if c.op = 0x0B ∧ c.yard.isSome then s.count slot .ydDrainUs (us c.admitAt)
  else s

/-- End a command with an error status, without cancel frames: a started one cancels its streams and waits for its
wagons; one that has not started reaches its retire point at once, unless load wagons are in flight or a hang dump freezes the
device (R250, R306, R480). -/
def State.endQuiet (s : State) (slot : Nat) (st detail : Byte) (stage : Nat) : State :=
  let s := s.endMigrate slot
  match s.cmd? slot with
  | none => s
  | some c0 =>
    if c0.ended then s
    else
      let s := s.countWaits slot c0
      let c := (s.cmd? slot).getD c0
      let c1 := { (c.mark st detail) with failStage := stage, indStage := c.indStage || c.beforeMain, indLine := false
                                          indMask := c.indMask ||| c.earlyMask st }
      let s1 := (s.setCmd slot (some c1)).cancel slot
      match s1.cmd? slot with
      | none => s1
      | some c2 =>
        if c2.started then s1.setCmd slot (some { c2 with phase := .worked })
        else if s1.trc.dump.busy ∨ (c2.beforeMain ∧ s1.unacked slot ≠ []) then s1
        else s1.retire slot c2

/-- End a command with an error status. -/
def State.endCmd (s : State) (slot : Nat) (st detail : Byte) (stage : Nat) : State :=
  match s.cmd? slot with
  | none => s
  | some c => if c.ended then s else (s.sendCancels slot c).endQuiet slot st detail stage

/-- End a command and log the cause. -/
def State.failCmd (s : State) (slot : Nat) (st detail : Byte) (stage : Nat) (a : LogArg) : State :=
  match s.cmd? slot with
  | none => s
  | some c => if c.ended then s else (s.logCmd slot { a with status := st, detail := detail.toNat }).endCmd slot st detail stage

/-- How far a unit is from its turn at a pool (R263). -/
def State.turnOf (s : State) (p : Pool) (r : WagonReq) : Nat := (s.unitOf r + 511 - Tab.get 0 s.cmds.turns p.code) % 512

/-- Put a request behind those that leave before it: the k-th of every unit before the next, and among them by turn. -/
def insertTurn (x : (Nat × Nat) × WagonReq) : List ((Nat × Nat) × WagonReq) → List ((Nat × Nat) × WagonReq)
  | [] => [x]
  | y :: t =>
    if x.1.1 < y.1.1 ∨ (x.1.1 = y.1.1 ∧ x.1.2 < y.1.2) then x :: y :: t else y :: insertTurn x t

/-- The requests of a command in the order in which its units take their turns at the pools (R263); each unit keeps the order of its own. -/
def State.inTurn (s : State) (l : List WagonReq) : List WagonReq :=
  let unit := l.map s.unitOf
  let rank (i : Nat) : Nat := ((unit.take i).filter (fun u => u == nth 0 unit i)).length
  ((l.zipIdx.map (fun e => ((rank e.2, s.turnOf (s.poolOf e.1.line) e.1), e.1))).foldl (fun a x => insertTurn x a) []).map (·.2)

/-- Issue what may leave of a command's requests. -/
def State.pumpCmd (s : State) (slot : Nat) : State :=
  if s.trc.dump.busy then s
  else
    match s.cmd? slot with
    | none => s
    | some c =>
      if c.outQ = [] then s
      else
        let r := State.issueAll slot (s.inTurn c.outQ) (s.setCmd slot (some { c with outQ := [] }))
        let s1 := r.1.modCmd slot (fun c => { c with outQ := r.2.1 ++ c.outQ })
        if r.2.2 then s1.failCmd slot stLinkDown 0 0 { status := stLinkDown, unit := uPort } else s1

/-- The requests that wait, with the slots of their commands. -/
def State.waiting (s : State) : List (Nat × Cmd × WagonReq) := s.cmdList.flatMap (fun e => e.2.outQ.map (fun r => (e.1, e.2, r)))

/-- Grant one tag: of the requests that may leave, the first names the pool, and the unit whose turn it is has the tag. -/
def State.grantOne (s : State) : Option State :=
  let able := s.waiting.filter (fun x => s.canIssue x.2.1.ctx x.2.2)
  match able with
  | [] => none
  | x :: _ =>
    let p := s.poolOf x.2.2.line
    let mates := able.filter (fun y => s.poolOf y.2.2.line == p)
    let best := mates.foldl (fun b y => if s.turnOf p y.2.2 < s.turnOf p b.2.2 then y else b) x
    let s1 := s.modCmd best.1 (fun c => { c with outQ := c.outQ.erase best.2.2 })
    let r := State.issueAll best.1 [best.2.2] s1
    some (if r.2.2 then r.1.failCmd best.1 stLinkDown 0 0 { status := stLinkDown, unit := uPort } else r.1)

def State.grantAll : Nat → State → State
  | 0, s => s
  | fuel + 1, s =>
    match s.grantOne with
    | some s1 => State.grantAll fuel s1
    | none => s

/-- Issue what may leave of every command's requests: each pool in turn among the units that wait on it (R263). -/
def State.pumpCmds (s : State) : State := if s.trc.dump.busy then s else State.grantAll s.waiting.length s

/-! ## The freeze of a hang dump (R480) -/

/-- A command that the freeze holds back until RESUME. -/
def State.holdBack (s : State) (i : Instr) : State :=
  { s with trc := { s.trc with dump := { s.trc.dump with held := s.trc.dump.held ++ [i] } } }

/-- An operation that ends commands, changes signals or a book, or brings a new packet, waits for the end of a dump's freeze (R480). -/
def heldByDump (i : Instr) (f : State → State) (s : State) : State := if s.trc.dump.busy then s.holdBack i else f s

end Sys2Proof.Machine
end

