-- ==== Sys2Proof/Machine/Tables.lean ====
section
/-!
DEFINITION. The table unit (06_kv_pages.md): slots, banks and latches (R149–R154), the operations of R155, R156 and
R164, the bind record and the frames of a KV set (R157, R158), reference counts (R163), and the meanings of the table
operations' rows.
-/
namespace Sys2Proof.Machine

/-! ## Slots and latches -/

/-- Slots of a kind (R149). -/
def tblSlots (kind : Nat) : Nat :=
  match kind with
  | 1 => 4096
  | 2 => 4096
  | 3 => 256
  | 4 => 8
  | _ => 0

/-- The generations of a slot that unretired commands have latched, one list for each command. -/
def State.latchedGens (s : State) (kind slot : Nat) : List (List Word) :=
  (s.allCmds.map (fun c => (c.latches.filter (fun l => l.1 == kind && l.2.1 == slot)).map (·.2.2))).filter (fun l => !l.isEmpty)

/-- Commands that hold the shadow bank (R153). -/
def State.holders (s : State) (kind slot : Nat) : Nat :=
  let a := (s.tblSlot kind slot).active
  ((s.latchedGens kind slot).filter (fun l => l.any (fun g => g.toNat % 2 != a))).length

/-- The page entries of a sequence in a bank of a KV set. -/
def TblSlot.dir (t : TblSlot) (b : Nat) : Tab (List Word) := if b % 2 = 0 then t.dir0 else t.dir1

def TblSlot.setDir (t : TblSlot) (b : Nat) (d : Tab (List Word)) : TblSlot :=
  if b % 2 = 0 then { t with dir0 := d } else { t with dir1 := d }

def TblSlot.setBank (t : TblSlot) (b : Nat) (l : List Byte) : TblSlot :=
  if b % 2 = 0 then { t with bank0 := l } else { t with bank1 := l }

def TblSlot.shadow (t : TblSlot) : Nat := (t.active + 1) % 2

/-- The entries of a sequence. -/
def TblSlot.pages (t : TblSlot) (b seq : Nat) : List Word := Tab.get [] (t.dir b) seq

def TblSlot.setPages (t : TblSlot) (b seq : Nat) (l : List Word) : TblSlot := t.setDir b (Tab.set [] (t.dir b) seq l)

/-- The hole value of a page entry (R161). -/
def hole : Word := 0xFFFFFFFF

/-- CNT[b][f] (R163): the entries of bank b that name frame f. -/
def TblSlot.cnt (t : TblSlot) (b : Nat) (f : Word) : Nat := (t.dir b).foldl (fun a e => a + e.2.count f) 0

/-- Page entries in use in a bank. -/
def TblSlot.entries (t : TblSlot) (b : Nat) : Nat := (t.dir b).foldl (fun a e => a + e.2.length) 0

/-- The lowest-numbered frame at or above f with both counts zero (R163). -/
def TblSlot.freeFrom (t : TblSlot) : Nat → Nat → Option Word
  | 0, _ => none
  | fuel + 1, f =>
    let w := BitVec.ofNat 32 f
    if t.cnt 0 w = 0 ∧ t.cnt 1 w = 0 then some w else t.freeFrom fuel (f + 1)

def TblSlot.frames (t : TblSlot) : Nat := (t.kv.map (·.frames)).getD 0

def TblSlot.freeFrame (t : TblSlot) : Option Word := t.freeFrom t.frames 0

/-! ## The bind record and frames (R157, R158) -/

def parseBind (b : List Byte) : BindRec where
  kBase := u64At b 0x00
  vBase := u64At b 0x08
  layerStride := u64At b 0x10
  frames := u32At b 0x18
  frameBytes := u32At b 0x1C
  nseqMax := u32At b 0x20
  pagesMax := u32At b 0x24
  layers := u16At b 0x28
  hkv := u16At b 0x2A
  d := u16At b 0x2C
  segp := bitAt (u16At b 0x2E) 0
  fmtK := BitVec.ofNat 32 (u32At b 0x30)
  fmtV := BitVec.ofNat 32 (u32At b 0x34)

/-- P_Q of R127: the row bytes of D elements of an encoding, rounded up to 64. -/
def rowBytes (w : Word) (d : Nat) : Nat := roundUp (fmtBytes w d) 64

/-- D rounded up to 32 (R117) and to 64 (R127). -/
def dl (d : Nat) : Nat := roundUp d 32
def d64 (d : Nat) : Nat := roundUp d 64

/-- Bytes of the planes of a frame (R158). -/
def BindRec.elemPlane (r : BindRec) (w : Word) : Nat := 64 * r.hkv * rowBytes w r.d
def BindRec.kScalePlane (r : BindRec) : Nat := if fmtBlock r.fmtK then 64 * r.hkv * ceilDiv (dl r.d) (fmtBs r.fmtK) else 0
def BindRec.vScalePlane (r : BindRec) : Nat := if fmtBlock r.fmtV then 64 / fmtBs r.fmtV * r.hkv * d64 r.d else 0

/-- Frame offsets: scales after the elements, key segments last, each at a multiple of 64. -/
def BindRec.scaleOff (r : BindRec) (w : Word) : Nat := roundUp (r.elemPlane w) 64
def BindRec.segOff (r : BindRec) : Nat := roundUp (r.scaleOff r.fmtK + r.kScalePlane) 64

/-- The need of a frame: the larger of the K and V frame ends. -/
def BindRec.need (r : BindRec) : Nat :=
  let k := if r.segp then r.segOff + 256 else if fmtBlock r.fmtK then r.scaleOff r.fmtK + r.kScalePlane else r.elemPlane r.fmtK
  let v := if fmtBlock r.fmtV then r.scaleOff r.fmtV + r.vScalePlane else r.elemPlane r.fmtV
  max k v

/-- A format word of the record uses only CODE and BLK16, and R130 accepts it for K or V. -/
def kvFmtOk (w : Word) : Bool :=
  let c := fmtCode w
  w.toNat / 64 == 0 && (c == cBF16 || c == cE4M3 || c == cE5M2 || c == cBXE4 || c == cBXE5) && (!fmtBlk16 w || codeBlock c)

/-- K and V come from one family (R130). -/
def kvFamily (a b : Word) : Bool := (fmtCode a == cBF16) == (fmtCode b == cBF16)

/-- Whether R157 refuses the record. -/
def bindBad (b : List Byte) : Bool :=
  let r := parseBind b
  r.kBase % 4096 != 0 || r.vBase % 4096 != 0 || decide (2 ^ 52 ≤ r.kBase) || decide (2 ^ 52 ≤ r.vBase)
    || r.layerStride % 4096 != 0 || decide (r.layerStride < r.frames * r.frameBytes)
    || r.frames == 0 || decide (2 ^ 24 < r.frames) || r.frameBytes % 4096 != 0
    || r.nseqMax == 0 || decide (65536 < r.nseqMax) || r.pagesMax == 0 || decide (2 ^ 24 < r.pagesMax)
    || r.layers == 0 || decide (1024 < r.layers) || r.hkv == 0 || decide (256 < r.hkv) || r.d == 0 || decide (256 < r.d)
    || decide (2 ≤ u16At b 0x2E) || !zeroAt b 0x38 8
    || !kvFmtOk r.fmtK || !kvFmtOk r.fmtV || !kvFamily r.fmtK r.fmtV || decide (r.frameBytes < r.need)

/-- Table-store bytes of a slot (R156, R157, R500). -/
def TblSlot.storeBytes (kind : Nat) (t : TblSlot) : Nat :=
  match kind, t.kv with
  | 1, some r => roundUp (2 * (8 * r.nseqMax + 4 * r.pagesMax) + 4 * r.frames) 4096
  | 4, _ => 0
  | _, _ => roundUp (2 * t.bankBytes) 4096

/-- Table-store bytes that the slots of host function k take. -/
def State.storeUsed (s : State) (k : Nat) : Nat :=
  s.tbl.slots.foldl (fun a e =>
    if e.2.bound ∧ e.1 / 4096 ≠ 4 ∧ s.hostOfCtx e.2.ctx = some k then a + e.2.storeBytes (e.1 / 4096) else a) 0

/-- The address of a byte of a frame (R158): plane 0 = K, 1 = V. -/
def BindRec.frameVa (r : BindRec) (plane layer : Nat) (f : Word) (off : Nat) : Nat :=
  (if plane = 1 then r.vBase else r.kBase) + layer * r.layerStride + f.toNat * r.frameBytes + off

/-! ## Registers of the unit (R155) -/

def State.tblRegs (s : State) (mst : Master) : TblRegs := Tab.get TblRegs.zero s.tbl.regs mst.code

def State.setTblRegs (s : State) (mst : Master) (r : TblRegs) : State :=
  { s with tbl := { s.tbl with regs := Tab.set TblRegs.zero s.tbl.regs mst.code r } }

/-- The operation in progress of a master, with its outcome (log 8). -/
def State.tblBusy (s : State) (mst : Master) (st : Byte) (result : Nat) (info : Option Dword) : State :=
  s.setTblRegs mst { s.tblRegs mst with busy := true, pendStatus := st, pendResult := BitVec.ofNat 32 result, pendInfo := info }

/-- Whether a master may operate on a bound slot, or on a slot that is not bound (R154). -/
def State.mayTbl (s : State) (mst : Master) (kind : Nat) (t : TblSlot) : Bool :=
  if kind = 4 then mst == .m
  else
    match mst.host? with
    | some k => !t.bound || s.ctxOfHost k t.ctx
    | none => true

/-- The checks that every operation shares (R155, R156), and then the operation. `bound` says that the slot must be
bound; `ok` that the table lists the kind for the operation and no reserved field is set. -/
def State.tblOp (s : State) (mst : Master) (kind slot : Nat) (ok bound : Bool)
    (f : State → TblSlot → State) : State :=
  if (s.tblRegs mst).busy then s.logReg mst 0x804000
  else if !ok then s.tblBusy mst stFormat 0 none
  else if tblSlots kind ≤ slot then s.tblBusy mst stRange 0 none
  else
    let t := s.tblSlot kind slot
    if !s.mayTbl mst kind t then s.tblBusy mst stRange 0 none
    else if bound ∧ !t.bound then s.tblBusy mst stRange 0 none
    else f s t

/-- An operation that writes the shadow bank fails while the bank is held (R153). -/
def State.tblEdit (s : State) (mst : Master) (kind slot : Nat) (ok : Bool) (f : State → TblSlot → State) : State :=
  s.tblOp mst kind slot ok true (fun s t =>
    if s.holders kind slot ≠ 0 then s.tblBusy mst stResource 0 none else f s t)

def isKind (kind : Nat) : Bool := decide (1 ≤ kind) && decide (kind ≤ 4)

/-- The address range of an argument translates for R, and for W where it is written (R156). -/
def State.argOk (s : State) (ctx va n : Nat) (wr : Bool) : Bool :=
  (s.rangeFault ctx va n false).isNone && (!wr || (s.rangeFault ctx va n true).isNone)

/-! ## BIND, UNBIND, LOAD, SWAP, SYNC, QUERY, COUNT -/

/-- The new slot of a BIND of kinds 2–4, or the status that refuses its bank size (R149, R174, R358). -/
def bankSlot (kind ctx a0 : Nat) : Except Byte TblSlot :=
  let good := match kind with
    | 2 => a0 == 32
    | 3 => a0 % 256 == 0 && decide (256 ≤ a0) && decide (a0 ≤ 65536)
    | _ => a0 == 65536
  if good then .ok { TblSlot.unbound with bound := true, ctx := ctx, bankBytes := a0 } else .error stRange

/-- The new slot of a BIND of kind 1 (R157). -/
def State.kvSlot (s : State) (ctx a0 : Nat) : Except Byte TblSlot :=
  if 2 ^ 52 ≤ a0 then .error stRange
  else if !s.argOk ctx a0 64 false then .error stXlate
  else
    let b := s.rdBytes ctx a0 64
    if bindBad b then .error stFormat
    else .ok { TblSlot.unbound with bound := true, ctx := ctx, kv := some (parseBind b) }

/-- BIND (R154, R156, R157). -/
def tblBind (mst : Master) (kind slot ctx : Nat) (ok : Bool) (s : State) : State :=
  s.tblOp mst kind slot (ok && isKind kind && (kind != 4 || ctx == 0)) false (fun s t =>
    if t.bound then s.tblBusy mst stRange 0 none
    else if kind ≠ 4 ∧ !s.mayCtx mst ctx then s.tblBusy mst stRange 0 none
    else
      let a0 := (s.tblRegs mst).arg0.toNat
      match if kind = 1 then s.kvSlot ctx a0 else bankSlot kind ctx a0 with
      | .error st => s.tblBusy mst st 0 none
      | .ok t =>
        let fits := kind == 4 || (match s.hostOfCtx ctx with
          | some k => decide (s.storeUsed k + t.storeBytes kind ≤ (s.hostCfg k).tstoreMib * 2 ^ 20)
          | none => false)
        if !fits then s.tblBusy mst stResource 0 none
        else (s.setTbl kind slot t).tblBusy mst stOk 0 none)

/-- UNBIND (R156). -/
def tblUnbind (mst : Master) (kind slot : Nat) (ok : Bool) (s : State) : State :=
  s.tblOp mst kind slot (ok && isKind kind) true (fun s _ =>
    if !(s.latchedGens kind slot).isEmpty then s.tblBusy mst stResource 0 none
    else (s.setTbl kind slot TblSlot.unbound).tblBusy mst stOk 0 none)

/-- A reserved value in a routing table (R358). -/
def routeBad (l : List Byte) : Bool := l.any (fun b => decide (16 ≤ b.toNat) || (decide (9 ≤ b.toNat) && decide (b.toNat ≤ 14)))

/-- The source bytes of a LOAD, or the status that refuses it (R154, R156). -/
def State.loadSrc (s : State) (kind : Nat) (t : TblSlot) (a0 n : Nat) : Except Byte (List Byte) :=
  if t.bankBytes < n then .error stRange
  else if kind = 4 then
    if 2 ^ 39 < a0 + n then .error stRange
    else if (List.range n).any (fun i => !s.hbmExists (a0 + i)) then .error stXlate
    else .ok (s.mem.read (.hbm a0) n)
  else if 2 ^ 52 ≤ a0 then .error stRange
  else if !s.argOk t.ctx a0 n false then .error stXlate
  else .ok (s.rdBytes t.ctx a0 n)

/-- LOAD (R153, R156, R175, R358). -/
def tblLoad (mst : Master) (kind slot : Nat) (ok : Bool) (s : State) : State :=
  s.tblEdit mst kind slot (ok && isKind kind && kind != 1) (fun s t =>
    let r := s.tblRegs mst
    match s.loadSrc kind t r.arg0.toNat r.arg1.toNat with
    | .error st => s.tblBusy mst st 0 none
    | .ok b =>
      if (kind = 3 ∧ imageBad b) ∨ (kind = 4 ∧ routeBad b) then s.tblBusy mst stFormat 0 none
      else
        let sh := t.shadow
        let t1 := t.setBank sh (b ++ (t.bank sh).drop b.length)
        (s.setTbl kind slot t1).tblBusy mst stOk b.length none)

/-- SWAP (R150, R152). -/
def tblSwap (mst : Master) (kind slot : Nat) (ok : Bool) (s : State) : State :=
  s.tblOp mst kind slot (ok && isKind kind) true (fun s t =>
    (s.setTbl kind slot { t with gen := t.gen + 1 }).tblBusy mst stOk (t.gen + 1).toNat none)

/-- SYNC (R156). -/
def tblSync (mst : Master) (kind slot : Nat) (ok : Bool) (s : State) : State :=
  s.tblEdit mst kind slot (ok && isKind kind) (fun s t =>
    let a := t.active
    let t1 := (t.setBank t.shadow (t.bank a)).setDir t.shadow (t.dir a)
    (s.setTbl kind slot t1).tblBusy mst stOk (if kind = 1 then t.entries a else t.bankBytes) none)

/-- QUERY (R156) and MEM_TBL_INFO. -/
def tblQuery (mst : Master) (kind slot : Nat) (ok : Bool) (s : State) : State :=
  s.tblOp mst kind slot (ok && isKind kind) false (fun s t =>
    if !t.bound then s.tblBusy mst stOk 0 (some 0)
    else
      let info := t.gen.toNat + putAt t.active 32 + flagAt true 33 + putAt (if kind = 4 then 0 else t.ctx) 34
        + putAt (min 4096 (s.holders kind slot)) 46 + flagAt (kind == 4) 59
      s.tblBusy mst stOk t.gen.toNat (some (BitVec.ofNat 64 info)))

/-- COUNT (R156, R163). -/
def tblCount (mst : Master) (kind slot : Nat) (ok : Bool) (s : State) : State :=
  s.tblOp mst kind slot (ok && kind == 1) true (fun s t =>
    let f := (s.tblRegs mst).arg0.toNat
    if t.frames ≤ f then s.tblBusy mst stRange 0 none
    else s.tblBusy mst stOk (t.cnt 0 (BitVec.ofNat 32 f) + putAt (t.cnt 1 (BitVec.ofNat 32 f)) 16) none)

/-! ## MAP, FORK, TRIM, MOVE (R164) -/

/-- The entries of a sequence with page p set to w, pages between the old count and p become holes. -/
def setPage (l : List Word) (p : Nat) (w : Word) : List Word :=
  (l ++ List.replicate (p + 1 - l.length) hole).set p w

/-- One entry of MAP: the new slot and the frame written, or the status on which MAP stops. -/
def TblSlot.mapOne (t : TblSlot) (b pagesMax seq p : Nat) (w : Word) : Except Byte (TblSlot × Word) :=
  let l := t.pages b seq
  let old := l.getD p hole
  let released := t.setPages b seq (if p < l.length then l.set p hole else l)
  let grow := p + 1 - l.length
  if pagesMax < t.entries b + grow then .error stResource
  else if w = 0xFFFFFFFF then
    match released.freeFrame with
    | none => .error stResource
    | some f => .ok (t.setPages b seq (setPage l p f), f)
  else if w = 0xFFFFFFFE then .ok (t.setPages b seq (setPage l p hole), hole)
  else if t.frames ≤ w.toNat then .error stRange
  else if old ≠ w ∧ 0xFFFF ≤ t.cnt b w then .error stRange
  else .ok (t.setPages b seq (setPage l p w), w)

/-- The entries of MAP in order: the state, the slot, the entries done, the status. -/
def State.mapLoop (ctx b pagesMax seq p0 addr : Nat) : Nat → Nat → State → TblSlot → State × TblSlot × Nat × Byte
  | 0, k, s, t => (s, t, k, stOk)
  | fuel + 1, k, s, t =>
    let w := BitVec.ofNat 32 (leNat (s.rdBytes ctx (addr + 4 * k) 4))
    match t.mapOne b pagesMax seq (p0 + k) w with
    | .error st => (s, t, k, st)
    | .ok (t1, f) =>
      let s1 := if w = 0xFFFFFFFF then s.putVa ctx (addr + 4 * k) (toLe 4 f.toNat) else s
      State.mapLoop ctx b pagesMax seq p0 addr fuel (k + 1) s1 t1

/-- MAP. -/
def tblMap (mst : Master) (kind slot : Nat) (ok : Bool) (s : State) : State :=
  s.tblEdit mst kind slot (ok && kind == 1) (fun s t =>
    let r := s.tblRegs mst
    let seq := r.arg0.toNat % 2 ^ 32
    let p0 := r.arg0.toNat / 2 ^ 32
    let n := r.arg1.toNat
    let addr := r.arg2.toNat
    match t.kv with
    | none => s.tblBusy mst stRange 0 none
    | some kv =>
      let b := t.shadow
      if kv.nseqMax ≤ seq ∨ 2 ^ 52 ≤ addr then s.tblBusy mst stRange 0 none
      else if !s.argOk t.ctx addr (4 * n) true then s.tblBusy mst stXlate 0 none
      else if n = 0 then
        let l := t.pages b seq
        if kv.pagesMax < t.entries b + (p0 - l.length) then s.tblBusy mst stResource 0 none
        else (s.setTbl kind slot (t.setPages b seq (l ++ List.replicate (p0 - l.length) hole))).tblBusy mst stOk 0 none
      else
        let q := State.mapLoop t.ctx b kv.pagesMax seq p0 addr (min n (kv.pagesMax + 1)) 0 s t
        (q.1.setTbl kind slot q.2.1).tblBusy mst q.2.2.2 q.2.2.1 none)

/-- The entries that FORK copies in order, and the status on which it stops. -/
def TblSlot.forkLoop (b pagesMax dst : Nat) : List Word → TblSlot → Nat → TblSlot × Nat × Byte
  | [], t, k => (t, k, stOk)
  | f :: rest, t, k =>
    if pagesMax < t.entries b + 1 then (t, k, stResource)
    else if f ≠ hole ∧ 0xFFFF ≤ t.cnt b f then (t, k, stRange)
    else TblSlot.forkLoop b pagesMax dst rest (t.setPages b dst (t.pages b dst ++ [f])) (k + 1)

/-- FORK. -/
def tblFork (mst : Master) (kind slot : Nat) (ok : Bool) (s : State) : State :=
  s.tblEdit mst kind slot (ok && kind == 1) (fun s t =>
    let r := s.tblRegs mst
    let dst := r.arg0.toNat % 2 ^ 32
    let src := r.arg0.toNat / 2 ^ 32
    let n := r.arg1.toNat
    match t.kv with
    | none => s.tblBusy mst stRange 0 none
    | some kv =>
      let b := t.shadow
      if kv.nseqMax ≤ dst ∨ kv.nseqMax ≤ src ∨ !(t.pages b dst).isEmpty ∨ (t.pages b src).length < n then
        s.tblBusy mst stRange 0 none
      else
        let q := TblSlot.forkLoop b kv.pagesMax dst ((t.pages b src).take n) t 0
        (s.setTbl kind slot q.1).tblBusy mst q.2.2 q.2.1 none)

/-- TRIM. -/
def tblTrim (mst : Master) (kind slot : Nat) (ok : Bool) (s : State) : State :=
  s.tblEdit mst kind slot (ok && kind == 1) (fun s t =>
    let r := s.tblRegs mst
    let seq := r.arg0.toNat
    match t.kv with
    | none => s.tblBusy mst stRange 0 none
    | some kv =>
      let l := t.pages t.shadow seq
      if kv.nseqMax ≤ seq then s.tblBusy mst stRange 0 none
      else
        let n := min r.arg1.toNat l.length
        (s.setTbl kind slot (t.setPages t.shadow seq (l.take n))).tblBusy mst stOk (l.length - n) none)

/-- MOVE. -/
def tblMove (mst : Master) (kind slot : Nat) (ok : Bool) (s : State) : State :=
  s.tblEdit mst kind slot (ok && kind == 1) (fun s t =>
    let r := s.tblRegs mst
    let dst := r.arg0.toNat % 2 ^ 32
    let src := r.arg0.toNat / 2 ^ 32
    let b := t.shadow
    match t.kv with
    | none => s.tblBusy mst stRange 0 none
    | some kv =>
      if kv.nseqMax ≤ dst ∨ kv.nseqMax ≤ src ∨ !(t.pages b dst).isEmpty then s.tblBusy mst stRange 0 none
      else
        let l := t.pages b src
        (s.setTbl kind slot ((t.setPages b src []).setPages b dst l)).tblBusy mst stOk l.length none)

/-- The operation's outcome is shown (R155): BUSY falls, STATUS, RESULT and, for QUERY, MEM_TBL_INFO are set. -/
def tblComplete (mst : Master) (s : State) : State :=
  let r := s.tblRegs mst
  if r.busy && !s.trc.dump.busy then
    s.setTblRegs mst { r with busy := false, status := r.pendStatus, result := r.pendResult
                              pendStatus := 0, pendResult := 0, pendInfo := none, info := r.pendInfo.getD r.info }
  else s

/-- The word of MEM_TBL_OP that asks for an operation. -/
def tblWord (op kind slot ctx : Nat) : Dword := BitVec.ofNat 64 (op + putAt kind 4 + putAt slot 8 + putAt ctx 32)

/-- An operation that changes a table or its page counts stays in progress until a dump's freeze ends (R480). -/
def tblFreeze (mst : Master) (w : Dword) (f : State → State) (s : State) : State :=
  let r := s.tblRegs mst
  if s.trc.dump.busy && !r.busy then (s.holdBack (.registerWrite mst 0x804000 .w64 w)).setTblRegs mst { r with busy := true } else f s

/-- The operation that a word of MEM_TBL_OP asks for (R155, R156). -/
def tblRun (mst : Master) (v : Dword) (s : State) : State :=
  let x := v.toNat
  let kind := field x 7 4
  let slot := field x 19 8
  let ctx := field x 43 32
  let op := field x 3 0
  let ok := field x 31 20 == 0 && field x 63 44 == 0 && (op == 1 || ctx == 0)
  match op with
  | 0x1 => tblBind mst kind slot ctx ok s
  | 0x2 => tblUnbind mst kind slot ok s
  | 0x3 => tblLoad mst kind slot ok s
  | 0x4 => tblSwap mst kind slot ok s
  | 0x5 => tblSync mst kind slot ok s
  | 0x6 => tblMap mst kind slot ok s
  | 0x7 => tblFork mst kind slot ok s
  | 0x8 => tblTrim mst kind slot ok s
  | 0x9 => tblMove mst kind slot ok s
  | 0xA => tblQuery mst kind slot ok s
  | 0xB => tblCount mst kind slot ok s
  | _ => s.tblOp mst kind slot false false (fun s _ => s)

/-- A write of MEM_TBL_OP: QUERY, COUNT and what is no operation change nothing that a freeze holds. -/
def tblWrite (mst : Master) (v : Dword) (s : State) : State :=
  let op := field v.toNat 3 0
  if 1 ≤ op ∧ op ≤ 9 then tblFreeze mst v (tblRun mst v) s else tblRun mst v s

/-- What a freeze has held back takes effect. -/
def tblResume (mst : Master) (v : Dword) (s : State) : State := tblRun mst v (s.setTblRegs mst { s.tblRegs mst with busy := false })

/-! ## The rows -/

/-- BIND (R156). -/
def execBind (mst : Master) (kind slot ctx : Nat) (s : State) : Host.Outcome State Fault Refusal :=
  regRow (.bind mst kind slot ctx) mst s (tblFreeze mst (tblWord 1 kind slot ctx) (tblBind mst kind slot ctx true))
/-- UNBIND (R156). -/
def execUnbind (mst : Master) (kind slot : Nat) (s : State) : Host.Outcome State Fault Refusal :=
  regRow (.unbind mst kind slot) mst s (tblFreeze mst (tblWord 2 kind slot 0) (tblUnbind mst kind slot true))
/-- LOAD (R156). -/
def execLoad (mst : Master) (kind slot : Nat) (s : State) : Host.Outcome State Fault Refusal :=
  regRow (.load mst kind slot) mst s (tblFreeze mst (tblWord 3 kind slot 0) (tblLoad mst kind slot true))
/-- SWAP (R152). -/
def execSwap (mst : Master) (kind slot : Nat) (s : State) : Host.Outcome State Fault Refusal :=
  regRow (.swap mst kind slot) mst s (tblFreeze mst (tblWord 4 kind slot 0) (tblSwap mst kind slot true))
/-- SYNC (R156). -/
def execSync (mst : Master) (kind slot : Nat) (s : State) : Host.Outcome State Fault Refusal :=
  regRow (.sync mst kind slot) mst s (tblFreeze mst (tblWord 5 kind slot 0) (tblSync mst kind slot true))
/-- MAP (R164). -/
def execMap (mst : Master) (kind slot : Nat) (s : State) : Host.Outcome State Fault Refusal :=
  regRow (.map mst kind slot) mst s (tblFreeze mst (tblWord 6 kind slot 0) (tblMap mst kind slot true))
/-- FORK (R164). -/
def execFork (mst : Master) (kind slot : Nat) (s : State) : Host.Outcome State Fault Refusal :=
  regRow (.fork mst kind slot) mst s (tblFreeze mst (tblWord 7 kind slot 0) (tblFork mst kind slot true))
/-- TRIM (R164). -/
def execTrim (mst : Master) (kind slot : Nat) (s : State) : Host.Outcome State Fault Refusal :=
  regRow (.trim mst kind slot) mst s (tblFreeze mst (tblWord 8 kind slot 0) (tblTrim mst kind slot true))
/-- MOVE (R164). -/
def execMove (mst : Master) (kind slot : Nat) (s : State) : Host.Outcome State Fault Refusal :=
  regRow (.move mst kind slot) mst s (tblFreeze mst (tblWord 9 kind slot 0) (tblMove mst kind slot true))
/-- QUERY (R156). -/
def execQuery (mst : Master) (kind slot : Nat) (s : State) : Host.Outcome State Fault Refusal :=
  regRow (.query mst kind slot) mst s (tblQuery mst kind slot true)
/-- COUNT (R163). -/
def execCount (mst : Master) (kind slot : Nat) (s : State) : Host.Outcome State Fault Refusal :=
  regRow (.count mst kind slot) mst s (tblCount mst kind slot true)
/-- TABLE_OP_COMPLETE (R155). -/
def execTableOpComplete (mst : Master) (s : State) : Host.Outcome State Fault Refusal := .next (tblComplete mst s)

/-! ## Paged writes (R162, R165, R166) -/

/-- The entry of a page in a bank; `none` when the page does not exist or is a hole. -/
def TblSlot.frameOf (t : TblSlot) (b seq page : Nat) : Option Word :=
  match (t.pages b seq)[page]? with
  | some f => if f = hole then none else some f
  | none => none

/-- n and m of R165: entries of both banks that name the frame, and banks whose own entry names it. -/
def TblSlot.shares (t : TblSlot) (seq page : Nat) (f : Word) : Nat × Nat :=
  (t.cnt 0 f + t.cnt 1 f, b2n (t.frameOf 0 seq page == some f) + b2n (t.frameOf 1 seq page == some f))

/-- The bank in which every entry (seq, page) that names f names g instead. -/
def TblSlot.remap (t : TblSlot) (b seq page : Nat) (f g : Word) : TblSlot :=
  if t.frameOf b seq page = some f then t.setPages b seq ((t.pages b seq).set page g) else t

/-- Copy a frame for every layer and both planes (R165 step 2). -/
def State.copyFrame (s : State) (slot ctx : Nat) (kv : BindRec) (f g : Word) : State :=
  (List.range (2 * kv.layers)).foldl (fun s i =>
    s.landVa (some slot) ctx (kv.frameVa (i % 2) (i / 2) g 0) (s.rdBytes ctx (kv.frameVa (i % 2) (i / 2) f 0) kv.frameBytes)) s

/-- The first address of a copied frame that does not translate for the copy. -/
def State.copyFault (s : State) (ctx : Nat) (kv : BindRec) (f g : Word) : Option Nat :=
  (List.range (2 * kv.layers)).findSome? (fun i =>
    match s.rangeFault ctx (kv.frameVa (i % 2) (i / 2) f 0) kv.frameBytes false with
    | some a => some a
    | none => s.rangeFault ctx (kv.frameVa (i % 2) (i / 2) g 0) kv.frameBytes true)

/-- COPY_ON_WRITE (R165, R166): the oldest paged write of a command that names a shared frame. -/
def cowOp (slot : Nat) (s : State) : State :=
  match s.cmd? slot with
  | none => s
  | some c =>
    match c.paged with
    | [] => s
    | p :: _ =>
      let t := s.tblSlot 1 p.slot
      match t.kv, t.frameOf p.bank p.seq p.page with
      | some kv, some f =>
        let nm := t.shares p.seq p.page f
        if nm.1 ≤ nm.2 then s
        else
          match t.freeFrame with
          | none => s.failCmd slot stResource 0 0 { status := stResource, unit := uTbl, index := p.slot }
          | some g =>
            match s.copyFault c.ctx kv f g with
            | some a => s.failCmd slot stXlate 0 0 { status := stXlate, unit := uTbl, addr := a }
            | none =>
              let t1 := (t.remap 0 p.seq p.page f g).remap 1 p.seq p.page f g
              (((s.copyFrame slot c.ctx kv f g).setTbl 1 p.slot t1).count slot .kvCow 1)
      | _, _ => s

/-- PAGED_WRITE (R162, R165): the oldest paged write of a command lands in its frame when no other entry shares it. -/
def pagedOp (slot : Nat) (s : State) : State :=
  let s := s.settleMigs
  match s.cmd? slot with
  | none => s
  | some c =>
    match c.paged with
    | [] => s
    | p :: rest =>
      let t := s.tblSlot 1 p.slot
      match t.kv with
      | none => s
      | some kv =>
        match t.frameOf p.bank p.seq p.page with
        | none => s.failCmd slot stXlate 0 0 { status := stXlate, unit := uTbl, index := p.slot }
        | some f =>
          let nm := t.shares p.seq p.page f
          if nm.2 < nm.1 then s
          else
            let fault := p.segs.findSome? (fun b => s.rangeFault c.ctx (kv.frameVa p.plane p.layer f b.1) b.2.length true)
            match fault with
            | some a => s.failCmd slot stXlate 0 0 { status := stXlate, unit := uTbl, addr := a }
            | none =>
              let reqs := p.segs.flatMap (fun b =>
                s.writeReqsVa slot c.ctx p.stage p.field (kv.frameVa p.plane p.layer f b.1) b.2)
              (s.setCmd slot (some { c with paged := rest, outQ := c.outQ ++ reqs })).pumpCmd slot

/-- COPY_ON_WRITE (R165). -/
def execCopyOnWrite (slot : Nat) (s : State) : Host.Outcome State Fault Refusal := .next (if s.trc.dump.busy then s else cowOp slot s)
/-- PAGED_WRITE (R162). -/
def execPagedWrite (slot : Nat) (s : State) : Host.Outcome State Fault Refusal := .next (if s.trc.dump.busy then s else pagedOp slot s)

end Sys2Proof.Machine
end

