-- ==== Sys2Proof/Machine/VecOps.lean ====
section
/-!
DEFINITION. The work of VECFN (R183–R185), NORM (R188–R193), COPY (R243, R244) and UPDATE (R215–R219).
-/
namespace Sys2Proof.Machine

/-! ## VECFN -/

structure VfPar where
  n    : Nat
  fn   : Nat
  act  : Nat
  slot : Nat
  fmtX : Word
  fmtG : Word
  fmtDy : Word
  fmtY : Word
  fmtY2 : Word
  p0   : Word
  p1   : Word
  ncore : Nat
  deriving DecidableEq, Repr

def vfPar (b : List Byte) : VfPar where
  n := u64At b 0x00
  fn := field (u32At b 0x08) 7 0
  act := field (u32At b 0x08) 11 8
  slot := field (u32At b 0x08) 23 16
  fmtX := w32At b 0x10
  fmtG := w32At b 0x14
  fmtDy := w32At b 0x18
  fmtY := w32At b 0x1C
  fmtY2 := w32At b 0x20
  p0 := w32At b 0x24
  p1 := w32At b 0x28
  ncore := field (u32At b 0x2C) 8 0

/-- Element i of a flat run, widened to FP32 (R170, R183). -/
def flatVal (w : Word) (rd sc : Nat → Byte) (i : Nat) : Ext :=
  if fmtBlock w then blockValue (fmtCode w) (sc (i / fmtBs w)).toNat (elemBits 8 rd i)
  else codeValue (fmtCode w) (fmtUsgn w) (elemBits (fmtBits w) rd i)

def flatF32 (w : Word) (rd sc : Nat → Byte) (i : Nat) : Word := f32 (flatVal w rd sc i)

/-- Whether a VECFN writes Y2 (R181, R182). -/
def VfPar.hasY2 (p : VfPar) (prog : Prog) : Bool := p.fn == 0x30 || (p.fn == 0x3F && prog.two)

/-- The work of a VECFN (R183–R185) on ranges [lo, hi) of 512 elements; `present` says which inputs have descriptors, `own` which core entry has
an element. -/
def vfWork (io : IO) (p : VfPar) (present : Bool × Bool × Bool) (own : Nat → Nat) (u : Win) : WorkOut :=
  if p.n = 0 then WorkOut.none
  else
    let first := 512 * u.lo
    let rds := fnReads p.fn p.act present
    let inp (i : Nat) : VIn :=
      ⟨if rds.1 then flatF32 p.fmtX (io.rd 7) (io.rd 12) i else fzero,
       if rds.2.1 then flatF32 p.fmtG (io.rd 8) (io.rd 13) i else fzero,
       if rds.2.2 then flatF32 p.fmtDy (io.rd 9) (io.rd 14) i else fzero, p.p0, p.p1⟩
    let res := (upFrom first (min p.n (512 * u.hi) - first)).map (fun i =>
      let v := inp i
      let r := vecFn p.fn p.act io.prog v
      let clean := !(fIsNan v.x || fIsNan v.g || fIsNan v.dy || fIsNan v.p0 || fIsNan v.p1)
      let nan (w : Word) : Nat := b2n (clean && fIsNan w)
      (r.1, r.2, nan r.1, nan r.2))
    let two := p.hasY2 io.prog
    let run (keep : Nat → Bool) (plane : Nat) : Run :=
      let w := if plane = 0 then p.fmtY else p.fmtY2
      convRun w (res.zipIdx.map (fun q => if keep (first + q.2) then
        (v32 (if plane = 0 then q.1.1 else q.1.2.1), drawFor w io.rng plane (first + q.2)) else (Ext.zero, 0)))
    let y := run (fun _ => true) 0
    let y2 := if two then run (fun _ => true) 1 else ⟨[], [], Health.zero⟩
    let nans := res.foldl (fun a q => a + q.2.2.1 + (if two then q.2.2.2 else 0)) 0
    let pl (w : Word) (f fs : Nat) (r : Run) : List (Nat × Nat × List Byte) :=
      (f, first * fmtBits w / 8, packElems (fmtBits w) r.elems) ::
        (if fmtBlock w then [(fs, first / fmtBs w, r.scales.map (BitVec.ofNat 8))] else [])
    { outs := pl p.fmtY 10 15 y ++ (if two then pl p.fmtY2 11 16 y2 else [])
      health := byOwner own (upFrom first res.length) (fun keep =>
        (run keep 0).health.add (if two then (run keep 1).health else Health.zero))
      oc := [(Oc.vfNan, nans)] }

/-! ## NORM -/

structure NmPar where
  rows : Nat
  l    : Nat
  flags : Nat
  fmtX : Word
  fmtY : Word
  fmtGb : Word
  fmtDy : Word
  eps  : Word
  ncore : Nat
  deriving DecidableEq, Repr

def nmPar (b : List Byte) : NmPar where
  rows := u32At b 0x00
  l := u32At b 0x04
  flags := u32At b 0x08
  fmtX := w32At b 0x0C
  fmtY := w32At b 0x10
  fmtGb := w32At b 0x14
  fmtDy := w32At b 0x18
  eps := w32At b 0x1C
  ncore := field (u32At b 0x20) 8 0

def NmPar.mode (p : NmPar) : Nat := field p.flags 1 0
def NmPar.gammaEn (p : NmPar) : Bool := bitAt p.flags 2
def NmPar.betaEn (p : NmPar) : Bool := bitAt p.flags 3
def NmPar.statsOut (p : NmPar) : Bool := bitAt p.flags 4
def NmPar.varOut (p : NmPar) : Bool := bitAt p.flags 5
def NmPar.bwd (p : NmPar) : Bool := decide (2 ≤ p.mode)
def NmPar.layer (p : NmPar) : Bool := p.mode == 0 || p.mode == 2

/-- Element j of a row whose blocks lie along L (R47, R190). -/
def rowVal (w : Word) (rd sc : Nat → Byte) (l row j : Nat) : Ext :=
  if fmtBlock w then
    let lw := roundUp l (fmtBs w)
    blockValue (fmtCode w) (sc (row * (lw / fmtBs w) + j / fmtBs w)).toNat (elemBits 8 rd (row * lw + j))
  else codeValue (fmtCode w) (fmtUsgn w) (elemBits (fmtBits w) rd (row * l + j))

def rowF32 (w : Word) (rd sc : Nat → Byte) (l row : Nat) : List Word :=
  (List.range l).map (fun j => f32 (rowVal w rd sc l row j))

/-- One row of NORM: the results, mean, rstd, var, whether the variance was clamped, VF_NAN of the row. -/
structure NormRow where
  y    : List Word
  st   : RowStats
  nans : Nat

def nmRow (io : IO) (p : NmPar) (row : Nat) : NormRow :=
  let x := rowF32 p.fmtX (io.rd 6) (io.rd 14) p.l row
  let gam := if p.gammaEn then some ((List.range p.l).map (readF32 p.fmtGb (io.rd 8))) else none
  let bet := if p.betaEn then some ((List.range p.l).map (readF32 p.fmtGb (io.rd 9))) else none
  let xNan := x.any fIsNan
  if p.bwd then
    let dy := (List.range p.l).map (fun j => readF32 p.fmtDy (io.rd 10) (row * p.l + j))
    let mean := if p.layer then BitVec.ofNat 32 (elemBits 32 (io.rd 11) row) else fzero
    let rstd := BitVec.ofNat 32 (elemBits 32 (io.rd 12) row)
    let y := normBwd p.layer mean rstd x dy gam
    let bad := xNan || dy.any fIsNan || fIsNan mean || fIsNan rstd || (gam.getD []).any fIsNan
    ⟨y, ⟨mean, fzero, rstd, false⟩, if bad then 0 else (y.filter fIsNan).length⟩
  else
    let st := if p.layer then layerStats x p.eps else rmsStats x p.eps
    let y := x.zipIdx.map (fun q => normOut p.layer st (gam.map (nth fzero · q.2)) (bet.map (nth fzero · q.2)) q.1)
    let nan (q : Word × Nat) : Bool := fIsNan q.1 && !(xNan || fIsNan p.eps
      || fIsNan (nth fzero (gam.getD []) q.2) || fIsNan (nth fzero (bet.getD []) q.2))
    ⟨y, st, (y.zipIdx.filter nan).length⟩

/-- The core entry of a row: rows in ranges, and in a chain the bands b with b mod NCORE (R192, R285). -/
def NmPar.entryOf (p : NmPar) (chained : Bool) (row : Nat) : Nat :=
  if chained then row / 32 % max 1 p.ncore else row / max 1 (ceilDiv p.rows (max 1 p.ncore))

/-- The work of rows [lo, hi) of a NORM (R186–R193). -/
def nmWork (io : IO) (p : NmPar) (chained : Bool) (u : Win) : WorkOut :=
  if p.rows = 0 ∨ p.l = 0 then WorkOut.none
  else
    let rs := (upFrom u.lo (min p.rows u.hi - u.lo)).map (nmRow io p)
    let runs := rs.zipIdx.map (fun r => convRun p.fmtY (r.1.y.zipIdx.map (fun q =>
      (v32 q.1, drawFor p.fmtY io.rng 0 ((u.lo + r.2) * p.l + q.2)))))
    let lw := if fmtBlock p.fmtY then roundUp p.l (fmtBs p.fmtY) else p.l
    let vec (f : Nat) (v : NormRow → Word) : List (Nat × Nat × List Byte) :=
      [(f, 4 * u.lo, rs.flatMap (fun r => toLe 4 (v r).toNat))]
    let stats := if p.statsOut then (if p.layer then vec 11 (·.st.mean) else []) ++ vec 12 (·.st.rstd) else []
    let var := if p.varOut then vec 13 (·.st.var) else []
    let sc := if fmtBlock p.fmtY then [(15, u.lo * (lw / fmtBs p.fmtY), runs.flatMap (fun r => r.scales.map (BitVec.ofNat 8)))] else []
    { outs := [(7, u.lo * lw * fmtBits p.fmtY / 8, packElems (fmtBits p.fmtY) (runs.flatMap (·.elems)))] ++ sc ++ stats ++ var
      health := byOwner (p.entryOf chained) (upFrom u.lo rs.length) (fun keep =>
        runs.zipIdx.foldl (fun h r => if keep (u.lo + r.2) then h.add r.1.health else h) Health.zero)
      oc := [(Oc.vfNan, rs.foldl (fun a r => a + r.nans) 0), (Oc.varClamp, (rs.filter (fun r => r.st.clamp)).length)] }

/-! ## COPY -/

structure CpPar where
  n    : Nat
  flags : Nat
  ncore : Nat
  fmtS : Word
  fmtD : Word
  tag  : Word
  ckpt : Nat
  deriving DecidableEq, Repr

def cpPar (b : List Byte) : CpPar where
  n := u64At b 0x00
  flags := u32At b 0x08
  ncore := field (u32At b 0x0C) 8 0
  fmtS := w32At b 0x10
  fmtD := w32At b 0x14
  tag := w32At b 0x18
  ckpt := u64At b 0x48

def CpPar.compOut (p : CpPar) : Bool := bitAt p.flags 0
def CpPar.compIn (p : CpPar) : Bool := bitAt p.flags 1
def CpPar.ckptEn (p : CpPar) : Bool := bitAt p.flags 2

/-- The WCODE of a format word (R240, R244). -/
def wcodeOf (w : Word) : Nat := if fmtBits w = 16 then 1 else if fmtBits w = 32 then 2 else 0

/-- The converted or moved elements of a flat run (R244): elements, scales and counts, of those that `keep` keeps. -/
def copyRun (fmtS fmtD : Word) (rng : Rng) (n : Nat) (rd sc : Nat → Byte) (keep : Nat → Bool) : Run :=
  if fmtS = fmtD then
    let bits := fmtBits fmtS
    let es := (List.range n).map (elemBits bits rd)
    if fmtBlock fmtS then
      ⟨es ++ List.replicate (roundUp n (fmtBs fmtS) - n) 0,
       (List.range (ceilDiv n (fmtBs fmtS))).map (fun i => (sc i).toNat), Health.zero⟩
    else ⟨es, [], Health.zero⟩
  else convRun fmtD ((List.range n).map (fun i => if keep i then (flatVal fmtS rd sc i, drawFor fmtD rng 7 i) else (Ext.zero, 0)))

/-- Elements, or other units, of each core's run of a flat plane (R185). -/
def flatRun (n ncore unit : Nat) : Nat := unit * ceilDiv n (unit * max 1 ncore)

/-- Elements of a COPY that are split among cores as one (R244). -/
def CpPar.unit (p : CpPar) : Nat :=
  if p.compOut then 4096 * 8 / max 1 (fmtBits p.fmtD) else if p.compIn then 4096 * 8 / max 1 (fmtBits p.fmtS) else 512

/-- The work of a COPY (R244), and the bytes of its destination: `none` when the compressed source is malformed or does
not match N (R242, R244). -/
def cpWork (io : IO) (p : CpPar) : Option (WorkOut × Nat) :=
  if p.n = 0 then some (WorkOut.none, 0)
  else
    let src : Option (Nat → Byte) :=
      if p.compIn then
        let h := (List.range 64).map (io.rd 5)
        let s := (List.range (streamTotal h)).map (io.rd 5)
        match decompress s with
        | some b => if b.length = fmtBytes p.fmtS p.n then some (fun i => nth 0 b i) else none
        | none => none
      else some (io.rd 5)
    src.map (fun rd =>
      let r := copyRun p.fmtS p.fmtD io.rng p.n rd (io.rd 7) (fun _ => true)
      let bytes := if p.fmtS = p.fmtD ∧ !fmtBlock p.fmtS then (List.range (fmtBytes p.fmtS p.n)).map rd
        else packElems (fmtBits p.fmtD) r.elems
      let out := if p.compOut then compress (wcodeOf p.fmtD) bytes else bytes
      let per := flatRun p.n p.ncore p.unit
      ({ outs := (6, 0, out) :: (if fmtBlock p.fmtD then [(8, 0, r.scales.map (BitVec.ofNat 8))] else [])
         health := byOwner (· / max 1 per) (List.range p.n) (fun keep =>
           (copyRun p.fmtS p.fmtD io.rng p.n rd (io.rd 7) keep).health) },
       out.length))

/-! ## UPDATE -/

structure UpPar where
  rows : Nat
  cols : Nat
  optw : Nat
  fmtG : Word
  fmtM : Word
  fmtV : Word
  fmtW : Word
  fmtW2 : Word
  lr   : Word
  b1   : Word
  b2   : Word
  eps  : Word
  wd   : Word
  gscale : Word
  ctrl : Nat
  wgen : Nat
  deriving DecidableEq, Repr

def upPar (b : List Byte) : UpPar where
  rows := u32At b 0x00
  cols := u32At b 0x04
  optw := u32At b 0x08
  fmtG := w32At b 0x0C
  fmtM := w32At b 0x10
  fmtV := w32At b 0x14
  fmtW := w32At b 0x18
  fmtW2 := w32At b 0x1C
  lr := w32At b 0x20
  b1 := w32At b 0x24
  b2 := w32At b 0x28
  eps := w32At b 0x2C
  wd := w32At b 0x30
  gscale := w32At b 0x34
  ctrl := u64At b 0x80
  wgen := u64At b 0x88

def UpPar.opt (p : UpPar) : Nat := field p.optw 1 0
def UpPar.biascorr (p : UpPar) : Bool := bitAt p.optw 2
def UpPar.nesterov (p : UpPar) : Bool := bitAt p.optw 3
def UpPar.zeroGrad (p : UpPar) : Bool := bitAt p.optw 4

/-- The power p of R217 by square and multiply over the bits of T′ from bit 0. -/
def powFrom (t : Nat) : Nat → Word → Word → Word
  | 0, p, _ => p
  | n + 1, p, b => powFrom (t / 2) n (if t % 2 = 1 then fmul p b else p) (fmul b b)

/-- RCk of R217. -/
def biasCorr (b : Word) (t1 : Nat) : Word := fdiv fone (fsub fone (powFrom t1 64 fone b))

/-- The scalars of R217. -/
structure UpScal where
  gs : Word
  omb1 : Word
  omb2 : Word
  lrwd : Word
  rc1 : Word
  rc2 : Word
  deriving DecidableEq, Repr

def upScal (p : UpPar) (t : Nat) (gmul : Word) : UpScal :=
  let t1 := (t + 1) % 2 ^ 64
  ⟨fmul p.gscale gmul, fsub fone p.b1, fsub fone p.b2, fmul p.lr p.wd,
   if p.biascorr then biasCorr p.b1 t1 else fone, if p.biascorr then biasCorr p.b2 t1 else fone⟩

/-- One element (R217): g and the new w, m, v from the old. -/
def upElem (p : UpPar) (k : UpScal) (hasM : Bool) (w g0 m v : Word) : Word × Word × Word × Word :=
  if p.opt = 0 then
    let g := ffma p.wd w (fmul g0 k.gs)
    let m1 := ffma p.b1 (if hasM then m else fzero) g
    let s := if p.nesterov then ffma p.b1 m1 g else m1
    (g, ffnma p.lr s w, m1, v)
  else if p.opt = 1 then
    let g := fmul g0 k.gs
    let m1 := ffma p.b1 m (fmul k.omb1 g)
    let v1 := ffma p.b2 v (fmul k.omb2 (fmul g g))
    let u := fdiv (fmul m1 k.rc1) (fadd (fsqrt (fmul v1 k.rc2)) p.eps)
    (g, ffnma p.lr u (ffnma k.lrwd w w), m1, v1)
  else
    let g := fmul g0 k.gs
    let c := ffma p.b1 m (fmul k.omb1 g)
    let u : Word := if Ext.zero.lt (v32 c) then fone else if (v32 c).lt Ext.zero then 0xBF800000 else fzero
    (g, ffnma p.lr u (ffnma k.lrwd w w), ffma p.b2 m (fmul k.omb2 g), v)

def fFinite (a : Word) : Bool := !((v32 a).isNan || (v32 a).isInf)

/-- The elements of an UPDATE: new master, m and v as stored (bits), and whether the element was not finite. -/
structure UpElem where
  w : Word
  m : Conv
  v : Conv
  nonfin : Bool

def upOne (io : IO) (p : UpPar) (k : UpScal) (hasM hasV : Bool) (i : Nat) : UpElem :=
  let w := BitVec.ofNat 32 (elemBits 32 (io.rd 8) i)
  let g0 := readF32 p.fmtG (io.rd 9) i
  let mb := elemBits (fmtBits p.fmtM) (io.rd 10) i
  let vb := elemBits (fmtBits p.fmtV) (io.rd 11) i
  let m := if hasM then readF32 p.fmtM (io.rd 10) i else fzero
  let v := if hasV then readF32 p.fmtV (io.rd 11) i else fzero
  let r := upElem p k hasM w g0 m v
  if fFinite r.1 ∧ fFinite r.2.1 ∧ fFinite r.2.2.1 ∧ fFinite r.2.2.2 then
    ⟨r.2.1, convElem p.fmtM (drawFor p.fmtM io.rng 5 i) (v32 r.2.2.1),
      convElem p.fmtV (drawFor p.fmtV io.rng 6 i) (v32 r.2.2.2), false⟩
  else ⟨w, ⟨mb, false, false⟩, ⟨vb, false, false⟩, true⟩

/-- The range of element i of an UPDATE: 65,536 elements, or with W2 64 tiles of 32 × 32, numbered row by row (R215, R222). -/
def UpPar.unit (p : UpPar) (hasW2 : Bool) (i : Nat) : Nat :=
  if hasW2 then (i / p.cols / 32 * ceilDiv p.cols 32 + i % p.cols / 32) / 64 else i / 65536

/-- The ranges of an UPDATE. -/
def UpPar.units (p : UpPar) (hasW2 : Bool) : Nat :=
  if hasW2 then ceilDiv (ceilDiv p.rows 32 * ceilDiv p.cols 32) 64 else ceilDiv (p.rows * p.cols) 65536

/-- The work of the ranges [lo, hi) of an UPDATE that is not skipped (R214, R217–R219, R222): which of M, V, W, W2 are present. A block of W that
two ranges share belongs to that of its first element, which forms the other elements for it (log 102). `stack` names the controller complex
that updates an element. -/
def upWork (io : IO) (p : UpPar) (k : UpScal) (hasM hasV hasW hasW2 : Bool) (stack : Nat → Nat) (u : Win) : WorkOut :=
  if p.rows = 0 ∨ p.cols = 0 then WorkOut.none
  else
    let n := p.rows * p.cols
    let mine (i : Nat) : Bool := decide (u.lo ≤ p.unit hasW2 i) && decide (p.unit hasW2 i < u.hi)
    let es := (List.range n).map (upOne io p k hasM hasV)
    let lead (w : Word) (r c : Nat) : Bool := mine (r * p.cols + (if fmtBlock w then c / fmtBs w * fmtBs w else c))
    let lead2 (w : Word) (r c : Nat) : Bool := mine ((if fmtBlock w then r / fmtBs w * fmtBs w else r) * p.cols + c)
    let rowsOf (w : Word) (plane : Nat) (keep : Nat → Bool) (ld : Nat → Nat → Bool) : List (List (Ext × Nat)) :=
      (chunks p.cols (p.rows + 1) es).zipIdx.map (fun r => r.1.zipIdx.map (fun q =>
        if ld r.2 q.2 && keep (r.2 * p.cols + q.2) then (v32 q.1.w, drawFor w io.rng plane (r.2 * p.cols + q.2)) else (Ext.zero, 0)))
    let rowsW (keep : Nat → Bool) : PlaneOut :=
      if hasW then convRows p.fmtW (rowsOf p.fmtW 3 keep (lead p.fmtW)) else ⟨[], [], Health.zero, []⟩
    let rowsW2 (keep : Nat → Bool) : PlaneOut :=
      if hasW2 then convRows p.fmtW2 (transpose (Ext.zero, 0) p.cols (rowsOf p.fmtW2 4 keep (lead2 p.fmtW2)))
      else ⟨[], [], Health.zero, []⟩
    let cw := rowsW (fun _ => true)
    let cw2 := rowsW2 (fun _ => true)
    let counts (keep : Nat → Bool) : Health :=
      let own := es.zipIdx.filter (fun e => mine e.2 && keep e.2)
      ((if hasM then Health.ofConvs (own.map (·.1.m)) else Health.zero).add
        (if hasV then Health.ofConvs (own.map (·.1.v)) else Health.zero)).add ((rowsW keep).health.add (rowsW2 keep).health)
    let pad (w : Word) (x : Nat) : Nat := if fmtBlock w then roundUp x (fmtBs w) else x
    let own2 (w : Word) (e : Nat) : Bool := lead2 w (min (e % pad w p.rows) (p.rows - 1)) (e / pad w p.rows)
    let ownW := ownElem p.rows p.cols (pad p.fmtW p.cols) (lead p.fmtW)
    let mBytes := packElems (fmtBits p.fmtM) (es.map (·.m.bits))
    let vBytes := packElems (fmtBits p.fmtV) (es.map (·.v.bits))
    let gBytes : List Byte := List.replicate (fmtBytes p.fmtG n) 0
    { outs := cutPlane 8 32 n mine (es.flatMap (fun e => toLe 4 e.w.toNat))
        ++ (if hasM then cutPlane 10 (fmtBits p.fmtM) n mine mBytes else [])
        ++ (if hasV then cutPlane 11 (fmtBits p.fmtV) n mine vBytes else [])
        ++ (if hasW then cutPlane 12 (fmtBits p.fmtW) n ownW cw.elems
              ++ (if fmtBlock p.fmtW then cutBytes 13 (ownScale p.rows p.cols (fmtBs p.fmtW) false (lead p.fmtW)) cw.scales else []) else [])
        ++ (if hasW2 then cutPlane 14 (fmtBits p.fmtW2) n (own2 p.fmtW2) cw2.elems
              ++ (if fmtBlock p.fmtW2 then
                cutBytes 15 (ownScale p.cols p.rows (fmtBs p.fmtW2) false (fun c r => lead2 p.fmtW2 r c)) cw2.scales else []) else [])
        ++ (if p.zeroGrad then cutPlane 9 (fmtBits p.fmtG) n mine gBytes else [])
      health := byOwner stack ((List.range n).filter mine) counts
      oc := [(Oc.updNonfin, ((es.zipIdx.filter (fun e => mine e.2)).filter (·.1.nonfin)).length)] }

/-- The elements of a range of an UPDATE that were not finite (R218). -/
def upNonfin (io : IO) (p : UpPar) (k : UpScal) (hasM hasV hasW2 : Bool) (u : Win) : List Nat :=
  (List.range (p.rows * p.cols)).filter (fun i =>
    decide (u.lo ≤ p.unit hasW2 i) && decide (p.unit hasW2 i < u.hi) && (upOne io p k hasM hasV i).nonfin)

end Sys2Proof.Machine
end

