-- ==== Sys2Proof/Machine/Specs.lean ====
section
/-!
DEFINITION. What each operation asks of its parameter block: the checks of R81, R108, R131, R184, R191, R221, R244,
R246, R313 and R380, its descriptor fields with the bytes that each must cover (R257), and the resources of R301.
-/
namespace Sys2Proof.Machine

/-- A descriptor field of a parameter block: its number (byte offset ÷ 8), whether its feature is on, the bytes of its
logical space, its role, whether ACC is allowed (R208), and its tile: `rows` panel rows of `row` bytes, or `rows` bytes
when `row` is 0, with `extra` plane bytes after each tile's elements (R265, R266). -/
structure DField where
  f     : Nat
  on    : Bool
  need  : Nat
  role  : Role
  acc   : Bool := false
  row   : Nat := 0
  rows  : Nat := 0
  extra : Nat := 0

/-- What an operation asks for. -/
structure OpSpec where
  /-- bytes of the parameter block -/
  len    : Nat
  /-- checks of the operation's own rules: failing condition and status -/
  bad    : List (Bool × Byte)
  fields : List DField
  /-- address and number of core entries -/
  cores  : Option (Nat × Nat)
  /-- offset and bytes of the partial region (R70) -/
  part   : Option (Nat × Nat)
  /-- buffers that admission places on every core: bytes -/
  fixed  : List Nat
  /-- words of R498: address, bytes, alignment, also read -/
  words  : List (Nat × Nat × Nat × Bool)

def OpSpec.none : OpSpec := ⟨0, [], [], Option.none, Option.none, [], []⟩

/-- The roles of R265: inputs that a core fetches with and without the header fields, outputs, and the streams of
UPDATE, MIGRATE and the Yard; `rOutP` is an output without the header fields that may be a paged write (R162): of attention, a copy of UPDATE. `h` says that the command is a chain, where hand-over forms are allowed (R282). -/
def rIn (h : Bool) : Role := ⟨false, true, true, false, h⟩
def rInZ : Role := ⟨false, false, true, false, false⟩
def rOut (h : Bool) : Role := ⟨true, false, false, true, h⟩
def rOutZ : Role := ⟨true, false, false, false, false⟩
def rOutP : Role := ⟨true, false, false, true, false⟩
def rEng : Role := ⟨false, false, false, false, false⟩
def rSlot : Role := ⟨false, false, true, true, false⟩

def fmtCase (b : Bool) : Bool × Byte := (b, stFormat)
def rangeCase (b : Bool) : Bool × Byte := (b, stRange)

/-- A finite FP32 value. -/
def finite32 (w : Word) : Bool := !((v32 w).isNan || (v32 w).isInf)

/-- A format word that an accumulate-write output may have (R208): FP32 with RND = RNE. -/
def accFmt (w : Word) : Bool := fmtCode w == cFP32 && fmtRnd w == 0

/-! ## MATMUL and the mapped product (R81) -/

/-- The FORMAT and RANGE cases of R81 that concern the product itself; `inputs` asks for the pair rules.
An FP32P residual or pre-activation, and a residual with XMODE not 0, are rejected with FORMAT (DESIGN CHOICE, log 107). -/
def mmBad (p : MmPar) (raw : List Byte) (inputs : Bool) : List (Bool × Byte) :=
  let reg := u32At raw 0x2C
  let grid := u32At raw 0x28
  [fmtCase (field grid 15 9 != 0 || field grid 31 25 != 0 || field reg 15 8 != 0 || field (u32At raw 0x38) 31 21 != 0),
   fmtCase (p.act ≠ 2 && p.slope != 0),
   fmtCase (inputs && (pairClass p.fmtA p.fmtB).isNone),
   fmtCase (fmtBad p.fmtA false || fmtBad p.fmtB false || fmtBad p.fmtC true || fmtBad p.fmtVec false
     || fmtBad p.fmtResid false || fmtBad p.fmtPre true),
   fmtCase (fmtCode p.fmtC == cFP32P || (fmtBlock p.fmtC && fmtSat p.fmtC)),
   fmtCase (!(fmtCode p.fmtVec == cFP32 || fmtCode p.fmtVec == cBF16)),
   fmtCase (fmtBlock p.fmtResid || fmtBlock p.fmtPre || fmtCode p.fmtResid == cFP32P || fmtCode p.fmtPre == cFP32P
     || fmtXmode p.fmtResid != 0),
   fmtCase (decide (maxTiles p.fmtA p.fmtB < p.mb * p.nb)),
   fmtCase (p.block && p.kp % (p.bs / 8) != 0),
   fmtCase (p.siding && p.isInt),
   fmtCase (fmtInt p.fmtC && !(p.isInt && p.scale == fone && !p.colsEn && !p.biasEn && !p.residEn && !p.preEn
     && decide (p.act ≤ 1))),
   fmtCase (decide (8 ≤ p.act)),
   fmtCase (p.contOut && (p.zoutEn || p.preEn)),
   fmtCase (p.obM && !fmtBlock p.fmtC),
   rangeCase (decide (2 ^ 24 < p.m) || decide (2 ^ 24 < p.n) || decide (2 ^ 31 ≤ p.k)),
   rangeCase (p.gm == 0 || decide (272 < p.gm) || p.gn == 0 || decide (272 < p.gn) || decide (272 < p.gm * p.gn)),
   rangeCase (p.usesPart && (p.partAt % 0x800 != 0
     || decide (2 ^ 21 < p.partAt + partBytes (tileExtent p.m p.gm) (tileExtent p.n p.gn) p.siding)))]

/-- Scale and zero-point bytes of `r` rows of an operand chunk. -/
def planeBytes (w : Word) (r kc kk : Nat) : Nat :=
  if fmtBlock w then r * ceilDiv kc (fmtBs w)
  else if fmtXmode w = 2 then r * ceilDiv kc (fmtGroup w kk) * 3
  else 0

/-- The panel of an operand chunk (R266): row bytes, rows, plane bytes. -/
def panel (w : Word) (ext kc kk : Nat) (kInner : Bool) : Nat × Nat × Nat :=
  if kInner then (fmtBytes w kc, ext, planeBytes w ext kc kk) else (fmtBytes w ext, kc, planeBytes w ext kc kk)

/-- Bytes of an operand's scale plane and zero-point plane (R497): `r` rows, reduction length `k`. -/
def opdScaleBytes (w : Word) (r k : Nat) : Nat :=
  if fmtBlock w then r * (kPad w k / fmtBs w) else r * ceilDiv k (fmtGroup w k) * 2
def opdZpBytes (w : Word) (r k : Nat) : Nat := r * ceilDiv k (fmtGroup w k)

/-- An operand has a scale plane, a zero-point plane. -/
def hasScale (w : Word) : Bool := fmtBlock w || fmtXmode w == 2
def hasZp (w : Word) : Bool := fmtXmode w == 2

/-- Bytes of the C planes of a MATMUL: elements and scales. -/
def MmPar.cBytes (p : MmPar) : Nat × Nat :=
  let bs := fmtBs p.fmtC
  if !fmtBlock p.fmtC then (fmtBytes p.fmtC (p.m * p.n), 0)
  else if p.obM then (roundUp p.m bs * p.n, ceilDiv p.m bs * p.n)
  else (p.m * roundUp p.n bs, p.m * ceilDiv p.n bs)

/-- Bytes of a zero map. -/
def mapBytes (rows cols : Nat) : Nat := ceilDiv rows 4 * mapRowBytes cols

/-- Whether a descriptor address names a table-slot form: its scale plane then lies in the frames. -/
def State.isSlotForm (s : State) (ctx va : Nat) : Bool :=
  va % 64 == 0 && decide (va < 2 ^ 52) &&
  (match s.rdRecord ctx va 128 with
   | some b => field (u32At b 0) 3 0 == 3
   | none => false)

/-- MATMUL (R79–R81, R497). -/
def State.mmSpecOf (s : State) (ctx : Nat) (h : Bool) (b : List Byte) : OpSpec :=
  let p := mmPar b
  let mc := tileExtent p.m p.gm
  let nc := tileExtent p.n p.gn
  let kc := p.chunkK
  let pa := panel p.fmtA mc kc p.k (!p.transA)
  let pb := panel p.fmtB nc kc p.k p.transB
  let c := p.cBytes
  let cOn := !p.contOut
  let paged := s.isSlotForm ctx (u64At b 0x58)
  { len := 192
    bad := fmtCase (field p.flags 31 16 != 0 || !zeroAt b 0xB8 8) :: mmBad p b true
    fields :=
      [{ f := 9, on := true, need := fmtBytes p.fmtA (p.m * kPad p.fmtA p.k), role := rIn h, row := pa.1, rows := pa.2.1
         extra := pa.2.2 },
       { f := 10, on := true, need := fmtBytes p.fmtB (p.n * kPad p.fmtB p.k), role := rIn false, row := pb.1
         rows := pb.2.1, extra := pb.2.2 },
       { f := 11, on := cOn, need := c.1, role := rOut h, acc := accFmt p.fmtC },
       { f := 12, on := hasScale p.fmtA, need := opdScaleBytes p.fmtA p.m p.k, role := rInZ },
       { f := 13, on := hasScale p.fmtB, need := opdScaleBytes p.fmtB p.n p.k, role := rInZ },
       { f := 14, on := hasZp p.fmtA, need := opdZpBytes p.fmtA p.m p.k, role := rInZ },
       { f := 15, on := hasZp p.fmtB, need := opdZpBytes p.fmtB p.n p.k, role := rInZ },
       { f := 16, on := cOn && fmtBlock p.fmtC && !paged, need := c.2, role := rOut false },
       { f := 17, on := p.biasEn, need := fmtBytes p.fmtVec p.n, role := rInZ },
       { f := 18, on := p.colsEn, need := fmtBytes p.fmtVec p.n, role := rInZ },
       { f := 19, on := p.residEn, need := fmtBytes p.fmtResid (p.m * p.n), role := rIn false
         row := fmtBytes p.fmtResid (32 * p.nb), rows := 32 * p.mb },
       { f := 20, on := p.preEn, need := fmtBytes p.fmtPre (p.m * p.n), role := rOut false },
       { f := 21, on := p.zinEn, need := 0, role := rInZ },
       { f := 22, on := p.zoutEn, need := mapBytes p.m p.n, role := rOut false }]
    cores := some (u64At b 0x40, p.gm * p.gn)
    part := if p.usesPart then some (p.partAt, partBytes mc nc p.siding) else none
    fixed := (if p.biasEn then [roundUp (fmtBytes p.fmtVec nc) 64] else [])
      ++ (if p.colsEn then [roundUp (fmtBytes p.fmtVec nc) 64] else [])
    words := [] }

/-! ## CONV (R106–R108) -/

/-- Elements of a tensor in the layout of R93. -/
def actElems (cb : Nat) (w : Word) (n c d h x : Nat) : Nat := n * chanBlocks cb w c * (d * h * x) * cb

/-- Scale bytes of an activation in the layout of R93: block scales, or BF16 expansion scales of groups of channels. -/
def actGroups (cb : Nat) (w : Word) (n c d h x : Nat) : Nat :=
  if fmtBlock w then actElems cb w n c d h x / fmtBs w
  else
    let g := chanSpan w cb c
    if g ≤ cb then n * chanBlocks cb w c * (d * h * x) * (cb / g) else n * ceilDiv (roundUp c cb) g * (d * h * x)

def axisBad (a : Axis) : Bool := a.k == 0 || a.s == 0 || a.d == 0 || a.idd == 0 || decide (16 < a.idd)
def axisPad (a : Axis) : Bool := decide (a.window ≤ a.p0) || decide (a.window ≤ a.p1)

/-- The checks of R101: every field that takes no part in pooling is zero. -/
def poolBad (p : CvPar) (b : List Byte) : List (Bool × Byte) :=
  [fmtCase (p.cin != p.cout || p.groups != 1 || p.mm.gn != 1 || p.mm.scale != fone),
   fmtCase (p.flags &&& 0x0019FFF8 != (if p.zoutEn then 0x200 else 0) + (if p.countPad then 0x10000 else 0)),
   fmtCase (!zeroAt b 0x14 4 || !zeroAt b 0x1C 12 || !zeroAt b 0x2C 4 || !zeroAt b 0x34 12),
   fmtCase (fmtXmode p.mm.fmtA != 0 || fmtCode p.mm.fmtA == cFP32P),
   fmtCase (fmtBad p.mm.fmtA false || fmtBad p.mm.fmtC true),
   fmtCase (fmtCode p.mm.fmtC == cFP32P || (fmtBlock p.mm.fmtC && fmtSat p.mm.fmtC)),
   fmtCase (field (u32At b 0x28) 15 9 != 0 || field (u32At b 0x28) 31 25 != 0),
   rangeCase (p.mm.gm == 0 || decide (272 < p.mm.gm))]

/-- The checks of R95, R96, R99, R100, R104, R106 and R107. WFLIP is accepted in MODE 1, where it has no meaning (log 74). -/
def cvBad (p : CvPar) (b : List Byte) : List (Bool × Byte) :=
  [fmtCase (field p.flags 31 21 != 0 || u16At b 0x4E != 0 || u16At b 0x56 != 0 || u16At b 0x5E != 0 || !zeroAt b 0xE8 24),
   fmtCase (p.fold && p.groups != 1),
   fmtCase (decide (1 < p.groups) && !(p.go == 0 || 32 % p.go == 0 || p.go % 32 == 0)),
   fmtCase (p.wflip && (fmtBlock p.mm.fmtB || p.fold || decide (1 < p.groups))),
   fmtCase (p.mode == 1 && (fmtBlock p.mm.fmtC || p.act != 0 || p.biasEn || p.colsEn || p.residEn || p.preEn || p.zinEn
     || p.mm.block || p.zcOut)),
   fmtCase (p.countPad && p.mode != 3),
   fmtCase (p.zcIn && p.ad.i * p.ah.i * p.aw.i % 32 != 0),
   fmtCase (p.zcOut && p.od * p.oh * p.ow % 32 != 0),
   fmtCase (p.zcOut && p.contOut),
   fmtCase (p.zcIn == (u64At b 0xD8 == 0) || p.zcOut == (u64At b 0xE0 == 0)),
   rangeCase (decide (65535 < p.nb) || decide (2 ^ 20 < p.cin) || decide (2 ^ 20 < p.cout)),
   rangeCase (p.groups == 0 || p.cin % max 1 p.groups != 0 || p.cout % max 1 p.groups != 0),
   rangeCase (axisBad p.ad || axisBad p.ah || axisBad p.aw || axisPad p.ad || axisPad p.ah || axisPad p.aw),
   rangeCase (decide (2 ^ 52 ≤ u64At b 0xD8) || decide (2 ^ 52 ≤ u64At b 0xE0))]

/-- CONV. -/
def State.cvSpecOf (s : State) (ctx : Nat) (h : Bool) (b : List Byte) : OpSpec :=
  let p := cvPar b
  let mp := p.mapped
  let pool := decide (2 ≤ p.mode)
  let mc := tileExtent mp.m mp.gm
  let nc := tileExtent mp.n mp.gn
  let kc := mp.chunkK
  let pa := panel mp.fmtA mc kc mp.k (p.mode != 1)
  let pb := panel mp.fmtB nc kc mp.k false
  let cOn := !p.contOut && !p.zcOut
  let paged := s.isSlotForm ctx (u64At b 0x78)
  let inE (w : Word) : Nat := actElems p.cb w p.nb p.cin p.ad.i p.ah.i p.aw.i
  let outE (w : Word) : Nat := actElems p.cb w p.nb p.cout p.od p.oh p.ow
  let wEl := if p.mode = 1 then outE mp.fmtB
    else if p.wflip then p.taps * roundUp p.cout p.cb * p.cin else p.wRows * p.cout
  -- the scales and zero points of B: dY grouped along the positions (R53, R100), the forward matrix under WFLIP (R99)
  let bSc : Nat × Nat :=
    if p.mode = 1 then (opdScaleBytes mp.fmtB p.cout p.positions, opdZpBytes mp.fmtB p.cout p.positions)
    else if p.wflip then (opdScaleBytes mp.fmtB p.cin (p.taps * roundUp p.cout p.cb), opdZpBytes mp.fmtB p.cin (p.taps * roundUp p.cout p.cb))
    else (opdScaleBytes mp.fmtB p.cout p.wRows, opdZpBytes mp.fmtB p.cout p.wRows)
  let tileEl := 16384 * 8 / max 1 (fmtBits mp.fmtA)
  let aField : DField :=
    if pool then { f := 13, on := !p.zcIn, need := fmtBytes mp.fmtA (inE mp.fmtA), role := rIn false, rows := 16384
                   extra := if fmtBlock mp.fmtA then tileEl / fmtBs mp.fmtA else 0 }
    else { f := 13, on := !p.zcIn, need := fmtBytes mp.fmtA (inE mp.fmtA), role := rIn false, row := pa.1, rows := pa.2.1
           extra := pa.2.2 }
  { len := 256
    bad := cvBad p b ++ (if pool then poolBad p b else mmBad mp b true)
    fields :=
      [aField,
       { f := 14, on := !pool, need := fmtBytes mp.fmtB wEl, role := if pool then rInZ else rIn false, row := pb.1
         rows := pb.2.1, extra := pb.2.2 },
       { f := 15, on := cOn, need := fmtBytes mp.fmtC (if p.mode = 1 then p.wRows * p.cout else outE mp.fmtC)
         role := rOut h, acc := accFmt mp.fmtC && !pool },
       { f := 16, on := hasScale mp.fmtA
         need := actGroups p.cb mp.fmtA p.nb p.cin p.ad.i p.ah.i p.aw.i * (if fmtBlock mp.fmtA then 1 else 2), role := rInZ },
       { f := 17, on := !pool && hasScale mp.fmtB
         need := bSc.1, role := rInZ },
       { f := 18, on := hasZp mp.fmtA, need := actGroups p.cb mp.fmtA p.nb p.cin p.ad.i p.ah.i p.aw.i, role := rInZ },
       { f := 19, on := !pool && hasZp mp.fmtB
         need := bSc.2, role := rInZ },
       { f := 20, on := !p.contOut && fmtBlock mp.fmtC && !paged, need := outE mp.fmtC / fmtBs mp.fmtC, role := rOut false },
       { f := 21, on := p.biasEn, need := fmtBytes mp.fmtVec p.cout, role := rInZ },
       { f := 22, on := p.colsEn, need := fmtBytes mp.fmtVec p.cout, role := rInZ },
       { f := 23, on := p.residEn, need := fmtBytes mp.fmtResid (outE mp.fmtResid), role := rIn false
         row := fmtBytes mp.fmtResid (32 * mp.nb), rows := 32 * mp.mb },
       { f := 24, on := p.preEn, need := fmtBytes mp.fmtPre (outE mp.fmtPre), role := rOut false },
       { f := 25, on := p.zinEn, need := 0, role := rInZ },
       { f := 26, on := p.zoutEn, need := mapBytes (if p.mode = 1 then p.wRows else p.positions) p.cout
         role := rOut false }]
    cores := some (u64At b 0x60, if pool then mp.gm else mp.gm * mp.gn)
    part := if !pool && mp.usesPart then some (mp.partAt, partBytes mc nc p.siding) else none
    fixed := (if p.biasEn then [roundUp (fmtBytes mp.fmtVec nc) 64] else [])
      ++ (if p.colsEn then [roundUp (fmtBytes mp.fmtVec nc) 64] else [])
    words := [] }

/-! ## VECFN (R183, R184) -/

/-- What a function needs: listed in R177 or R179–R182. -/
def fnListed (fn : Nat) : Bool :=
  decide (fn ≤ 0x04) || (decide (0x09 ≤ fn) && decide (fn ≤ 0x12)) || fn == 0x18
    || (decide (0x21 ≤ fn) && decide (fn ≤ 0x2B)) || fn == 0x30 || fn == 0x3F

def vfInFmt (w : Word) : Bool :=
  let c := fmtCode w
  decide (c ≤ cE5M2) || codeBlock c
def vfOutFmt (w : Word) : Bool := vfInFmt w || fmtCode w == cINT8 || fmtCode w == cINT32

/-- A plane of a flat run of elements: bytes of elements and scales (R47). -/
def flatBytes (w : Word) (n : Nat) : Nat := if fmtBlock w then roundUp n (fmtBs w) else fmtBytes w n
def flatScales (w : Word) (n : Nat) : Nat := ceilDiv n (fmtBs w)

/-- An input of VECFN or COPY: its tile is 16 KiB of element bytes with its scales. -/
def flatIn (f : Nat) (on : Bool) (w : Word) (need : Nat) (h : Bool) : DField :=
  { f := f, on := on, need := need, role := rIn h, rows := 16384
    extra := if fmtBlock w then 16384 * 8 / max 1 (fmtBits w) / fmtBs w else 0 }

def State.vfSpecOf (s : State) (ctx : Nat) (h : Bool) (b : List Byte) : OpSpec :=
  let p := vfPar b
  let has (o : Nat) : Bool := u64At b o != 0
  let user := p.fn == 0x3F
  let rds := fnReads p.fn p.act (has 0x38, has 0x40, has 0x48)
  let y2 := p.fn == 0x30 || (user && has 0x58)
  let usesP0 := p.fn == 0x0A || p.fn == 0x22 || p.fn == 0x12 || user || ((p.fn == 0x18 || p.fn == 0x30) && p.act == 2)
  let usesP1 := p.fn == 0x12 || user
  let gate := p.fn == 0x18 || p.fn == 0x30
  let zeroCores := h && u64At b 0x30 == 0 && p.ncore == 0
  let paged := s.isSlotForm ctx (u64At b 0x50)
  let paged2 := s.isSlotForm ctx (u64At b 0x58)
  { len := 192
    bad :=
      [fmtCase (field (u32At b 0x08) 15 12 != 0 || field (u32At b 0x08) 31 24 != 0 || !zeroAt b 0x0C 4
        || field (u32At b 0x2C) 31 9 != 0 || !zeroAt b 0x88 56),
       fmtCase (!fnListed p.fn),
       fmtCase (if gate then p.act == 0 || decide (7 < p.act) else p.act != 0),
       fmtCase (!user && p.slot != 0),
       fmtCase ((!usesP0 && p.p0 != 0) || (!usesP1 && p.p1 != 0)),
       fmtCase ((p.fn == 0x22 || (p.fn == 0x30 && p.act == 2)) && !(Ext.zero.lt (v32 p.p0))),
       fmtCase ((!rds.1 && p.fmtX != 0) || (!rds.2.1 && p.fmtG != 0) || (!rds.2.2 && p.fmtDy != 0) || (!y2 && p.fmtY2 != 0)),
       fmtCase (!vfInFmt p.fmtX || !vfInFmt p.fmtG || !vfInFmt p.fmtDy || !vfOutFmt p.fmtY || !vfOutFmt p.fmtY2),
       fmtCase (fmtBad p.fmtX false || fmtBad p.fmtG false || fmtBad p.fmtDy false || fmtBad p.fmtY true
         || fmtBad p.fmtY2 true),
       rangeCase (decide (2 ^ 40 < p.n) || (!zeroCores && (p.ncore == 0 || decide (272 < p.ncore))))]
    fields :=
      [flatIn 7 rds.1 p.fmtX (flatBytes p.fmtX p.n) h,
       flatIn 8 rds.2.1 p.fmtG (flatBytes p.fmtG p.n) h,
       flatIn 9 rds.2.2 p.fmtDy (flatBytes p.fmtDy p.n) false,
       { f := 10, on := true, need := flatBytes p.fmtY p.n, role := rOut h, acc := accFmt p.fmtY },
       { f := 11, on := y2, need := flatBytes p.fmtY2 p.n, role := rOut false },
       { f := 12, on := rds.1 && fmtBlock p.fmtX, need := flatScales p.fmtX p.n, role := rInZ },
       { f := 13, on := rds.2.1 && fmtBlock p.fmtG, need := flatScales p.fmtG p.n, role := rInZ },
       { f := 14, on := rds.2.2 && fmtBlock p.fmtDy, need := flatScales p.fmtDy p.n, role := rInZ },
       { f := 15, on := fmtBlock p.fmtY && !paged, need := flatScales p.fmtY p.n, role := rOut false },
       { f := 16, on := y2 && fmtBlock p.fmtY2 && !paged2, need := flatScales p.fmtY2 p.n, role := rOut false }]
    cores := if zeroCores then none else some (u64At b 0x30, p.ncore)
    part := none
    fixed := []
    words := [] }

/-! ## NORM (R190, R191) -/

def nmFmt (w : Word) : Bool :=
  let c := fmtCode w
  decide (c ≤ cE5M2) || c == cBXE4 || c == cBXE5

def isF32orBf16 (w : Word) : Bool := fmtCode w == cFP32 || fmtCode w == cBF16

/-- Bytes of rows of L elements with blocks along L. -/
def rowsBytes (w : Word) (rows l : Nat) : Nat := if fmtBlock w then rows * roundUp l (fmtBs w) else fmtBytes w (rows * l)
def rowsScales (w : Word) (rows l : Nat) : Nat := rows * ceilDiv l (fmtBs w)

/-- The Platform need of R191. -/
def NmPar.need (p : NmPar) : Nat :=
  2 * (roundUp (fmtBytes p.fmtX p.l) 64 + (if p.bwd then roundUp (fmtBytes p.fmtDy p.l) 64 else 0)) + 65536

def State.nmSpecOf (s : State) (ctx : Nat) (h : Bool) (b : List Byte) : OpSpec :=
  let p := nmPar b
  let eps := v32 p.eps
  let hx := h && !p.bwd
  let paged := s.isSlotForm ctx (u64At b 0x38)
  let gb := p.gammaEn || p.betaEn
  let stats (f : Nat) (on : Bool) : DField :=
    { f := f, on := on, need := 4 * p.rows, role := if p.bwd then rInZ else rOut false }
  { len := 128
    bad :=
      [fmtCase (field p.flags 31 6 != 0 || field (u32At b 0x20) 31 9 != 0 || !zeroAt b 0x24 4),
       fmtCase (!nmFmt p.fmtX || !(if p.bwd then isF32orBf16 p.fmtY else nmFmt p.fmtY || fmtCode p.fmtY == cBXI8)
         || !isF32orBf16 p.fmtGb || !isF32orBf16 p.fmtDy),
       fmtCase (fmtBad p.fmtX false || fmtBad p.fmtY true || fmtBad p.fmtGb false || fmtBad p.fmtDy false),
       fmtCase (eps.isNan || eps.isInf || (eps.neg? && !eps.isZero)),
       fmtCase (p.bwd && (p.betaEn || p.statsOut || p.varOut)),
       fmtCase ((!gb && p.fmtGb != 0) || (!p.bwd && p.fmtDy != 0)),
       rangeCase (decide (2 ^ 24 < p.rows) || decide (131072 < p.l) || p.ncore == 0 || decide (272 < p.ncore)),
       rangeCase (decide (2 ^ 21 < p.need))]
    fields :=
      [{ f := 6, on := true, need := rowsBytes p.fmtX p.rows p.l, role := { rInZ with handOk := hx } },
       { f := 7, on := true, need := rowsBytes p.fmtY p.rows p.l, role := rOut hx },
       { f := 8, on := p.gammaEn, need := fmtBytes p.fmtGb p.l, role := rInZ },
       { f := 9, on := p.betaEn, need := fmtBytes p.fmtGb p.l, role := rInZ },
       { f := 10, on := p.bwd, need := fmtBytes p.fmtDy (p.rows * p.l), role := rInZ },
       stats 11 (p.layer && (p.statsOut || p.bwd)),
       stats 12 (p.statsOut || p.bwd),
       { f := 13, on := p.varOut, need := 4 * p.rows, role := rOut false },
       { f := 14, on := fmtBlock p.fmtX, need := rowsScales p.fmtX p.rows p.l, role := rInZ },
       { f := 15, on := fmtBlock p.fmtY && !paged, need := rowsScales p.fmtY p.rows p.l, role := rOut false }]
    cores := some (u64At b 0x28, p.ncore)
    part := none
    fixed := p.need :: (if p.gammaEn then [roundUp (fmtBytes p.fmtGb p.l) 64] else [])
      ++ (if p.betaEn then [roundUp (fmtBytes p.fmtGb p.l) 64] else [])
    words := [] }

/-! ## COPY (R243–R245) -/

/-- Whether a side of a COPY with a given compression flag has a code that R244 rejects. -/
def compBad (comp : Bool) (w : Word) : Bool := comp && (fmtBlock w || fmtCode w == cINT4)

/-- The checks on a checkpoint record that a command names (R203, R224, R254). -/
def State.ckptChecks (s : State) (ctx va tag : Nat) : List (Bool × Byte) :=
  if va % 64 ≠ 0 ∨ 2 ^ 52 ≤ va then [rangeCase true]
  else
    match s.rdRecord ctx va 64 with
    | none => [(true, s.recBad ctx va 64)]
    | some b => [fmtCase (ckptBad b tag), rangeCase (decide (2 ^ 52 ≤ u64At b 0x10) || decide (2 ^ 52 ≤ u64At b 0x20))]

/-- The words of a checkpoint record that a store writes (R202, R498). -/
def ckptWords (va : Nat) : List (Nat × Nat × Nat × Bool) := [(va + 8, 8, 8, false), (va + 0x18, 8, 8, false), (va + 4, 4, 4, true)]

/-- The start address of a stream. -/
def State.startVa (s : State) (ctx : Nat) (d : Desc) : Option Nat :=
  match s.slocOf ctx d 0 with
  | .va a => some a
  | _ => none

/-- The descriptor at an address, when it can be read. -/
def State.descAt (s : State) (ctx va : Nat) : Option Desc :=
  if va % 64 = 0 ∧ va < 2 ^ 52 then (s.rdRecord ctx va 128).map parseDesc else none

def State.cpSpecOf (s : State) (ctx : Nat) (b : List Byte) : OpSpec :=
  let p := cpPar b
  let locOk := match s.descAt ctx (u64At b 0x30), s.rdRecord ctx p.ckpt 64 with
    | some d, some r => s.startVa ctx d == some (parseCkpt r).loc
    | _, _ => true
  let paged := s.isSlotForm ctx (u64At b 0x30)
  let ck := p.ckptEn && p.ckpt != 0
  { len := 128
    bad :=
      [fmtCase (field p.flags 31 3 != 0 || field (u32At b 0x0C) 31 9 != 0 || !zeroAt b 0x1C 4 || !zeroAt b 0x50 48),
       fmtCase (fmtBad p.fmtS false || fmtBad p.fmtD true),
       fmtCase (fmtCode p.fmtS == cFP32P || fmtCode p.fmtD == cFP32P || fmtXmode p.fmtS != 0 || fmtXmode p.fmtD != 0),
       fmtCase ((p.compIn || p.compOut) && (compBad true p.fmtS || compBad true p.fmtD)),
       fmtCase (p.ckptEn == (p.ckpt == 0)),
       fmtCase (!p.ckptEn && p.tag != 0),
       fmtCase (ck && !locOk),
       rangeCase (decide (2 ^ 40 < p.n) || p.ncore == 0 || decide (272 < p.ncore))]
      ++ (if ck then s.ckptChecks ctx p.ckpt p.tag.toNat else [])
    fields :=
      [flatIn 5 true p.fmtS (if p.compIn then (if p.n = 0 then 0 else 64) else flatBytes p.fmtS p.n) false,
       { f := 6, on := true, need := if p.compOut then (if p.n = 0 then 0 else 64) else flatBytes p.fmtD p.n, role := rOut false },
       { f := 7, on := fmtBlock p.fmtS, need := flatScales p.fmtS p.n, role := rInZ },
       { f := 8, on := fmtBlock p.fmtD && !paged, need := flatScales p.fmtD p.n, role := rOut false }]
    cores := some (u64At b 0x20, p.ncore)
    part := none
    fixed := []
    words := if ck then ckptWords p.ckpt else [] }

/-! ## UPDATE (R215, R221) -/

def upWFmt (w : Word) : Bool :=
  let c := fmtCode w
  c == cBF16 || c == cE4M3 || c == cE5M2 || c == cBXE4 || c == cBXE5

/-- Whether every logical byte of a stream lies in HBM pages without DC (R208, R221, R239). -/
def State.inHbm (s : State) (ctx : Nat) (d : Desc) (n : Nat) : Bool :=
  (s.piecesOf ctx d 0 n).all (fun p =>
    match p.loc with
    | .va a =>
      match s.locAt ctx a with
      | some (.hbm _) => !((s.walk ctx a).map (·.dc)).getD false
      | _ => false
    | _ => false)

/-- Whether a byte of a range of addresses translates to a place outside HBM; one that does not translate is R498's case. -/
def State.offHbm (s : State) (ctx va n : Nat) : Bool :=
  (List.range n).any (fun i =>
    match s.locAt ctx (va + i) with
    | some (.hbm _) => false
    | some _ => true
    | none => false)

/-- The frames that a paged write of n bytes reaches lie in HBM, holes apart. -/
def State.slotInHbm (s : State) (ctx n : Nat) (d : Desc) : Bool :=
  match d.body with
  | .slot sl plane ly sq tok0 =>
    let t := s.tblSlot 1 sl
    match t.kv with
    | none => true
    | some kv =>
      let w := if plane = 1 then kv.fmtV else kv.fmtK
      let row := if plane = 2 then 4 else max 1 kv.hkv * fmtBytes w kv.d
      let stop := tok0 + ceilDiv n (max 1 row)
      let pages := ((t.pages t.gen.toNat sq).take (ceilDiv stop 64)).drop (tok0 / 64)
      pages.all (fun f => f == hole ||
        (List.range (kv.frameBytes / 4096)).all (fun i =>
          match s.locAt ctx (kv.frameVa plane ly f (4096 * i)) with
          | some (.hbm _) => true
          | _ => false))
  | _ => false

/-- The range case of a tensor of UPDATE: it does not lie wholly in HBM. -/
def State.hbmCase (s : State) (ctx va n : Nat) : Bool × Byte :=
  rangeCase (match s.descAt ctx va with
    | some d => va != 0 && !s.slotInHbm ctx n d && !s.inHbm ctx d n
    | none => false)

/-- Whether a RELEASE finds no lease on its word (R380), or the entry of a word belongs to another context (R390). -/
def State.leaseBad (s : State) (ctx va : Nat) (release : Bool) : Bool :=
  match s.hbmWordAt ctx va with
  | none => false
  | some pa =>
    match (s.leaseKey pa).bind (fun k => Tab.get none s.yard.leases k) with
    | none => release
    | some l => l.ctx != ctx || (release && l.leases == 0)

def State.upSpecOf (s : State) (ctx : Nat) (b : List Byte) : OpSpec :=
  let p := upPar b
  let n := p.rows * p.cols
  let has (o : Nat) : Bool := u64At b o != 0
  let block (w : Word) : Bool := fmtBlock w
  let sizeOk := decide (p.rows < 2 ^ 32) && decide (p.cols ≤ 2 ^ 24) && decide (n ≤ 2 ^ 40)
  let wB := rowsBytes p.fmtW p.rows p.cols
  let w2B := rowsBytes p.fmtW2 p.cols p.rows
  let wS := rowsScales p.fmtW p.rows p.cols
  let w2S := rowsScales p.fmtW2 p.cols p.rows
  { len := 192
    bad :=
      [fmtCase (field p.optw 31 5 != 0 || p.opt == 3 || !zeroAt b 0x38 8 || !zeroAt b 0x90 48),
       fmtCase (!isF32orBf16 p.fmtG || !isF32orBf16 p.fmtM || !isF32orBf16 p.fmtV || (has 0x60 && !upWFmt p.fmtW)
         || (has 0x70 && !upWFmt p.fmtW2)),
       fmtCase (fmtBad p.fmtG false || fmtBad p.fmtM true || fmtBad p.fmtV true || fmtBad p.fmtW true || fmtBad p.fmtW2 true
         || (block p.fmtW && fmtSat p.fmtW) || (block p.fmtW2 && fmtSat p.fmtW2)),
       fmtCase ((p.biascorr && p.opt != 1) || (p.nesterov && p.opt != 0)),
       fmtCase (!has 0x50 && (p.opt != 0 || !fIsZero p.b1)),
       fmtCase (has 0x58 != (p.opt == 1)),
       fmtCase ((!has 0x50 && p.fmtM != 0) || (!has 0x58 && p.fmtV != 0) || (has 0x60 == (p.fmtW == 0))
         || (has 0x70 == (p.fmtW2 == 0))),
       fmtCase (!finite32 p.lr || !finite32 p.b1 || !finite32 p.b2 || !finite32 p.eps || !finite32 p.wd || !finite32 p.gscale),
       fmtCase ((p.opt == 0 && p.b2 != 0) || (p.opt != 1 && p.eps != 0)),
       fmtCase (!has 0x40 || !has 0x48 || p.ctrl == 0),
       rangeCase (!sizeOk),
       rangeCase (p.ctrl != 0 && s.offHbm ctx p.ctrl 16),
       rangeCase (p.wgen != 0 && (s.offHbm ctx p.wgen 4 || s.leaseBad ctx p.wgen false))]
      ++ (if sizeOk then
        [s.hbmCase ctx (u64At b 0x40) (4 * n), s.hbmCase ctx (u64At b 0x48) (fmtBytes p.fmtG n),
         s.hbmCase ctx (u64At b 0x50) (fmtBytes p.fmtM n), s.hbmCase ctx (u64At b 0x58) (fmtBytes p.fmtV n),
         s.hbmCase ctx (u64At b 0x60) wB, s.hbmCase ctx (u64At b 0x68) wS, s.hbmCase ctx (u64At b 0x70) w2B,
         s.hbmCase ctx (u64At b 0x78) w2S] else [])
    fields :=
      [{ f := 8, on := true, need := 4 * n, role := rOutZ },
       { f := 9, on := true, need := fmtBytes p.fmtG n, role := if p.zeroGrad then rOutZ else rEng },
       { f := 10, on := has 0x50, need := fmtBytes p.fmtM n, role := rOutZ },
       { f := 11, on := has 0x58, need := fmtBytes p.fmtV n, role := rOutZ },
       { f := 12, on := has 0x60, need := wB, role := rOutP },
       { f := 13, on := has 0x60 && block p.fmtW && !s.isSlotForm ctx (u64At b 0x60), need := wS, role := rOutP },
       { f := 14, on := has 0x70, need := w2B, role := rOutP },
       { f := 15, on := has 0x70 && block p.fmtW2 && !s.isSlotForm ctx (u64At b 0x70), need := w2S, role := rOutP }]
    cores := none
    part := none
    fixed := []
    words := (if p.ctrl = 0 then [] else [(p.ctrl, 16, 16, true)]) ++ (if p.wgen = 0 then [] else [(p.wgen, 4, 4, true)]) }

/-! ## MIGRATE, SIGNAL, FENCE, STEP_LOOP -/

/-- MIGRATE. FMT names what the shunting engine both decodes and encodes: a word that R39 allows in either role passes (DESIGN CHOICE, log 106). -/
def mgSpecOf (b : List Byte) : OpSpec :=
  let p := mgPar b
  { OpSpec.none with
    len := 64
    bad :=
      [fmtCase (field p.flags 31 5 != 0 || !zeroAt b 0x0C 4 || !zeroAt b 0x28 24),
       fmtCase (!(p.tier == 0 || p.tier == 1 || p.tier == 3)),
       fmtCase (p.tier == 1 && (p.comp || p.dc)),
       fmtCase (p.comp && p.dc),
       fmtCase (fmtBad p.fmt false && fmtBad p.fmt true),
       rangeCase (decide (65536 < p.npages)),
       rangeCase (decide (2 ^ 52 ≤ p.list) || decide (2 ^ 52 ≤ p.dst) || decide (2 ^ 52 ≤ p.out))] }

def lpSpecOf (b : List Byte) : OpSpec :=
  let p := lpPar b
  { OpSpec.none with
    len := 64
    bad :=
      [fmtCase (field p.flags 31 4 != 0 || !zeroAt b 0x18 40),
       rangeCase (p.nbody == 0 || decide (4096 < p.nbody) || p.body % 128 != 0 || decide (2 ^ 52 ≤ p.body))] }

/-! ## Attention (R128–R131, R147) -/

/-- The bytes of a stream, for a unit that reads it whole at admission. -/
def State.descBytes (s : State) (ctx : Nat) (d : Desc) (o n : Nat) : List Byte :=
  (List.range n).map (fun i =>
    match s.slocOf ctx d (o + i) with
    | .va a => s.rdByte ctx a
    | _ => 0)

/-- Why a unit cannot read the bytes of a stream. -/
def State.descBad (s : State) (ctx : Nat) (d : Desc) (o n : Nat) : Option Byte :=
  ((s.piecesOf ctx d o n).findSome? (s.pieceFault ctx false true)).map (·.1)

/-- The sequence records of an attention command, from its LEN descriptor. -/
def State.seqsOf (s : State) (ctx : Nat) (p : AtPar) (b : List Byte) : List Byte × List SeqRec :=
  match s.descAt ctx (u64At b 0x90) with
  | some d =>
    let n := min p.nseq 65535
    let raw := s.descBytes ctx d 0 (32 * n)
    (raw, (List.range n).map (parseSeq raw))
  | none => ([], [])

def fp8Family (w : Word) : Bool :=
  let c := fmtCode w
  c == cE4M3 || c == cE5M2 || c == cBXE4 || c == cBXE5

/-- R130 and the formats of R141. -/
def atFmtBad (p : AtPar) : Bool :=
  if p.bwd then
    !(fmtCode p.fmtQ == cBF16 && fmtCode p.fmtK == cBF16 && fmtCode p.fmtV == cBF16 && fmtCode p.fmtO == cBF16
      && fmtCode p.fmtDo == cBF16 && isF32orBf16 p.fmtDq && isF32orBf16 p.fmtDkv)
      || fmtBad p.fmtO false || fmtBad p.fmtDo false || fmtBad p.fmtDq true || fmtBad p.fmtDkv true
  else
    !((fmtCode p.fmtQ == cBF16 && fmtCode p.fmtK == cBF16 && fmtCode p.fmtV == cBF16)
      || (fp8Family p.fmtQ && fp8Family p.fmtK && fp8Family p.fmtV))
      || (fmtBlock p.fmtQ && fmtBlock p.fmtK && fmtBlk16 p.fmtQ != fmtBlk16 p.fmtK)
      || !(fmtCode p.fmtO == cFP32 || fmtCode p.fmtO == cBF16 || fp8Family p.fmtO)
      || fmtBad p.fmtO true || (fmtBlock p.fmtO && fmtSat p.fmtO)

/-- A sequence record that breaks R125 or R126. -/
def AtPar.seqBad (p : AtPar) (raw : List Byte) (i : Nat) : Bool :=
  let r := parseSeq raw i
  !zeroAt raw (32 * i + 0x18) 8 || (p.paged && r.kOff != 0)
    || (p.ringEn && (r.kPos0 != r.qPos0 || r.qLen != r.kLen || r.qLen % (if p.zigzag then 128 else 64) != 0))

/-- Tokens of the local shard that a chunk carries (R135): those of the key tensors. -/
def chunkTokens (l : List SeqRec) : Nat := kTokens l

/-- Whether a range of addresses lies in the Depot scratchpad or HBM and may be read and written. -/
def State.ringBufOk (s : State) (ctx va n : Nat) : Bool :=
  (List.range (n / 65536 + 2)).all (fun i =>
    let a := if i = 0 then va else min (va + n - 1) ((va / 65536 + i) * 65536)
    let ok (wr : Bool) : Bool := match s.acc ctx a wr with
      | .plain (.hbm _) => true
      | .plain (.depot _) => true
      | _ => false
    n == 0 || (ok true && ok false))

def State.atSpecOf (s : State) (ctx : Nat) (h : Bool) (op : Nat) (b : List Byte) : OpSpec :=
  let p := atPar op b
  let sq := s.seqsOf ctx p b
  let tq := qTokens sq.2
  let tk := kTokens sq.2
  let reads := match s.descAt ctx (u64At b 0x90) with
    | some d => s.descBad ctx d 0 (32 * min p.nseq 65535)
    | none => none
  let kv := !p.paged
  let paged := !p.bwd && s.isSlotForm ctx (u64At b 0x60)
  let ringBad := p.ringEn && (
    decide (p.ringBytes < 2 * p.slotBytes (chunkTokens sq.2) + 4096)
      || !(s.cfg.portUse.getLsbD 6 && s.cfg.portUse.getLsbD 7)
      || (s.cfg.profile == .express && !s.hasWindow 6 (p.ttClass % 256))
      || decide (2 ^ 52 ≤ p.ringBuf) || !s.ringBufOk ctx p.ringBuf p.ringBytes)
  { len := 256
    bad :=
      [fmtCase (field p.shape 15 9 != 0 || field p.shape 23 18 != 0 || field p.shape 31 27 != 0
        || field p.flags 31 8 != 0 || field p.ring 7 5 != 0 || field p.ring 31 13 != 0 || field p.ttClass 31 8 != 0
        || field (u32At b 0x34) 31 9 != 0),
       fmtCase (if p.bwd then !zeroAt b 0xC4 4 || !zeroAt b 0xF8 8 || p.lseEn
         else !zeroAt b 0x38 8 || !zeroAt b 0xC0 64 || p.accum || p.deltaOut),
       fmtCase (atFmtBad p || fmtBad p.fmtQ false || fmtBad p.fmtK false || fmtBad p.fmtV false),
       fmtCase (p.qmbCode == 3 || (p.qmb == 4 && (fmtBlock p.fmtQ || fmtBlock p.fmtK))),
       fmtCase ((p.zigzag && !p.ringEn) || (p.paged && p.ringEn)),
       fmtCase ((List.range sq.2.length).any (p.seqBad sq.1)),
       fmtCase (fmtBlock p.fmtV && sq.2.any (fun r => r.kOff % 64 != 0)),
       fmtCase (!finite32 p.scale),
       fmtCase (!p.ringEn && (p.ring != 0 || p.ringTag != 0 || p.ttClass != 0 || p.ringBuf != 0 || p.ringBytes != 0)),
       rangeCase (decide (65535 < p.nseq) || p.hq == 0 || decide (256 < p.hq) || p.hkv == 0 || decide (256 < p.hkv)
         || p.d == 0 || decide (256 < p.d) || p.ncore == 0 || decide (272 < p.ncore)
         || decide (p.ringLen ≤ p.ringPos)),
       rangeCase (p.hq % max 1 p.hkv != 0),
       rangeCase ringBad,
       (reads.isSome, reads.getD stXlate)]
    fields :=
      [{ f := 9, on := true, need := p.tensor p.fmtQ tq p.hq, role := rInZ },
       { f := 10, on := kv, need := p.tensor p.fmtK tk p.hkv, role := rInZ },
       { f := 11, on := kv, need := p.tensor p.fmtV tk p.hkv, role := rInZ },
       { f := 12, on := true, need := p.tensor p.fmtO tq p.hq
         role := if p.bwd then rInZ else { rOutP with handOk := h } },
       { f := 13, on := p.lseEn || p.bwd, need := 4 * tq * p.hq, role := if p.bwd then rInZ else rOutP },
       { f := 14, on := fmtBlock p.fmtQ, need := p.scaleD p.fmtQ tq p.hq, role := rInZ },
       { f := 15, on := kv && fmtBlock p.fmtK, need := p.scaleD p.fmtK tk p.hkv, role := rInZ },
       { f := 16, on := kv && fmtBlock p.fmtV, need := p.scaleT p.fmtV tk p.hkv, role := rInZ },
       { f := 17, on := !p.bwd && fmtBlock p.fmtO && !paged, need := p.scaleD p.fmtO tq p.hq, role := rOutP },
       { f := 18, on := true, need := 32 * p.nseq, role := rEng },
       { f := 19, on := p.segEn, need := 4 * (if p.paged then tq else max tq tk), role := rInZ },
       { f := 20, on := p.paged, need := 0, role := rSlot },
       { f := 21, on := p.paged, need := 0, role := rSlot }]
      ++ (if p.bwd then
        [{ f := 25, on := true, need := p.tensor p.fmtDo tq p.hq, role := rInZ },
         { f := 26, on := true, need := p.tensor p.fmtDq tq p.hq, role := rOutP },
         { f := 27, on := true, need := p.tensor p.fmtDkv tk p.hkv, role := rOutP },
         { f := 28, on := true, need := p.tensor p.fmtDkv tk p.hkv, role := rOutP },
         { f := 29, on := p.deltaOut, need := 4 * tq * p.hq, role := rOutP },
         { f := 30, on := p.accum, need := p.tensor 0 tq p.hq, role := rOutP, acc := true }] else [])
    cores := some (u64At b 0x40, p.ncore)
    part := none
    fixed := [p.need]
    words := [] }

/-! ## The Yard (R377–R380) -/

/-- Whether a range of addresses lies in TIER 1 pages and may be read and written. -/
def State.inDepot (s : State) (ctx va n : Nat) : Bool :=
  (List.range (n / 65536 + 2)).all (fun i =>
    let a := if i = 0 then va else min (va + n - 1) ((va / 65536 + i) * 65536)
    let ok (wr : Bool) : Bool := match s.acc ctx a wr with
      | .plain (.depot _) => true
      | _ => false
    n == 0 || (ok true && ok false))

/-- The job entry of a JOB (R373). -/
def State.jobKey (s : State) (job : Nat) : Option Nat :=
  (s.yard.jobs.find? (fun e =>
    match e.2 with
    | some j => j.job == job
    | none => false)).map (·.1)

def State.jobOf (s : State) (job : Nat) : Option Job := (s.jobKey job).bind (fun k => Tab.get none s.yard.jobs k)

def State.ydSpecOf (s : State) (ctx op : Nat) (b : List Byte) : OpSpec :=
  let p := ydPar b
  let na := s.cfg.node.size p.axis
  let red := op == 0x09
  let gat := op == 0x0A
  let per := op == 0x0B
  let slots := 2 * (if per then na - 1 else 2) * 262144 + 4096
  let sendRaw := if per ∧ p.list < 2 ^ 52 ∧ p.n ≤ 65536 then s.rdRecord ctx p.list (32 * p.n) else some []
  let emem := red && p.comp != 0
  let wordBad (va : Nat) : Bool := va != 0 && (va % 4 != 0 || decide (2 ^ 52 ≤ va))
  let jobBad := match s.jobOf p.job with
    | some j => j.ctx != ctx
    | none => false
  let inNeed := if red then fmtBytes p.fmtIn p.n else if gat then p.n
    else (match sendRaw with
      | some raw => (List.range p.n).foldl (fun a i => max a ((parseSend raw i).src + (parseSend raw i).bytes)) 0
      | none => 0)
  let own := s.cfg.node.own p.axis
  let outNeed := if red then fmtBytes p.fmtOut p.n else if gat then na * p.n
    else (match sendRaw with
      | some raw => (List.range (raw.length / 32)).foldl (fun a i =>
          let e := parseSend raw i
          if e.dest = own then max a (e.dst + e.bytes) else a) 0
      | none => 0)
  { len := 128
    bad :=
      [fmtCase (field p.gword 31 12 != 0 || !zeroAt b 0x13 1 || !zeroAt b 0x78 8),
       fmtCase (if red then decide (p.comp = 0 ∧ p.kshift ≠ 0) || decide (p.comp = 1 ∧ p.kshift ≠ 0) || p.lease || p.release
           || !zeroAt b 0x40 24 || !zeroAt b 0x68 16
         else if gat then field p.gword 9 2 != 0 || !zeroAt b 0x14 20 || !zeroAt b 0x68 16 || u64At b 0x38 != 0
         else field p.gword 11 2 != 0 || !zeroAt b 0x14 20 || !zeroAt b 0x38 32),
       fmtCase (red && (!isF32orBf16 p.fmtIn || !isF32orBf16 p.fmtOut || fmtBad p.fmtIn false || fmtBad p.fmtOut true
         || fmtBad p.fmtWire true || !finite32 p.scale
         || (if p.comp = 0 then !(fmtCode p.fmtWire == cFP32 || (fmtCode p.fmtWire == cBF16 && fmtRnd p.fmtWire == 0))
             else p.fmtWire != 0)
         || (if p.comp = 3 then !finite32 p.onebitMax || ((v32 p.onebitMax).neg? && !fIsZero p.onebitMax)
             else p.onebitMax != 0))),
       fmtCase (red && decide (2 ≤ p.comp) && (decide (p.kshift < 4) || decide (16 < p.kshift))),
       fmtCase (gat && (p.n % 64 != 0 || (p.lease && p.release))),
       fmtCase (gat && p.wgen == 0 && (p.lease || p.release || p.genOut != 0 || p.expect != 0)),
       fmtCase (per && (match sendRaw with
         | some raw => (List.range (raw.length / 32)).any (sendBad raw na)
         | none => false)),
       rangeCase (decide ((if per then 65536 else 2 ^ 36) < p.n)),
       rangeCase (if na = 1 then p.stage != 0 || p.stageBytes != 0
         else decide (p.stageBytes < slots) || decide (2 ^ 52 ≤ p.stage) || !s.inDepot ctx p.stage p.stageBytes),
       rangeCase (gat && (wordBad p.wgen || wordBad p.genOut || wordBad p.expect)),
       rangeCase (gat && p.wgen != 0 && (s.hbmWordAt ctx p.wgen).isNone),
       rangeCase jobBad,
       rangeCase (s.cfg.profile == .express && !(axisPorts p.axis).all (fun k => s.hasWindow k p.ttClass)),
       rangeCase (gat && (p.lease || p.release) && s.leaseBad ctx p.wgen p.release),
       rangeCase (per && decide (2 ^ 52 ≤ p.list)),
       (sendRaw.isNone, s.recBad ctx p.list (32 * p.n))]
    fields :=
      [{ f := 5, on := true, need := inNeed, role := rEng },
       { f := 6, on := true, need := outNeed, role := rOutZ },
       { f := 7, on := emem, need := 4 * p.n, role := rOutZ }]
    cores := none
    part := none
    fixed := []
    words := if gat ∧ p.genOut ≠ 0 then [(p.genOut, 4, 4, false)] else [] }

/-! ## All families -/

/-- What an operation asks for; `h` says that it is a stage of a chain. -/
def State.specOf (s : State) (ctx : Nat) (h : Bool) (op : Nat) (b : List Byte) : OpSpec :=
  match op with
  | 0x01 => s.mmSpecOf ctx h b
  | 0x02 => s.cvSpecOf ctx h b
  | 0x03 => s.atSpecOf ctx h op b
  | 0x04 => s.atSpecOf ctx h op b
  | 0x05 => s.vfSpecOf ctx h b
  | 0x06 => s.nmSpecOf ctx h b
  | 0x07 => s.cpSpecOf ctx b
  | 0x08 => mgSpecOf b
  | 0x09 => s.ydSpecOf ctx op b
  | 0x0A => s.ydSpecOf ctx op b
  | 0x0B => s.ydSpecOf ctx op b
  | 0x0C => s.upSpecOf ctx b
  | 0x0F => lpSpecOf b
  | _ => OpSpec.none

/-- Bytes of the parameter block of a family (R79, R106, R128, R183, R190, R215, R243, R246, R313, R378); SIGNAL and
FENCE have none. -/
def pbLen (op : Nat) : Nat :=
  match op with
  | 0x01 => 192
  | 0x02 => 256
  | 0x03 => 256
  | 0x04 => 256
  | 0x05 => 192
  | 0x06 => 128
  | 0x07 => 128
  | 0x08 => 64
  | 0x09 => 128
  | 0x0A => 128
  | 0x0B => 128
  | 0x0C => 192
  | 0x0F => 64
  | _ => 0

end Sys2Proof.Machine
end

