-- ==== Sys2Proof/Machine/Validate.lean ====
section
/-!
DEFINITION. Step 1 of admission (R300): reading and checking the parameter blocks, chain record, stream descriptors,
core lists, words of R498, dual-path and checkpoint records; and the resources that R301 reserves.
-/
namespace Sys2Proof.Machine

/-! ## Descriptors and tiles -/

/-- The update engine that serves a stack: its own, or the stand-in of the other complex on its edge (R26). -/
def State.engineOf (s : State) (st : Nat) : Option Nat :=
  let other := if st % 2 = 0 then st + 1 else st - 1
  if !s.inv.engineBad.contains st then some st else if !s.inv.engineBad.contains other then some other else none

/-- The stacks that hold the first `n` bytes of a stream. -/
def State.stacksOf (s : State) (ctx : Nat) (d : Desc) (n : Nat) : List Nat :=
  ((s.piecesOf ctx d 0 n).filterMap (fun p =>
    match p.loc with
    | .va a =>
      match s.locAt ctx a with
      | some (.hbm pa) => some (s.stackOf pa)
      | _ => none
    | _ => none)).eraseDups

/-- A stream reaches a stack that no update engine serves. -/
def State.engineless (s : State) (ctx : Nat) (d : Desc) (n : Nat) : Bool :=
  (s.stacksOf ctx d n).any (fun st => (s.engineOf st).isNone)

/-- The pitch in lines of a panel (R266): PITCH, or the smallest odd number of lines that holds a row. -/
def panelLines (d : Desc) (row : Nat) : Nat :=
  if d.pitch ≠ 0 then d.pitch
  else
    let l := max 1 (ceilDiv row 64)
    if l % 2 = 0 then l + 1 else l

/-- The bytes of one tile of a stream (R265, R266). -/
def DField.tileBytes (x : DField) (d : Desc) : Nat :=
  roundUp ((if x.row = 0 then x.rows else x.rows * panelLines d x.row * 64) + x.extra) 64

/-- The bytes of its buffer on each core. -/
def DField.bufBytes (x : DField) (d : Desc) : Nat := (d.ra + 1) * x.tileBytes d

/-- A descriptor is the hand-over form, the table-slot form. -/
def Desc.isHand (d : Desc) : Bool :=
  match d.body with
  | .hand _ _ _ _ _ => true
  | _ => false

def Desc.isSlot (d : Desc) : Bool :=
  match d.body with
  | .slot _ _ _ _ _ => true
  | _ => false

/-- The checks of one descriptor field, and its descriptor (R254, R256–R260, R208, R239). Of UPDATE the stacks of the master weights must be
served (R26, R214). -/
def State.fieldPlan (s : State) (ctx op : Nat) (pb : List Byte) (x : DField) : List (Bool × Byte) × Option (Nat × Desc) :=
  let a := u64At pb (8 * x.f)
  if !x.on then ([fmtCase (a != 0)], none)
  else if a = 0 then ([fmtCase true], none)
  else if a % 64 ≠ 0 ∨ 2 ^ 52 ≤ a then ([rangeCase true], none)
  else
    match s.rdRecord ctx a 128 with
    | none => ([(true, s.recBad ctx a 128)], none)
    | some b =>
      let d := parseDesc b
      let accOn := d.acc || (x.acc && op == 4)
      let bad := descFormat x.role b
      let n := min x.need (d.extent.getD x.need)
      ([fmtCase bad, rangeCase (descRange b),
        rangeCase (match d.extent with
          | some e => decide (e < x.need)
          | none => false),
        fmtCase (d.pitch != 0 && x.row != 0 && decide (d.pitch * 64 < x.row)),
        fmtCase ((op == 3 || op == 4) && (x.f == 20 || x.f == 21) && !d.isSlot),
        fmtCase ((op == 9 || op == 10 || op == 11) && (d.isSlot || d.isHand)),
        fmtCase (accOn && (!x.acc || !d.accAligned)),
        rangeCase (accOn && x.acc && !descRange b && !s.inHbm ctx d n),
        (((accOn && x.acc) || (op == 0x0C && x.f == 8)) && !descRange b && s.engineless ctx d n, stResource)],
       if bad || descRange b then none else some (x.f, d))

/-! ## Core lists and words -/

/-- The core of an entry (R79), as die × 144 + site. -/
def coreOf (e : Nat) : Nat := 144 * field e 8 8 + 12 * field e 7 4 + field e 3 0

/-- An entry that R81 refuses. -/
def State.coreBad (s : State) (e : Nat) : Bool :=
  field e 15 9 != 0 || decide (11 < field e 3 0) || decide (11 < field e 7 4) || !s.siteEnabled (coreOf e)

/-- The checks of a core list, and its cores. -/
def State.corePlan (s : State) (ctx : Nat) (cl : Option (Nat × Nat)) : List (Bool × Byte) × List Nat :=
  match cl with
  | none => ([], [])
  | some (a, n) =>
    if 2 ^ 52 ≤ a then ([rangeCase true], [])
    else if 272 < n then ([], [])
    else
      match s.rdRecord ctx a (2 * n) with
      | none => ([(true, s.recBad ctx a (2 * n))], [])
      | some b =>
        let es := (List.range n).map (fun i => u16At b (2 * i))
        let cs := es.map coreOf
        ([rangeCase (es.any s.coreBad || decide (cs.eraseDups.length < n))], cs)

/-- The checks of a word that the command writes at its retire point (R498). -/
def State.wordPlan (s : State) (ctx : Nat) (w : Nat × Nat × Nat × Bool) : List (Bool × Byte) :=
  if w.1 % w.2.2.1 ≠ 0 ∨ 2 ^ 52 ≤ w.1 + w.2.1 then [rangeCase true]
  else [((s.rangeFault ctx w.1 w.2.1 true).isSome || (w.2.2.2 && (s.rangeFault ctx w.1 w.2.1 false).isSome), stXlate)]

/-! ## One stage -/

/-- The records that admission reads whole (R125, R392). -/
def State.recsOf (s : State) (ctx op : Nat) (pb : List Byte) : List Byte :=
  if op = 3 ∨ op = 4 then (s.seqsOf ctx (atPar op pb) pb).1
  else if op = 11 ∧ (ydPar pb).list < 2 ^ 52 ∧ (ydPar pb).n ≤ 65536 then
    (s.rdRecord ctx (ydPar pb).list (32 * (ydPar pb).n)).getD []
  else []

/-- The sequence records of an attention stage, as latched. -/
def Stage.seqs (st : Stage) : List SeqRec := (List.range (st.recs.length / 32)).map (parseSeq st.recs)

/-- The send entries of a PERMUTE stage, as latched. -/
def Stage.sends (st : Stage) : List SendEnt := (List.range (st.recs.length / 32)).map (parseSend st.recs)

/-- A stage as validated: itself, what its operation asks for, its failing checks. -/
structure StagePlan where
  st   : Stage
  spec : OpSpec
  bad  : List (Bool × Byte)

def StagePlan.empty (op : Nat) (bad : List (Bool × Byte)) : StagePlan := ⟨⟨op, [], [], [], []⟩, OpSpec.none, bad⟩

/-- Read and check one stage whose parameter block lies at `a`; `h` says that it belongs to a chain. -/
def State.stagePlan (s : State) (ctx : Nat) (h : Bool) (op a : Nat) : StagePlan :=
  if pbLen op = 0 then StagePlan.empty op []
  else if a % 64 ≠ 0 ∨ 2 ^ 52 ≤ a then StagePlan.empty op [rangeCase true]
  else
    match s.rdRecord ctx a (pbLen op) with
    | none => StagePlan.empty op [(true, s.recBad ctx a (pbLen op))]
    | some pb =>
      let z := s.specOf ctx h op pb
      let fs := z.fields.map (s.fieldPlan ctx op pb)
      let cs := s.corePlan ctx z.cores
      ⟨⟨op, pb, fs.filterMap (·.2), cs.2, s.recsOf ctx op pb⟩, z,
       z.bad ++ fs.flatMap (·.1) ++ cs.1 ++ z.words.flatMap (s.wordPlan ctx)⟩

/-! ## Buffers (R70, R266) -/

/-- The explicit buffers of a stage on each of its cores: offset and bytes; the partial region among them. -/
def StagePlan.placed (p : StagePlan) : List (Nat × Nat) :=
  let bufs := p.spec.fields.filterMap (fun x =>
    match p.st.descs.find? (fun d => d.1 == x.f) with
    | some (_, d) => if x.role.honoured && !d.platAuto && !d.isHand then some (d.platOff, x.bufBytes d) else none
    | none => none)
  bufs ++ p.spec.part.toList

/-- The buffers that admission places, in order. -/
def StagePlan.auto (p : StagePlan) : List Nat :=
  p.spec.fields.filterMap (fun x =>
    match p.st.descs.find? (fun d => d.1 == x.f) with
    | some (_, d) => if x.role.honoured && d.platAuto && !d.isHand then some (x.bufBytes d) else none
    | none => none) ++ p.spec.fixed

/-- The watch windows of a stage on each of its cores (R273). -/
def StagePlan.windows (p : StagePlan) : Nat :=
  p.st.descs.foldl (fun a d => a + d.2.watchN) 0

/-- Two ranges (offset, bytes) overlap. -/
def overlaps (a b : Nat × Nat) : Bool := decide (a.1 < b.1 + b.2) && decide (b.1 < a.1 + a.2)

/-- Some two ranges of a list overlap. -/
def anyOverlap : List (Nat × Nat) → Bool
  | [] => false
  | r :: t => t.any (overlaps r) || anyOverlap t

/-- The lowest 64-aligned offset of a Platform where `n` bytes avoid the ranges (start, end) of a list (R266). -/
def lowestFree (used : List (Nat × Nat)) (n : Nat) : Option Nat :=
  let cands := 0 :: used.map (fun r => roundUp r.2 64)
  let ok (o : Nat) : Bool := decide (o + n ≤ 2 ^ 21) && !used.any (fun r => decide (r.1 < o + n) && decide (o < r.2))
  match cands.filter ok with
  | [] => none
  | o :: t => some (t.foldl min o)

/-- Place buffers one after another; the ranges (start, end) they take, `none` when one does not fit. -/
def placeAll (used : List (Nat × Nat)) : List Nat → Option (List (Nat × Nat))
  | [] => some []
  | n :: t =>
    match lowestFree used n with
    | none => none
    | some o => (placeAll ((o, o + n) :: used) t).map ((o, o + n) :: ·)

/-- The explicit ranges and the automatic buffers of a command on one core. -/
def placedOn (ps : List StagePlan) (core : Nat) : List (Nat × Nat) :=
  (ps.filter (fun p => p.st.cores.contains core)).flatMap (·.placed)

def autoOn (ps : List StagePlan) (core : Nat) : List Nat :=
  (ps.filter (fun p => p.st.cores.contains core)).flatMap (·.auto)

def windowsOn (ps : List StagePlan) (core : Nat) : Nat :=
  (ps.filter (fun p => p.st.cores.contains core)).foldl (fun a p => a + p.windows) 0

/-- The cores of a list of stages. -/
def coresOf (ps : List StagePlan) : List Nat := (ps.flatMap (fun p => p.st.cores)).eraseDups

/-- R70, R266, R273: buffers that overlap or pass the end of the Platform, that fit on no Platform, or more windows than a
core has. -/
def bufferBad (ps : List StagePlan) : List (Bool × Byte) :=
  [rangeCase ((coresOf ps).any (fun k =>
    let pl := placedOn ps k
    anyOverlap pl || pl.any (fun r => decide (2 ^ 21 < r.1 + r.2))
      || (placeAll (pl.map (fun r => (r.1, r.1 + r.2))) (autoOn ps k)).isNone
      || decide (64 < windowsOn ps k)))]

/-! ## Fused chains (R280–R285) -/

/-- A plane that a stage produces for hand-over: its field, its elements, rows and row length, its format word, and
whether it may be handed over element by element, band by band. -/
structure Plane where
  f     : Nat
  elems : Nat
  rows  : Nat
  len   : Nat
  fmt   : Word
  elem  : Bool
  band  : Bool

/-- The primary output of a stage; a product with CONT_OUT has none (R73, R283). -/
def planeOf (st : Stage) : Option Plane :=
  match st.op with
  | 0x01 =>
    let p := mmPar st.pb
    if p.contOut then none else some ⟨11, p.m * p.n, p.m, p.n, p.fmtC, true, true⟩
  | 0x02 =>
    let p := cvPar st.pb
    if p.contOut then none
    else if p.mode = 0 then some ⟨15, p.positions * p.cout, 0, 0, p.mm.fmtC, true, false⟩
    else if p.mode = 1 then some ⟨15, p.wRows * p.cout, 0, 0, p.mm.fmtC, true, false⟩
    else none
  | 0x03 =>
    let p := atPar 3 st.pb
    some ⟨12, qTokens st.seqs * p.hq * p.d, 0, 0, p.fmtO, true, false⟩
  | 0x05 =>
    let p := vfPar st.pb
    some ⟨10, p.n, 0, 0, p.fmtY, true, false⟩
  | 0x06 =>
    let p := nmPar st.pb
    if p.bwd then none else some ⟨7, p.rows * p.l, p.rows, p.l, p.fmtY, false, true⟩
  | _ => none

/-- The inputs of a stage that may take a hand-over: field, format word; ELEM or BAND with rows and row length. -/
def handInputs (st : Stage) : List (Nat × Word × Option (Nat × Nat)) :=
  match st.op with
  | 0x01 => if (mmPar st.pb).transA then [] else [(9, (mmPar st.pb).fmtA, some ((mmPar st.pb).m, (mmPar st.pb).k))]
  | 0x05 => [(7, (vfPar st.pb).fmtX, none), (8, (vfPar st.pb).fmtG, none)]
  | 0x06 =>
    if (nmPar st.pb).bwd then [] else [(6, (nmPar st.pb).fmtX, some ((nmPar st.pb).rows, (nmPar st.pb).l))]
  | _ => []

/-- The hand-over body of a descriptor: SRC_STAGE, SRC_PLANE, KIND, RING, RING_ADDR. -/
def Desc.hand? (d : Desc) : Option (Nat × Nat × Nat × Nat × Nat) :=
  match d.body with
  | .hand a b k r ra => some (a, b, k, r, ra)
  | _ => none

/-- The hand-over inputs of a stage: field and body. -/
def handIns (st : Stage) : List (Nat × Nat × Nat × Nat × Nat × Nat) :=
  ((handInputs st).filterMap (fun i => (st.descs.find? (fun d => d.1 == i.1)).bind (fun d => d.2.hand?.map (fun h => (i.1, h)))))

/-- The stage at the root of a line of ELEM hand-overs (R284). -/
def rootOf (sts : List Stage) : Nat → Nat → Nat
  | 0, j => j
  | fuel + 1, j =>
    match (handIns (nth Stage.none sts j)).find? (fun h => h.2.2.2.1 == 1) with
    | some h => rootOf sts fuel h.2.1
    | none => j

/-- The elements that a region of a producer may hold (R199, R284). -/
def regionCap (st : Stage) : Nat :=
  match st.op with
  | 0x01 => 1024 * (mmPar st.pb).mb * (mmPar st.pb).nb
  | 0x02 => 1024 * (cvPar st.pb).mm.mb * (cvPar st.pb).mm.nb
  | 0x03 => let p := atPar 3 st.pb; p.g * p.qsb * p.qb * p.d
  | 0x05 => 16384 * 8 / max 1 (fmtBits (vfPar st.pb).fmtX)
  | _ => 0

/-- What a stage of a chain asks for: a tile of another input of an ELEM consumer is one region of its producer (R284). -/
def fitSpec (sts : List Stage) (i : Nat) (z : OpSpec) : OpSpec :=
  let st := nth Stage.none sts i
  let root := rootOf sts 4 i
  if st.op ≠ 5 ∨ root = i then z
  else
    let cap := regionCap (nth Stage.none sts root)
    let p := vfPar st.pb
    let word (f : Nat) : Word := if f = 7 then p.fmtX else if f = 8 then p.fmtG else p.fmtDy
    { z with fields := z.fields.map (fun x =>
        if 7 ≤ x.f ∧ x.f ≤ 9 then
          { x with rows := fmtBytes (word x.f) cap, extra := if fmtBlock (word x.f) then ceilDiv cap (fmtBs (word x.f)) else 0 }
        else x) }

/-- What the latched stages of a command ask for. -/
def State.specsOf (s : State) (ctx : Nat) (chain : Bool) (sts : List Stage) : List OpSpec :=
  sts.zipIdx.map (fun e => fitSpec sts e.2 (s.specOf ctx chain e.1.op e.1.pb))

/-- HOLD of a BAND consumer (R285). -/
def bandHold (st : Stage) : Nat :=
  if st.op = 0x06 then (nmPar st.pb).ncore
  else tileExtent (mmPar st.pb).m (mmPar st.pb).gm / 32

/-- What R282–R285 find wrong in one hand-over input of stage `j`. -/
def State.handBad (s : State) (ctx : Nat) (sts : List Stage) (j : Nat) (st : Stage) (h : Nat × Nat × Nat × Nat × Nat × Nat) :
    List (Bool × Byte) :=
  let (f, src, plane, kind, ring, ringAddr) := h
  let inp := (handInputs st).find? (fun i => i.1 == f)
  match inp, (if src < j ∧ plane = 0 then (sts[src]?).bind planeOf else none) with
  | some (_, w, band), some pl =>
    match band with
    | none =>
      [fmtCase (kind != 1 || !pl.elem || !accFmt pl.fmt || fmtSat pl.fmt || fmtCode w != cFP32 || ring != 0 || ringAddr != 0
        || pl.elems != (vfPar st.pb).n || !(zeroAt st.pb 0x2C 4 && zeroAt st.pb 0x30 8))]
    | some (rows, len) =>
      let slot := roundUp (32 * fmtBytes pl.fmt pl.len) 64
      [fmtCase (kind != 2 || !pl.band || pl.fmt != w || fmtBlock w || fmtXmode w != 0 || pl.rows != rows || pl.len != len),
       rangeCase (decide (ring < 2) || decide (64 < ring) || decide (ring < bandHold st) || decide (2 ^ 52 ≤ ringAddr)
         || !s.inDepot ctx ringAddr (ring * slot))]
  | _, _ => [fmtCase true]

/-- The planes that the stages of a chain take: (source stage, plane). -/
def takenPlanes (sts : List Stage) : List (Nat × Nat) :=
  sts.flatMap (fun st => (handIns st).map (fun h => (h.2.1, h.2.2.1)))

/-- The sinks of a chain. -/
def sinks (sts : List Stage) : List (Nat × Bool) :=
  sts.zipIdx.flatMap (fun e => e.1.descs.filterMap (fun d =>
    match d.2.hand? with
    | some (0xFF, _, _, _, _) => some (e.2, ((planeOf e.1).map (fun p => p.f == d.1)).getD false)
    | _ => none))

/-- Every hand-over form stands in an input that may take one, or is a sink. -/
def strayHand (st : Stage) : Bool :=
  st.descs.any (fun d =>
    match d.2.hand? with
    | some (src, _, _, _, _) => src != 0xFF && !(handInputs st).any (fun i => i.1 == d.1)
    | none => false)

/-- The checks of a chain's hand-overs. -/
def State.chainBad (s : State) (ctx : Nat) (sts : List Stage) : List (Bool × Byte) :=
  let taken := takenPlanes sts
  sts.zipIdx.flatMap (fun e => (handIns e.1).flatMap (s.handBad ctx sts e.2 e.1))
    ++ [fmtCase (decide (taken.eraseDups.length < taken.length)),
        fmtCase ((sinks sts).any (fun k => !k.2 || !taken.contains (k.1, 0))),
        fmtCase (sts.any strayHand),
        fmtCase (sts.any (fun st => !chainFamily st.op)),
        rangeCase (sts.any (fun st => st.op == 5 && st.cores == [] && (vfPar st.pb).ncore == 0
          && !(handIns st).any (fun h => h.2.2.2.1 == 1)))]

/-- An ELEM consumer runs on its producer's cores (R284). -/
def fillCores : List Stage → List Stage → List Stage
  | done, [] => done
  | done, st :: t =>
    let st1 := if st.cores = [] ∧ st.op = 5 then
        match (handIns st).head? with
        | some h => { st with cores := (nth Stage.none done h.2.1).cores }
        | none => st
      else st
    fillCores (done ++ [st1]) t

/-- The chain record's checks and its stages' opcodes and blocks (R280). -/
def State.chainHead (s : State) (ctx op a : Nat) : List (Bool × Byte) × List (Nat × Nat) :=
  if a % 64 ≠ 0 ∨ 2 ^ 52 ≤ a then ([rangeCase true], [])
  else
    match s.rdRecord ctx a 64 with
    | none => ([(true, s.recBad ctx a 64)], [])
    | some b =>
      let n := u32At b 0
      let ops := (List.range 4).map (fun i => u8At b (8 + i))
      let pbs := (List.range 4).map (fun i => u64At b (0x10 + 8 * i))
      let bad := decide (n < 2) || decide (4 < n) || !zeroAt b 4 4 || !zeroAt b 12 4 || !zeroAt b 0x30 16
        || nth 0 ops 0 != op || (List.range 4).any (fun i => decide (n ≤ i) && (nth 0 ops i != 0 || nth 0 pbs i != 0))
      ([fmtCase bad], if bad then [] else (ops.zip pbs).take n)

/-! ## Dual-path records (R249, R203) -/

/-- Whether the pages of a stage buffer are TIER 0 or 1, not compressed, not DC. -/
def State.stagePages (s : State) (ctx : Nat) (d : Desc) (n : Nat) : List (Bool × Byte) :=
  let ws := (s.piecesOf ctx d 0 n).filterMap (fun p =>
    match p.loc with
    | .va a => some (s.walk ctx a)
    | _ => none)
  [(ws.any Option.isNone, stXlate),
   fmtCase (ws.any (fun w =>
     match w with
     | some l => decide (1 < l.tier) || l.comp || l.dc
     | none => false))]

/-- A descriptor that a record names. -/
def State.namedDesc (s : State) (ctx a : Nat) (r : Role) : List (Bool × Byte) × Option Desc :=
  if a % 64 ≠ 0 ∨ 2 ^ 52 ≤ a then ([rangeCase true], none)
  else
    match s.rdRecord ctx a 128 with
    | none => ([(true, s.recBad ctx a 128)], none)
    | some b => ([fmtCase (descFormat r b), rangeCase (descRange b)],
        if descFormat r b || descRange b then none else some (parseDesc b))

/-- A format code that R249 refuses for the stage, for ALT. -/
def stageFmtBad (w : Word) : Bool := fmtBlock w || fmtCode w == cINT4 || fmtCode w == cFP32P || fmtXmode w != 0
def altFmtBad (w : Word) : Bool := fmtBlock w || fmtCode w == cFP32P || fmtXmode w != 0

/-- The checks of a dual-path command's records (FMT_STAGE passes where R39 allows it in either role: DESIGN CHOICE, log 106), and its state at the start of its load phase. -/
def State.dualPlan (s : State) (ctx : Nat) (r : CmdRec) : List (Bool × Byte) × Option DualSt :=
  if !r.dual then ([], none)
  else if r.dualRec % 64 ≠ 0 then ([rangeCase true], none)
  else
    match s.rdRecord ctx r.dualRec 64 with
    | none => ([(true, s.recBad ctx r.dualRec 64)], none)
    | some b =>
      let ck := u64At b 0
      let branch := bitAt (u32At b 0x24) 0
      let fs := w32At b 0x18
      let fa := w32At b 0x1C
      let own := [fmtCase (u32At b 0x24 / 2 != 0 || !zeroAt b 0x2C 20 || branch == (u64At b 0x10 == 0)
          || (!branch && fa != 0)),
        fmtCase (stageFmtBad fs || (fmtBad fs true && (branch || fmtBad fs false))),
        fmtCase (branch && (altFmtBad fa || fmtBad fa false))]
      let ckBad := s.ckptChecks ctx ck (u32At b 0x28)
      let st := s.namedDesc ctx (u64At b 8) rOutZ
      let alt := if branch then s.namedDesc ctx (u64At b 0x10) (rIn false) else ([], none)
      match st.2, s.rdRecord ctx ck 64 with
      | some d, some cb =>
        let c := parseCkpt cb
        let e := (d.extent).getD 0
        let n := e * 8 / max 1 (fmtBits fs)
        let altBad := match alt.2 with
          | some a => decide ((a.extent).getD 0 < fmtBytes fa n)
          | none => false
        let stored := bitAt c.state 0
        let comp := bitAt c.state 1
        (own ++ ckBad ++ st.1 ++ alt.1 ++ s.stagePages ctx d e
          ++ [fmtCase (stored && !comp && c.bytes != e), rangeCase altBad],
         some { phase := .load, ckpt := ck, stage := d, alt := alt.2, fmtStage := fs, fmtAlt := fa
                leadNs := u32At b 0x20, branchAlt := branch, stored := stored, comp := comp, loc := c.loc
                bytes := c.bytes, ckStep := BitVec.ofNat 64 c.step, prog := c.prog, nprog := c.nprog, path := 0
                decided := false, entered := false, mainIn := false, got := [], pieces := [], need := 0, loadDone := false
                loadBad := false, progPos := 0, progBusy := [], stageDone := none, dlMiss := false, since := none, outs := 0 })
      | _, _ => (own ++ ckBad ++ st.1 ++ alt.1, none)

/-! ## The whole record -/

/-- A command as step 1 of R300 finds it. -/
structure Plan where
  bad    : List (Bool × Byte)
  stages : List StagePlan
  dual   : Option DualSt

/-- The output fields of a command without a chain, as a mask (R308). -/
def StagePlan.outMask (p : StagePlan) : Word :=
  BitVec.ofNat 32 ((p.spec.fields.filter (fun x => x.role.out && x.on && decide (x.f < 32))).foldl (fun a x => a + 2 ^ x.f) 0)

/-- Step 1 of R300, with the case of DET_ORDER (R293). -/
def State.planOf (s : State) (ctx : Nat) (r : CmdRec) : Plan :=
  let dp := s.dualPlan ctx r
  if r.chain then
    let h := s.chainHead ctx r.opcode r.param
    let ps := h.2.map (fun e => s.stagePlan ctx true e.1 e.2)
    let sts := fillCores [] (ps.map (·.st))
    let ps := (ps.zip sts).zipIdx.map (fun e => { e.1.1 with st := e.1.2, spec := fitSpec sts e.2 e.1.1.spec })
    let whole := ps.all (fun p => p.st.pb != [])
    ⟨h.1 ++ ps.flatMap (·.bad) ++ (if whole then s.chainBad ctx sts ++ bufferBad ps else []) ++ dp.1, ps, dp.2⟩
  else
    let p := s.stagePlan ctx false r.opcode r.param
    let order := fmtCase (p.st.op == 4 && (atPar 4 p.st.pb).accum && (s.ctx ctx).detOrder)
    ⟨order :: p.bad ++ bufferBad [p] ++ dp.1, [p], dp.2.map (fun d => { d with outs := p.outMask })⟩

end Sys2Proof.Machine
end

