-- ==== Sys2Proof/Machine/Frames.lean ====
section
/-!
DEFINITION. Yard and ring frames (R137, R138, R375): their bytes, the BULK packets that carry them, sending them, and the
answers to OPEN frames (R376).
-/
namespace Sys2Proof.Machine

/-! ## Bytes of frames -/

def ringFrameBytes (f : RingFrame) : List Byte :=
  toLe 4 f.ringTag.toNat ++ [f.origin, f.step, f.ftype, 0] ++ toLe 4 f.shapeHash.toNat ++ toLe 4 f.payload.length
    ++ toLe 8 f.offset.toNat ++ toLe 8 f.slotBytes.toNat ++ f.payload

def parseRingFrame (b : List Byte) : RingFrame :=
  { ringTag := w32At b 0, origin := BitVec.ofNat 8 (u8At b 4), step := BitVec.ofNat 8 (u8At b 5)
    ftype := BitVec.ofNat 8 (u8At b 6), shapeHash := w32At b 8, offset := BitVec.ofNat 64 (u64At b 0x10)
    slotBytes := BitVec.ofNat 64 (u64At b 0x18), payload := slice b 32 (u32At b 0xC) }

def yardFrameBytes (f : YardFrame) : List Byte :=
  toLe 4 f.stream.toNat ++ toLe 2 f.epoch.toNat ++ [f.ftype, f.mode] ++ toLe 2 f.chunk.toNat ++ [f.hop, f.argb]
    ++ toLe 4 f.gen.toNat ++ toLe 4 f.shapeHash.toNat ++ toLe 4 f.payload.length ++ toLe 8 f.offset.toNat ++ f.payload

def parseYardFrame (sender : Nat) (cls : Byte) (b : List Byte) : YardFrame :=
  { sender := sender, ttClass := cls, stream := w32At b 0, epoch := BitVec.ofNat 16 (u16At b 4)
    ftype := BitVec.ofNat 8 (u8At b 6), mode := BitVec.ofNat 8 (u8At b 7), chunk := BitVec.ofNat 16 (u16At b 8)
    hop := BitVec.ofNat 8 (u8At b 10), argb := BitVec.ofNat 8 (u8At b 11), gen := w32At b 12, shapeHash := w32At b 16
    offset := BitVec.ofNat 64 (u64At b 24), payload := slice b 32 (u32At b 20) }

/-- The payload bytes that the header of a Yard frame, of a ring frame, names. -/
def yardPayload (b : List Byte) : Nat := u32At b 20
def ringPayload (b : List Byte) : Nat := u32At b 12

/-- Payload bytes of one frame at most. -/
def frameMax : Nat := 262144

/-! ## Sending -/

/-- The BULK packets of a frame: whole data slots, at most 256 in a packet (R349). -/
def State.bulkPackets (s : State) (dst : Nat) (tag : Word) (cls : Byte) (b : List Byte) : List Packet :=
  (List.range (ceilDiv b.length 8192)).map (fun i =>
    let n := min 8192 (roundUp (b.length - 8192 * i) 32)
    { s.mkPacket dst 7 0 0 (slice b (8192 * i) n) with depClass := cls, arg := tag, arg2 := BitVec.ofNat 64 (8192 * i) })

/-- Send the packets of a frame, out of a port that its direction names or by R356; `true` when one finds its port down
(R354). -/
def State.sendPackets (slot via : Option Nat) : List Packet → State → State × Bool
  | [], s => (s, false)
  | p :: t, s =>
    let r := match via with
      | some k => s.sendOn (s.routeVia k p.dst.toNat) p none slot none
      | none => s.sendPacket p none slot none
    let u := State.sendPackets slot via t r.1
    (u.1, decide (r.2 = .down) || u.2)

/-- Send a frame to a node. -/
def State.sendFrame (s : State) (slot via : Option Nat) (dst : Nat) (tag : Word) (cls : Byte) (b : List Byte) : State × Bool :=
  State.sendPackets slot via (s.bulkPackets dst tag cls b) s

/-- Send a Yard frame to a member of an axis (R469). -/
def State.sendYard (s : State) (slot via : Option Nat) (axis dest : Nat) (f : YardFrame) : State × Bool :=
  (s.bump (cntYard 1) 1).sendFrame slot via (s.cfg.node.member axis dest) f.stream f.ttClass (yardFrameBytes f)

/-- SHAPE_HASH of a Yard command (R375), of an attention command (R136). -/
def yardHash (op : Nat) (pb : List Byte) : Word := if op = 0x0B then crc32c (slice pb 8 0x20) else crc32c (slice pb 0 0x28)
def ringHash (pb : List Byte) : Word := crc32c (slice pb 0 0x28)

/-- The operation nibble of MODE. -/
def opNibble (op : Nat) : Byte := BitVec.ofNat 8 (op % 16 * 16)

/-- The direction in which dimension order sends to a member of an axis (R356): 0 toward a+, 1 toward a−. -/
def NodeCfg.dirTo (n : NodeCfg) (axis member : Nat) : Nat := (n.dimOrder (n.member axis member)).getD 0 % 2

/-- A header-only frame of a Yard command that travels in direction `dir` (R375). -/
def Cmd.yardNote (c : Cmd) (sender dir ftype argb : Nat) : YardFrame :=
  let p := ydPar c.pb
  { sender := sender, ttClass := BitVec.ofNat 8 p.ttClass, stream := BitVec.ofNat 32 c.stream, epoch := p.epoch
    ftype := BitVec.ofNat 8 ftype, mode := opNibble c.op + BitVec.ofNat 8 (8 * dir), chunk := 0, hop := 0, argb := BitVec.ofNat 8 argb, gen := 0
    shapeHash := yardHash c.op c.pb, offset := 0, payload := [] }

/-! ## A command's state on the Yard and on the ring -/

def Cmd.isYard (c : Cmd) : Bool := c.op == 9 || c.op == 10 || c.op == 11

/-- The directions in which chunks reach a command (R381, R388). -/
def yardHalves (op n size : Nat) : List YHalf :=
  if op = 11 ∨ size ≤ 1 ∨ (op = 9 ∧ n = 0) then [] else [⟨0, 0, [], 0⟩, ⟨1, 0, [], 0⟩]

/-- A Yard command's state at admission. -/
def State.yardInit (s : State) (c : Cmd) : Option YardSt :=
  if c.isYard then
    let p := ydPar c.pb
    let na := s.cfg.node.size p.axis
    some { axis := p.axis, size := na, own := s.cfg.node.own p.axis, opened := [], credit := [], sendQ := []
           halves := yardHalves c.op p.n na, gens := [], recvd := 0, landed := [], begun := false
           waitFrom := s.time.cmdClk, grants := [] }
  else none

/-- The state of a command's next ring: both slots of its S+ neighbour are reserved for it (R135, R301). -/
def State.ringInit (s : State) (c : Cmd) : Option RingSt :=
  c.ringStage.map (fun e =>
         { stage := e.2, step := 0, rows := [], acc := [], rxStep := 1, rxOff := 0, present := [], credits := 2, sent := 0
           accIn := false, waitFrom := s.time.cmdClk, creditFrom := s.time.cmdClk, owed := 0 })

/-- Give credits to a member that opened to a command (R376). -/
def State.grant (s : State) (slot member credits : Nat) : State :=
  match s.cmd? slot with
  | none => s
  | some c =>
    match c.yard with
    | none => s
    | some y =>
      let g := Tab.get 0 y.grants member + credits
      let s1 := s.setCmd slot (some { c with yard := some { y with grants := Tab.set 0 y.grants member g } })
      (s1.sendYard (some slot) none y.axis member (c.yardNote y.own (s.cfg.node.dirTo y.axis member) 2 credits)).1

/-- Reject an OPEN (R376): MODE names the operation of the OPEN and the direction of the answer. -/
def State.rejectOpen (s : State) (axis : Nat) (f : YardFrame) (st : Byte) : State :=
  let r : YardFrame := { f with sender := s.cfg.node.own axis, ftype := 3, argb := st, payload := [], chunk := 0, hop := 0
                                gen := 0, offset := 0, mode := (f.mode &&& 0xF0) + BitVec.ofNat 8 (8 * s.cfg.node.dirTo axis f.sender) }
  (s.sendYard none none axis f.sender r).1

/-- A frame belongs to an admitted Yard command: STREAM and EPOCH are its own (R376). A dual-path command is admitted with its main phase. -/
def Cmd.matchesFrame (c : Cmd) (f : YardFrame) : Bool :=
  c.isYard && c.yard.isSome && c.stream == f.stream.toNat && (ydPar c.pb).epoch == f.epoch

/-- The slot of the admitted command that a frame belongs to. -/
def State.yardTarget (s : State) (f : YardFrame) : Option Nat :=
  (s.cmdList.find? (fun e => decide (e.1 < 4096) && e.2.matchesFrame f)).map (·.1)

/-- Answer an OPEN that matches an admitted command: SHAPE_HASH covers the axis (R375, R378). -/
def State.answerOpen (s : State) (slot : Nat) (axis : Nat) (f : YardFrame) : State :=
  match s.cmd? slot with
  | none => s
  | some c =>
    if f.shapeHash = yardHash c.op c.pb ∧ (ydPar c.pb).axis = axis then s.grant slot f.sender 2 else s.rejectOpen axis f stFormat

/-- Take the OPENs that meet a condition out of the pending table, and answer each. -/
def State.answerHeld (s : State) (p : PendOpen → Bool) (answer : State → PendOpen → State) : State :=
  (s.yard.pend.filter p).foldl answer { s with yard := { s.yard with pend := s.yard.pend.filter (fun e => !p e) } }

/-- An admitted command answers the OPENs that the pending table holds for it (R376). -/
def State.answerPending (s : State) (slot : Nat) : State :=
  match s.cmd? slot with
  | none => s
  | some c => s.answerHeld (fun p => c.matchesFrame p.f) (fun s p => s.answerOpen slot p.axis p.f)

/-- A PERMUTE begins: the OPENs of the job's older epochs that the pending table holds are rejected with EPOCH (R394). -/
def State.rejectOld (s : State) (job : Nat) (epoch : BitVec 16) : State :=
  s.answerHeld (fun p => p.f.stream.toNat / 65536 == job && serialAfter 16 p.f.epoch.toNat epoch.toNat)
    (fun s p => s.rejectOpen p.axis p.f stEpoch)

end Sys2Proof.Machine
end

