-- ==== Sys2Proof/Machine/Reserve.lean ====
section
/-!
DEFINITION. Steps 2 and 3 of admission (R300): the resources of R301 with the quotas of R304, the buffers' placement,
the latches of R151 and R196 with the checks made against them, and the layout epoch of R393.
-/
namespace Sys2Proof.Machine

/-! ## Resources -/

/-- A kind of resource that admission may find short (R301, R304, R373, R390). -/
inductive Res where
  | slot | plat (core : Nat) | win (core : Nat) | yard | shunt | eng (i : Nat)
  | quota (ctx : Nat) | limit (ctx : Nat) | platQuota (ctx : Nat) | jobs | leases
  deriving DecidableEq, Repr

/-- What a command asks for. -/
structure Need where
  /-- explicit ranges: core, first byte, end -/
  plat    : List (Nat × Nat × Nat)
  /-- buffers to be placed: core, bytes in order -/
  auto    : List (Nat × List Nat)
  windows : List (Nat × Nat)
  yard    : Bool
  shunt   : Bool
  engines : List Nat
  /-- the job of a Yard command -/
  job     : Option Nat
  /-- the word of a lease entry; `true` asks for one more lease -/
  lease   : Option (Nat × Bool)
  pins    : List Nat
  deriving DecidableEq, Repr

/-- A SIGNAL or FENCE asks for a command slot and one unit of quota alone (R332, R410). -/
def Need.none : Need := ⟨[], [], [], false, false, [], Option.none, Option.none, []⟩

/-- The 64 KiB pages of `n` bytes at an address. -/
def pagesOf (va n : Nat) : List Nat := upFrom (va / 65536) ((va + n - 1) / 65536 + 1 - va / 65536)

/-- The pages that a stage pins: its accumulate targets (R208) and its words (R498). -/
def State.pinsOf (s : State) (ctx : Nat) (p : StagePlan) : List Nat :=
  let acc := p.spec.fields.flatMap (fun x =>
    match p.st.descs.find? (fun d => d.1 == x.f) with
    | some (_, d) =>
      if x.acc && (d.acc || p.st.op == 4) then
        (s.piecesOf ctx d 0 x.need).flatMap (fun q =>
          match q.loc with
          | .va a => [a / 65536]
          | _ => [])
      else []
    | none => [])
  (acc ++ p.spec.words.flatMap (fun w => pagesOf w.1 w.2.1)).eraseDups

/-- The update engines that an UPDATE uses (R301). -/
def State.enginesOf (s : State) (ctx : Nat) (st : Stage) : List Nat :=
  if st.op = 0x0C then
    let p := upPar st.pb
    match st.descs.find? (fun d => d.1 == 8) with
    | some (_, d) => ((s.stacksOf ctx d (4 * p.rows * p.cols)).filterMap s.engineOf).eraseDups
    | none => []
  else []

/-- The word whose lease entry a command needs (R390). -/
def State.leaseNeed (s : State) (ctx : Nat) (st : Stage) : Option (Nat × Bool) :=
  if st.op = 0x0C then
    let w := (upPar st.pb).wgen
    if w = 0 then none else (s.hbmWordAt ctx w).map (fun pa => (pa, false))
  else if st.op = 0x0A then
    let p := ydPar st.pb
    if p.lease || p.release then (s.hbmWordAt ctx p.wgen).map (fun pa => (pa, p.lease)) else none
  else none

/-- Everything that R301 lists for a command's stages. -/
def State.needOf (s : State) (ctx : Nat) (ps : List StagePlan) : Need :=
  let st := (ps.head?.map (·.st)).getD Stage.none
  let cs := coresOf ps
  { plat := cs.flatMap (fun k => (placedOn ps k).map (fun r => (k, r.1, r.1 + r.2)))
    auto := cs.map (fun k => (k, autoOn ps k))
    windows := (cs.map (fun k => (k, windowsOn ps k))).filter (fun w => w.2 != 0)
    yard := st.op == 9 || st.op == 10 || st.op == 11
    shunt := st.op == 8
    engines := s.enginesOf ctx st
    job := if st.op = 9 ∨ st.op = 10 ∨ st.op = 11 then some (ydPar st.pb).job else none
    lease := s.leaseNeed ctx st
    pins := (ps.flatMap (s.pinsOf ctx)).eraseDups }

/-- What the load phase of a dual-path command asks for (R250): a 32 KiB buffer and a window on every core. -/
def loadNeed (ps : List StagePlan) : Need :=
  { Need.none with auto := (coresOf ps).map (fun k => (k, [32768])), windows := (coresOf ps).map (fun k => (k, 1)) }

/-- The ranges (start, end) that admitted commands hold on a core. -/
def State.platUsed (s : State) (core : Nat) : List (Nat × Nat) :=
  s.cmdList.flatMap (fun e => (e.2.resv.plat.filter (fun r => r.1 == core)).map (·.2))

/-- The windows that admitted commands hold on a core. -/
def State.winUsed (s : State) (core : Nat) : Nat :=
  s.cmdList.foldl (fun a e => a + (e.2.resv.windows.filter (fun w => w.1 == core)).foldl (fun a w => a + w.2) 0) 0

/-- The admitted commands that hold a resource. -/
def State.holding (s : State) (p : Resv → Bool) : Nat := (s.cmdList.filter (fun e => p e.2.resv)).length

/-- Platform bytes that a need asks for, and that a context's commands hold. -/
def Need.platBytes (n : Need) : Nat :=
  n.plat.foldl (fun a r => a + (r.2.2 - r.2.1)) 0 + n.auto.foldl (fun a e => a + e.2.foldl (· + ·) 0) 0

def State.platBytes (s : State) (ctx : Nat) : Nat :=
  (s.admitted ctx).foldl (fun a e => a + e.2.resv.plat.foldl (fun a r => a + (r.2.2 - r.2.1)) 0) 0

/-- QUOTA_CMDS and QUOTA_PLAT of a context, in force under Sleeper only (R304). -/
def State.quotaOf (s : State) (ctx : Nat) : Nat × Nat :=
  if s.cfg.profile = .sleeper then Tab.get (0, 0) s.cfg.quota ctx else (0, 0)

/-- A command's own reservation exceeds a quota (R304). -/
def State.overQuota (s : State) (ctx : Nat) (n : Need) : Bool :=
  let q := (s.quotaOf ctx).2
  q != 0 && decide (q * 65536 < n.platBytes)

/-- The placed buffers of a need on one core, when they all fit beside what others hold. -/
def State.placeOn (s : State) (n : Need) (core : Nat) : Option (List (Nat × Nat × Nat)) :=
  let mine := (n.plat.filter (fun r => r.1 == core)).map (·.2)
  let used := s.platUsed core
  if mine.any (fun r => used.any (fun u => decide (u.1 < r.2) && decide (r.1 < u.2))) then none
  else
    let auto := (n.auto.filter (fun e => e.1 == core)).flatMap (·.2)
    (placeAll (mine ++ used) auto).map (fun l => l.map (fun r => (core, r.1, r.2)))

/-- The cores on which a need takes Platform space. -/
def Need.cores (n : Need) : List Nat := (n.plat.map (·.1) ++ n.auto.map (·.1)).eraseDups

/-- A lease entry for a word is there, or one is free (R390). -/
def State.leaseRoom (s : State) (l : Nat × Bool) : Bool :=
  match (s.leaseKey l.1).bind (fun k => Tab.get none s.yard.leases k) with
  | some e => !(l.2 && decide (0xFFFF ≤ e.leases))
  | none => decide (s.yard.leases.length < 4096)

/-- The entry of a job is there, or one may be made (R373). -/
def State.jobRoom (s : State) (ctx job : Nat) : Bool :=
  (s.jobOf job).isSome || (decide (s.yard.jobs.length < 4096)
    && decide ((s.yard.jobs.filter (fun e => (e.2.map (·.ctx)) == some ctx)).length < 16))

/-- The resources that a need finds short (R301, R304). -/
def State.lacks (s : State) (ctx : Nat) (n : Need) : List Res :=
  let q := s.quotaOf ctx
  let adm := (s.admitted ctx).length
  let lim := (s.ctx ctx).cmdLimit
  (if 4096 ≤ (s.cmdList.filter (fun e => decide (e.1 < 4096))).length then [Res.slot] else [])
    ++ (n.cores.filter (fun k => (s.placeOn n k).isNone)).map Res.plat
    ++ (n.windows.filter (fun w => decide (64 < s.winUsed w.1 + w.2))).map (fun w => Res.win w.1)
    ++ (if n.yard ∧ 64 ≤ s.holding (·.yard) then [Res.yard] else [])
    ++ (if n.shunt ∧ 64 ≤ s.holding (·.shunt) then [Res.shunt] else [])
    ++ (n.engines.filter (fun i => decide (32 ≤ s.holding (fun r => r.engines.contains i)))).map Res.eng
    ++ (if q.1 ≠ 0 ∧ q.1 ≤ adm then [Res.quota ctx] else [])
    ++ (if lim ≠ 0 ∧ lim ≤ adm then [Res.limit ctx] else [])
    ++ (if q.2 ≠ 0 ∧ q.2 * 65536 < s.platBytes ctx + n.platBytes then [Res.platQuota ctx] else [])
    ++ (match n.job with
        | some j => if s.jobRoom ctx j then [] else [Res.jobs]
        | none => [])
    ++ (match n.lease with
        | some l => if s.leaseRoom l then [] else [Res.leases]
        | none => [])

/-- Whether a need asks for a resource (R302). -/
def Need.uses (n : Need) (ctx : Nat) (r : Res) : Bool :=
  match r with
  | .slot => true
  | .plat k => n.cores.contains k
  | .win k => n.windows.any (fun w => w.1 == k)
  | .yard => n.yard
  | .shunt => n.shunt
  | .eng i => n.engines.contains i
  | .quota c => c == ctx
  | .limit c => c == ctx
  | .platQuota c => c == ctx && n.platBytes != 0
  | .jobs => n.job.isSome
  | .leases => n.lease.isSome

/-- Whether an admitted command holds a resource (R303). -/
def Cmd.holds (c : Cmd) (r : Res) : Bool :=
  match r with
  | .slot => true
  | .plat k => c.resv.plat.any (fun x => x.1 == k)
  | .win k => c.resv.windows.any (fun w => w.1 == k)
  | .yard => c.resv.yard
  | .shunt => c.resv.shunt
  | .eng i => c.resv.engines.contains i
  | .quota x => x == c.ctx
  | .limit x => x == c.ctx
  | .platQuota x => x == c.ctx && c.resv.plat != []
  | .jobs => false
  | .leases => (c.leaseVa).isSome

/-- What an admitted command then holds. -/
def State.reserve (s : State) (n : Need) : Resv :=
  { plat := n.plat ++ n.cores.flatMap (fun k => (s.placeOn n k).getD []), windows := n.windows, yard := n.yard
    shunt := n.shunt, engines := n.engines, pins := n.pins }

/-! ## Latches (R151, R52, R160, R162, R175, R182) -/

/-- The table slots that a stage names: kind and slot. -/
def namesOf (st : Stage) : List (Nat × Nat) :=
  let x (w : Word) : List (Nat × Nat) := if fmtXmode w = 1 then [(2, fmtXarg w)] else []
  let tables := if st.op = 1 then x (mmPar st.pb).fmtA ++ x (mmPar st.pb).fmtB
    else if st.op = 2 then x (cvPar st.pb).mm.fmtA ++ x (cvPar st.pb).mm.fmtB else []
  let prog := if st.op = 5 ∧ (vfPar st.pb).fn = 0x3F then [(3, (vfPar st.pb).slot)] else []
  let kv := st.descs.filterMap (fun d =>
    match d.2.body with
    | .slot n _ _ _ _ => some (1, n)
    | _ => none)
  (tables ++ prog ++ kv).eraseDups

/-- A slot that a command of a context may not name (R154). -/
def State.slotBad (s : State) (ctx : Nat) (n : Nat × Nat) : Bool :=
  let t := s.tblSlot n.1 n.2
  !t.bound || t.ctx != ctx || decide (tblSlots n.1 ≤ n.2)

/-- What R175 and R182 find wrong with the micro-program of a VECFN. -/
def State.progBad (s : State) (st : Stage) : Bool :=
  st.op == 5 && (vfPar st.pb).fn == 0x3F &&
  (let t := s.tblSlot 3 (vfPar st.pb).slot
   let b := t.bank t.active
   let p := progOf b
   let has (f : Nat) : Bool := u64At st.pb (8 * f) != 0
   b.all (· == 0) || (progNames p oX && !has 7) || (progNames p oG && !has 8) || (progNames p oDY && !has 9)
     || (p.two != has 11))

/-- The FORMAT and RANGE cases of R160 for an attention command with PAGED = 1. -/
def State.kvBad (s : State) (st : Stage) : Bool × Bool :=
  if (st.op = 3 ∨ st.op = 4) ∧ (atPar st.op st.pb).paged then
    let p := atPar st.op st.pb
    let body (f : Nat) : Option DescBody := (st.descs.find? (fun d => d.1 == f)).map (·.2.body)
    match body 20, body 21 with
    | some (.slot sl pl ly sq _), some (.slot sl2 pl2 ly2 sq2 _) =>
      let t := s.tblSlot 1 sl
      match t.kv with
      | none => (false, true)
      | some kv =>
        let seqs := st.seqs
        (pl != 0 || pl2 != 1 || sl != sl2 || ly != ly2 || sq != sq2 || (p.segEn && !kv.segp)
           || fmtCode p.fmtK != fmtCode kv.fmtK || fmtBlk16 p.fmtK != fmtBlk16 kv.fmtK
           || fmtCode p.fmtV != fmtCode kv.fmtV || fmtBlk16 p.fmtV != fmtBlk16 kv.fmtV || p.hkv != kv.hkv || p.d != kv.d,
         decide (kv.layers ≤ ly) || seqs.zipIdx.any (fun e =>
           decide (kv.nseqMax ≤ sq + e.2) || decide (64 * (t.pages t.active (sq + e.2)).length < e.1.kLen)))
    | _, _ => (true, false)
  else (false, false)

/-- A paged write beyond the set's layers (R159); a page that does not exist is found when it is written (R162). -/
def State.pagedBad (s : State) (st : Stage) : Bool :=
  (st.descs.filter (fun d => !((st.op == 3 || st.op == 4) && (d.1 == 20 || d.1 == 21)))).any (fun d =>
    match d.2.body with
    | .slot sl _ ly _ _ =>
      match (s.tblSlot 1 sl).kv with
      | some kv => decide (kv.layers ≤ ly)
      | none => true
    | _ => false)

/-- The job of a Yard command, or the word of a GATHER or UPDATE, has an entry that another context owns (R373, R390). -/
def State.ownerBad (s : State) (ctx : Nat) (st : Stage) : Bool :=
  ((st.op == 9 || st.op == 10 || st.op == 11) && (match s.jobOf (ydPar st.pb).job with
    | some j => j.ctx != ctx
    | none => false))
  || (match (s.leaseNeed ctx st).bind (fun l => (s.leaseKey l.1).bind (fun k => Tab.get none s.yard.leases k)) with
    | some l => l.ctx != ctx
    | none => false)

/-- R393: what the epoch of a Yard command decides: a status, or whether a PERMUTE begins. -/
def State.epochCheck (s : State) (st : Stage) : Option Byte × Bool :=
  if st.op = 9 ∨ st.op = 10 ∨ st.op = 11 then
    let p := ydPar st.pb
    let je := ((s.jobOf p.job).map (·.epoch)).getD p.epoch
    if st.op ≠ 11 then (if p.epoch = je then none else some stEpoch, false)
    else if p.epoch = je + 1 then (none, true)
    else if serialAfter 16 je.toNat p.epoch.toNat then (some stFormat, false)
    else (some stEpoch, false)
  else (none, false)

/-- Step 3 of R300: the first failing check at the latch instant (R11). -/
def State.latchCheck (s : State) (ctx : Nat) (r : CmdRec) (sts : List Stage) : Option Byte :=
  let names := sts.flatMap namesOf
  let bound := !names.any (s.slotBad ctx)
  let ent := s.entryFault ctx r.waits r.posts
  let ep := match sts.head? with
    | some st => (s.epochCheck st).1
    | none => none
  rankChecks (
    [fmtCase (bound && sts.any s.progBad), fmtCase (bound && sts.any (fun st => (s.kvBad st).1)),
     rangeCase (!bound), rangeCase (bound && sts.any (fun st => (s.kvBad st).2 || s.pagedBad st)), rangeCase (sts.any (s.ownerBad ctx))]
    ++ (match ent with
        | some x => [(true, x)]
        | none => [])
    ++ (match ep with
        | some x => [(true, x)]
        | none => []))

/-- The latched generations: kind, slot, GEN. -/
def State.latchesOf (s : State) (sts : List Stage) : List (Nat × Nat × Word) :=
  ((sts.flatMap namesOf).eraseDups).map (fun n => (n.1, n.2, (s.tblSlot n.1 n.2).gen))

end Sys2Proof.Machine
end

