-- ==== Sys2Proof/Machine/Demand.lean ====
section
/-!
DEFINITION. What a stage of a command reads (R92, R103, R127, R158–R162, R185, R243) and what it demands of memory before it computes
(R66, R161, R216, R268).
-/
namespace Sys2Proof.Machine

/-! ## Readers -/

/-- The bank of a table slot that a command has latched (R151). -/
def State.latchedBank (s : State) (c : Cmd) (kind slot : Nat) : List Byte :=
  match c.latches.find? (fun l => l.1 == kind && l.2.1 == slot) with
  | some l => (s.tblSlot kind slot).bank l.2.2.toNat
  | none => []

/-- What stage i of a command reads; `hand` gives the planes that are handed over to it (R282). -/
def State.ioOf (s : State) (c : Cmd) (i : Nat) (st : Stage) (hand : Nat → Option (Nat → Byte)) : IO where
  rd f o := match hand f with
    | some g => g o
    | none => s.streamRd c i f o
  va a := s.cmdByte c i 27 a
  plat k o := s.mem.get (.plat k o)
  table n := s.latchedBank c 2 n
  prog := progOf (s.latchedBank c 3 (vfPar st.pb).slot)
  rng := ⟨c.seed, c.step, c.crec.rngId + BitVec.ofNat 32 i⟩
  zcUsed := c.zcUsed

/-- The frame of key page `page` of a sequence in a latched bank, with the set's record: `none` for a hole. -/
def State.pageFrame (s : State) (c : Cmd) (slot seq page : Nat) : Option (BindRec × Word) :=
  let t := s.tblSlot 1 slot
  let b := ((c.latches.find? (fun l => l.1 == 1 && l.2.1 == slot)).map (·.2.2.toNat)).getD t.gen.toNat
  match t.kv, (t.pages (b % 2) seq)[page]? with
  | some kv, some f => if f = hole then none else some (kv, f)
  | _, _ => none

/-- The form of the descriptor in a field of a stage. -/
def Cmd.form (c : Cmd) (i f : Nat) : Option DescBody :=
  match c.desc i f with
  | some d => some d.body
  | none => none

/-- Keys and values in frames (R158, R160). -/
def State.kvPaged (s : State) (c : Cmd) (i : Nat) (p : AtPar) : KvSrc :=
  match c.form i 20 with
  | some (.slot sl _ ly sq _) =>
    let at_ (f plane si j off : Nat) : Byte :=
      match s.pageFrame c sl (sq + si) (j / 64) with
      | some (kv, fr) => s.cmdByte c i f (kv.frameVa plane ly fr off)
      | none => 0
    let so (w : Word) : Nat := roundUp (64 * p.hkv * p.pq w) 64
    { k := fun si j h d =>
        let r := j % 64 * p.hkv + h
        rowElem p.fmtK (at_ 20 0 si j) (at_ 20 0 si j) (r * p.pq p.fmtK)
          (so p.fmtK + r * ceilDiv p.dl (fmtBs p.fmtK) + d / fmtBs p.fmtK) d
      v := fun si j h d =>
        rowElem p.fmtV (at_ 21 1 si j) (at_ 21 1 si j) ((j % 64 * p.hkv + h) * p.pq p.fmtV)
          (so p.fmtV + (j % 64 / fmtBs p.fmtV * p.hkv + h) * p.d64 + d) d
      seg := fun si j =>
        match s.pageFrame c sl (sq + si) (j / 64) with
        | some (kv, _) => elemBits 32 (fun o => at_ 20 0 si j (kv.segOff + o)) (j % 64)
        | none => 0 }
  | _ => ⟨fun _ _ _ _ => Ext.zero, fun _ _ _ _ => Ext.zero, fun _ _ => 0⟩

/-- The items of a window. -/
def itemsOf (items : List (Nat × Nat × Nat)) (w : Win) : Nat → Nat → Nat → Bool :=
  if w.lo = 0 ∧ items.length ≤ w.hi then fun _ _ _ => true
  else
    let own := (items.drop w.lo).take (w.hi - w.lo)
    fun si h q => own.contains (si, h, q)

/-- What the items of a window of an attention stage read by query token. -/
def State.atWin (s : State) (c : Cmd) (i : Nat) (st : Stage) (w : Win) : AtIn :=
  let p := atPar st.op st.pb
  let rd := s.streamRd c i
  { p := p, seqs := st.seqs
    q := p.elem p.fmtQ (rd 9) (rd 14) p.hq
    o := p.elem p.fmtO (rd 12) (rd 17) p.hq
    dO := p.elem p.fmtDo (rd 25) (rd 25) p.hq
    lse := fun t h => BitVec.ofNat 32 (elemBits 32 (rd 13) (t * p.hq + h))
    seg := fun t => elemBits 32 (rd 19) t
    rng := ⟨c.seed, c.step, c.crec.rngId + BitVec.ofNat 32 i⟩
    take := itemsOf (p.items st.seqs) w }

/-- What all the items of an attention stage read. -/
def State.atIn (s : State) (c : Cmd) (i : Nat) (st : Stage) : AtIn :=
  s.atWin c i st ⟨0, ((atPar st.op st.pb).items st.seqs).length⟩

/-- The keys and values of the member's own tokens. -/
def State.kvOwn (s : State) (c : Cmd) (i : Nat) (st : Stage) : KvSrc :=
  let p := atPar st.op st.pb
  let rd := s.streamRd c i
  if p.paged then s.kvPaged c i p else p.kvLocal st.seqs (rd 10) (rd 11) (rd 15) (rd 16) (rd 19)

/-! ## Demands -/

/-- What a stage demands: ranges of streams (field, offset, bytes), ranges of addresses (field, address, bytes), and what the demand itself finds
wrong: a page that is a hole, a stream longer than its descriptor. -/
structure Demand where
  streams : List (Nat × Nat × Nat)
  vas     : List (Nat × Nat × Nat)
  bad     : Option Byte

/-- A range of addresses as a stream. -/
def rangeDesc (va n : Nat) : Desc := ⟨false, false, false, 1, 0, 0, 0, .strided va (max 1 n) 1 1 1 1 0 0 0 0⟩

/-- Rows of heads [h, h + n) of the query tokens of a list, of a tensor of an encoding in field f, with its block scales in field fs: D elements of
each row; the padding of a row is not fetched (R127, R268). -/
def AtPar.headRows (p : AtPar) (f fs : Nat) (w : Word) (ts : List Nat) (h n : Nat) : List (Nat × Nat × Nat) :=
  let rows := ts.flatMap (fun t => (upFrom h n).map (t * p.hq + ·))
  let nb := ceilDiv p.dl (fmtBs w)
  rows.map (fun r => (f, r * p.pq w, fmtBytes w p.d))
    ++ (if fmtBlock w then rows.map (fun r => (fs, r * nb, ceilDiv p.d (fmtBs w))) else [])

/-- An FP32 word for each of those rows. -/
def AtPar.headWords (p : AtPar) (f : Nat) (ts : List Nat) (h n : Nat) : List (Nat × Nat × Nat) := ts.map (fun t => (f, 4 * (t * p.hq + h), 4 * n))

/-- The query tokens of a work item: those of its query super-block (R132). -/
def AtPar.itemTokens (p : AtPar) (r : SeqRec) (q : Nat) : List Nat :=
  (upFrom (q * p.qsb) p.qsb).flatMap (fun qb => (p.qRows r qb).map (r.qOff + ·))

/-- The rows of a work item on the query side (R265): Q, the query segments, and in the backward pass O, dO and LSE. -/
def AtPar.itemDemand (p : AtPar) (seqs : List SeqRec) (it : Nat × Nat × Nat) : Demand :=
  match seqs[it.1]? with
  | none => ⟨[], [], none⟩
  | some r =>
    let ts := p.itemTokens r it.2.2
    let h := it.2.1 * p.g
    ⟨p.headRows 9 14 p.fmtQ ts h p.g ++ (if p.segEn then ts.map (fun t => (19, 4 * t, 4)) else [])
      ++ (if p.bwd then p.headRows 12 17 p.fmtO ts h p.g ++ p.headRows 25 25 p.fmtDo ts h p.g ++ p.headWords 13 ts h p.g else []), [], none⟩

/-- What the conversion of a work item's rows of the dQ buffer reads (R143, R145). -/
def AtPar.accumDemand (p : AtPar) (seqs : List SeqRec) (it : Nat × Nat × Nat) : Demand :=
  match seqs[it.1]? with
  | none => ⟨[], [], none⟩
  | some r =>
    let ts := p.itemTokens r it.2.2
    let h := it.2.1 * p.g
    ⟨p.headRows 30 30 0 ts h p.g ++ p.headWords 13 ts h p.g, [], none⟩

/-- What a key block of a KV head asks of K, V, their scales and the key segments (R127, R132). -/
def AtPar.blockDemand (p : AtPar) (e : Nat × SeqRec × Nat × Nat) : List (Nat × Nat × Nat) :=
  let t := e.2.1.kOff + 64 * e.2.2.2
  let n := min 64 (e.2.1.kLen - 64 * e.2.2.2)
  let h := e.2.2.1
  let rows (f : Nat) (w : Word) : List (Nat × Nat × Nat) := (upFrom t n).map (fun t => (f, (t * p.hkv + h) * p.pq w, fmtBytes w p.d))
  let nb := ceilDiv p.dl (fmtBs p.fmtK)
  rows 10 p.fmtK ++ rows 11 p.fmtV
    ++ (if fmtBlock p.fmtK then (upFrom t n).map (fun t => (15, (t * p.hkv + h) * nb, ceilDiv p.d (fmtBs p.fmtK))) else [])
    ++ (if fmtBlock p.fmtV then (upFrom (t / fmtBs p.fmtV) (ceilDiv n (fmtBs p.fmtV))).map (fun b => (16, (b * p.hkv + h) * p.d64, p.d)) else [])
    ++ (if p.segEn then [(19, 4 * t, 4 * n)] else [])

/-- What a key block asks of the frames of a paged command, and whether its page is a hole (R158, R161): its own rows of the KV head, without
their padding (R120, R268). -/
def State.blockPages (s : State) (c : Cmd) (i : Nat) (p : AtPar) (e : Nat × SeqRec × Nat × Nat) : List (Nat × Nat × Nat) × Bool :=
  match c.form i 20 with
  | some (.slot sl _ ly sq _) =>
    match s.pageFrame c sl (sq + e.1) e.2.2.2 with
    | some (kv, f) =>
      let js := List.range (min 64 (e.2.1.kLen - 64 * e.2.2.2))
      let so (w : Word) : Nat := roundUp (64 * p.hkv * p.pq w) 64
      let at_ (g plane off n : Nat) : Nat × Nat × Nat := (g, kv.frameVa plane ly f off, n)
      let row (j : Nat) : Nat := j * p.hkv + e.2.2.1
      let nb := ceilDiv p.dl (fmtBs p.fmtK)
      (js.map (fun j => at_ 20 0 (row j * p.pq p.fmtK) (fmtBytes p.fmtK p.d))
        ++ (if fmtBlock p.fmtK then js.map (fun j => at_ 20 0 (so p.fmtK + row j * nb) (ceilDiv p.d (fmtBs p.fmtK))) else [])
        ++ (if p.segEn then [at_ 20 0 kv.segOff (4 * js.length)] else [])
        ++ js.map (fun j => at_ 21 1 (row j * p.pq p.fmtV) (fmtBytes p.fmtV p.d))
        ++ (if fmtBlock p.fmtV then (List.range (ceilDiv js.length (fmtBs p.fmtV))).map (fun b =>
              at_ 21 1 (so p.fmtV + row b * p.d64) p.d) else []), false)
    | none => ([], true)
  | _ => ([], false)

/-- The elements of a range of an UPDATE (R215, R222), in runs: first and number. A block of W that reaches beyond the range is formed with it
(log 102). -/
def UpPar.runs (p : UpPar) (hasW hasW2 : Bool) (u : Nat) : List (Nat × Nat) :=
  let n := p.rows * p.cols
  if hasW2 then
    (upFrom (64 * u) 64).flatMap (fun q =>
      let r0 := 32 * (q / max 1 (ceilDiv p.cols 32))
      let c0 := 32 * (q % max 1 (ceilDiv p.cols 32))
      (upFrom r0 (min 32 (p.rows - r0))).map (fun r => (r * p.cols + c0, min 32 (p.cols - c0))))
  else
    let hi := min n ((u + 1) * 65536)
    let bs := if hasW ∧ fmtBlock p.fmtW then fmtBs p.fmtW else 1
    let last := hi - 1
    let stop := min (last / max 1 p.cols * p.cols + p.cols) (last / max 1 p.cols * p.cols + (last % max 1 p.cols / bs + 1) * bs)
    if 65536 * u < hi then [(65536 * u, stop - 65536 * u)] else []

/-- What a range of an UPDATE demands: MASTER, G, M and V. -/
def State.upDemand (s : State) (c : Cmd) (st : Stage) (u : Nat) : Demand :=
  let p := upPar st.pb
  let has (o : Nat) : Bool := u64At st.pb o != 0
  let on := ((s.specOf c.ctx false 0x0C st.pb).fields.filter (fun x => x.on && decide (x.f ≤ 11))).map (·.f)
  let bits (f : Nat) : Nat := if f = 8 then 32 else fmtBits (if f = 9 then p.fmtG else if f = 10 then p.fmtM else p.fmtV)
  ⟨on.flatMap (fun f => (p.runs (has 0x60) (has 0x70) u).map (fun r =>
    (f, r.1 * bits f / 8, ceilDiv ((r.1 + r.2) * bits f) 8 - r.1 * bits f / 8))), [], none⟩

/-- The failure of a demand: its status and where it shows. A page that is a hole has no address (log 105). -/
def State.demandBad (s : State) (c : Cmd) (i : Nat) (d : Demand) : Option (Byte × FaultAt) :=
  match d.streams.findSome? (fun x => s.demandFault c i x.1 x.2.1 x.2.2 false) with
  | some x => some x
  | none =>
    match d.bad with
    | some st => some (st, .va 0)
    | none => d.vas.findSome? (fun x => (s.piecesOf c.ctx (rangeDesc x.2.1 x.2.2) 0 x.2.2).findSome? (s.pieceFault c.ctx false false))

/-- The lines that a demand needs, with their fields: each is read by wagons (R261). -/
def State.demandLines (s : State) (c : Cmd) (i : Nat) (d : Demand) : List (Nat × Loc) :=
  d.streams.flatMap (fun x => (s.demandedLines c i x.1 x.2.1 x.2.2).map (fun l => (x.1, l)))
    ++ d.vas.flatMap (fun x => ((s.piecesOf c.ctx (rangeDesc x.2.1 x.2.2) 0 x.2.2).filterMap (s.pieceLine c.ctx)).map (fun l => (x.1, l)))

end Sys2Proof.Machine
end

