-- ==== Sys2Proof/Machine/Tiles.lean ====
section
/-!
DEFINITION. Tiles of streams on the cores of a stage (R265, R268, R284, R285), the core that writes a byte of an output (R82, R132, R185,
R192), and the panels of a MATMUL in the Platforms (R266, R497).
-/
namespace Sys2Proof.Machine

/-! ## Shares of a core -/

/-- The share of core entry `ci` of an m × n result on a grid (R82). -/
def shareAt (m n gm gn ci : Nat) : Share := nth ⟨0, 0, 0, 0, 0⟩ (shares (List.range (ci + 1)) m n gm gn) ci

/-- The core entry of output (i, j) of a result on tiles of mc × nc (R82). -/
def entryAt (mc nc gn i j : Nat) : Nat := i / mc * gn + j / nc

/-- The outputs of region t of a share, row by row (R67, R69). -/
def regionOf (g : Tiling) (s : Share) (t : Nat) : List (Nat × Nat) :=
  (g.rowsOf s t).flatMap (fun i => (g.colsOf s t).map (fun j => (i, j)))

/-- The row of X that core entry `ci` handles t-th: rows in ranges, and in a chain the bands b with b mod NCORE = ci (R192, R285). -/
def NmPar.rowAt (p : NmPar) (chained : Bool) (ci t : Nat) : Option Nat :=
  let n := max 1 p.ncore
  let row := if chained then 32 * (ci + n * (t / 32)) + t % 32 else ci * ceilDiv p.rows n + t
  if row < p.rows ∧ (chained ∨ t < ceilDiv p.rows n) then some row else none

/-! ## Operand elements of a product -/

/-- The byte of the input's zero map for that element (R98). -/
def CvPar.mapByte (p : CvPar) (e : Nat × Nat × Nat × Nat × Nat) : Nat :=
  let row := ((e.1 * p.ad.i + e.2.2.1) * p.ah.i + e.2.2.2.1) * p.aw.i + e.2.2.2.2
  mapRowBytes p.cin * (row / 4) + e.2.1 / 32

/-- The input elements that pooling reads for a share, in the order of its outputs (R101). -/
def CvPar.poolReads (p : CvPar) (sh : Share) : List (Nat × Nat × Nat × Nat × Nat) :=
  sh.rowList.flatMap (fun m => (List.range p.taps).flatMap (fun t =>
    match p.source m (t / (p.ah.k * p.aw.k)) (t / p.aw.k % p.ah.k) (t % p.aw.k) with
    | some q => (List.range p.cin).map (fun c => (q.1, c, q.2.1, q.2.2.1, q.2.2.2))
    | none => []))

/-! ## Spans -/

/-- The bytes of elements of `bits` bits of a plane, by their indices. -/
def elemSpans (f bits : Nat) (es : List Nat) : List (Nat × Nat × Nat) :=
  es.eraseDups.map (fun e => (f, e * bits / 8, ceilDiv ((e + 1) * bits) 8 - e * bits / 8))

/-- The bytes of the elements [lo, hi) of a plane. -/
def runSpan (f bits lo hi : Nat) : List (Nat × Nat × Nat) :=
  if lo < hi then [(f, lo * bits / 8, ceilDiv (hi * bits) 8 - lo * bits / 8)] else []

/-- The planes of an operand whose cells are given: elements, scales, zero points (R53, R497). -/
def cellSpans (w : Word) (fe fs fz : Nat) (cells : List (Nat × Nat)) (f : Nat) : List (Nat × Nat × Nat) :=
  if f = fe then elemSpans fe (fmtBits w) (cells.map (·.1))
  else if f = fs then elemSpans fs (if fmtBlock w then 8 else 16) (cells.map (·.2))
  else if f = fz then elemSpans fz 8 (cells.map (·.2))
  else []

/-- Tile t of an input of a MATMUL on core entry ci (R265). -/
def mmTile (p : MmPar) (f ci t : Nat) : List (Nat × Nat × Nat) :=
  let sh := shareAt p.m p.n p.gm p.gn ci
  let ks := chunkOf p.chunkK p.k t
  if !sh.busy then []
  else if f = 9 ∨ f = 12 ∨ f = 14 then cellSpans p.fmtA 9 12 14 (sh.rowList.flatMap (fun i => ks.filterMap (p.cellA i))) f
  else if f = 10 ∨ f = 13 ∨ f = 15 then cellSpans p.fmtB 10 13 15 (ks.flatMap (fun k => sh.colList.filterMap (p.cellB k))) f
  else if f = 21 then
    elemSpans 21 8 (sh.rowList.flatMap (fun i => ks.map (fun k => mapRowBytes p.k * (i / 4) + k / 32)))
  else if p.contOut then []
  else if f = 17 ∨ f = 18 then (if t = 0 then runSpan f (fmtBits p.fmtVec) sh.c0 (sh.c0 + sh.cols) else [])
  else if f = 19 then elemSpans 19 (fmtBits p.fmtResid) ((regionOf p.tiling sh t).map (fun e => e.1 * p.n + e.2))
  else []

/-- The cells of the input that tile t of A holds on core entry ci: the tiles of pooling follow the order in which its outputs read the elements. -/
def CvPar.tileCells (p : CvPar) (ci t : Nat) : List (Nat × Nat) :=
  let mp := p.mapped
  if 2 ≤ p.mode then
    let n := 16384 * 8 / max 1 (fmtBits mp.fmtA)
    ((((p.poolReads (shareAt p.positions p.cout mp.gm 1 ci)).map p.inCell).eraseDups).drop (t * n)).take n
  else ((let sh := shareAt mp.m mp.n mp.gm mp.gn ci; p.gathered sh.rowList sh.colList (chunkOf mp.chunkK mp.k t))).map p.inCell

/-- Their element indices. -/
def cvCells (p : CvPar) (ci t : Nat) : List Nat := (p.tileCells ci t).map (·.1)

/-- Tile t of an input of a CONV on core entry ci (R265). The 16 KiB tiles of pooling follow the order in which its outputs read the
elements (DESIGN CHOICE, log 109). -/
def cvTile (p : CvPar) (f ci t : Nat) : List (Nat × Nat × Nat) :=
  let mp := p.mapped
  if 2 ≤ p.mode then
    cellSpans mp.fmtA 13 16 18 (p.tileCells ci t) f
  else
    let sh := shareAt mp.m mp.n mp.gm mp.gn ci
    let ks := chunkOf mp.chunkK mp.k t
    if !sh.busy then []
    else if f = 13 ∨ f = 16 ∨ f = 18 then cellSpans mp.fmtA 13 16 18 (p.tileCells ci t) f
    else if f = 14 ∨ f = 17 ∨ f = 19 then cellSpans mp.fmtB 14 17 19 (ks.flatMap (fun k => sh.colList.filterMap (p.cellB k))) f
    else if f = 25 then elemSpans 25 8 ((p.gathered sh.rowList sh.colList ks).map p.mapByte)
    else if p.contOut then []
    else if f = 21 ∨ f = 22 then (if t = 0 then runSpan f (fmtBits mp.fmtVec) sh.c0 (sh.c0 + sh.cols) else [])
    else if f = 23 then elemSpans 23 (fmtBits mp.fmtResid) ((regionOf p.tiling sh t).map (fun e =>
      let q := p.pos e.1
      actIndex p.cb (chanBlocks p.cb mp.fmtResid p.cout) p.od p.oh p.ow q.1 e.2 q.2.1 q.2.2.1 q.2.2.2))
    else []

/-- Elements [lo, hi) of tile t of a flat input with elements of w on core entry ci, whose run is e elements of n (R185, R265). -/
def flatTile (w : Word) (n e ci t : Nat) : Nat × Nat :=
  let per := 16384 * 8 / max 1 (fmtBits w)
  (ci * e + t * per, min (min n ((ci + 1) * e)) (ci * e + (t + 1) * per))

/-- The word of an input plane of a VECFN, and the field of its elements. -/
def VfPar.plane (p : VfPar) (f : Nat) : Word × Nat :=
  if f = 7 ∨ f = 12 then (p.fmtX, 7) else if f = 8 ∨ f = 13 then (p.fmtG, 8) else (p.fmtDy, 9)

/-- The elements of a work item's output rows, by flat index (R132, R199). -/
def AtPar.itemElems (p : AtPar) (seqs : List SeqRec) (it : Nat × Nat × Nat) : List Nat :=
  match seqs[it.1]? with
  | none => []
  | some r =>
    (upFrom (it.2.1 * p.g) p.g).flatMap (fun h => (upFrom (it.2.2 * p.qsb) p.qsb).flatMap (fun qb => (p.qRows r qb).flatMap (fun i =>
      (List.range p.d).map (fun d => ((r.qOff + i) * p.hq + h) * p.d + d))))

/-- The core entry of a work item: at the start every listed core is idle, and later items go to the first that falls idle, which the spec
leaves open (free value, log 110). -/
def itemEntry (cores item : Nat) : Nat := if cores ≤ 1 then 0 else if item < cores then item else Config.itemCore item % cores

/-- The work items of core entry ci, in order, with their numbers. -/
def AtPar.itemsOn (p : AtPar) (seqs : List SeqRec) (cores ci : Nat) : List ((Nat × Nat × Nat) × Nat) :=
  (p.items seqs).zipIdx.filter (fun e => itemEntry cores e.2 == ci)

/-- The elements of the t-th region that a producer's core entry ci puts out, by flat index (R199, R284). -/
def regionElems (st : Stage) (ci t : Nat) : List Nat :=
  match st.op with
  | 0x01 =>
    let p := mmPar st.pb
    (regionOf p.tiling (shareAt p.m p.n p.gm p.gn ci) t).map (fun e => e.1 * p.n + e.2)
  | 0x02 =>
    let p := cvPar st.pb
    let mp := p.mapped
    (regionOf p.tiling (shareAt mp.m mp.n mp.gm mp.gn ci) t).map (fun e => e.1 * mp.n + e.2)
  | 0x03 =>
    let p := atPar 3 st.pb
    (((p.itemsOn st.seqs st.cores.length ci)[t]?).map (fun e => p.itemElems st.seqs e.1)).getD []
  | 0x05 =>
    let p := vfPar st.pb
    let r := flatTile p.fmtX p.n (flatRun p.n p.ncore 512) ci t
    upFrom r.1 (r.2 - r.1)
  | _ => []

/-- Regions that a core entry of a producer may put out. -/
def regionCount (st : Stage) : Nat :=
  match st.op with
  | 0x01 => (mmPar st.pb).tiling.regions
  | 0x02 => (cvPar st.pb).tiling.regions
  | 0x03 => ((atPar 3 st.pb).items st.seqs).length
  | 0x05 => (vfPar st.pb).n / 4096 + 1
  | _ => 0

/-- Tile t of an input of a VECFN: 16 KiB of elements, or behind an ELEM hand-over the indices of one producer region (R265, R284). -/
def vfTile (sts : List Stage) (i : Nat) (p : VfPar) (f ci t : Nat) : List (Nat × Nat × Nat) :=
  let w := (p.plane f).1
  let scale := decide (12 ≤ f)
  let root := rootOf sts 4 i
  if root ≠ i then
    let es := regionElems (nth Stage.none sts root) ci t
    if scale then elemSpans f 8 (es.map (· / fmtBs w)) else elemSpans f (fmtBits w) es
  else
    let r := flatTile w p.n (flatRun p.n p.ncore 512) ci t
    if scale then (if r.1 < r.2 then runSpan f 8 (r.1 / fmtBs w) (ceilDiv r.2 (fmtBs w)) else []) else runSpan f (fmtBits w) r.1 r.2

/-- Tile t of the source of a COPY that is not compressed. -/
def cpTile (p : CpPar) (f ci t : Nat) : List (Nat × Nat × Nat) :=
  let r := flatTile p.fmtS p.n (flatRun p.n p.ncore p.unit) ci t
  if f = 5 then runSpan 5 (fmtBits p.fmtS) r.1 r.2
  else if f = 7 ∧ r.1 < r.2 then runSpan 7 8 (r.1 / fmtBs p.fmtS) (ceilDiv r.2 (fmtBs p.fmtS))
  else []

/-- The chunks of a compressed stream that a core takes (R244). -/
def CpPar.coreChunks (p : CpPar) (w : Word) : Nat := flatRun p.n p.ncore p.unit * fmtBits w / 8 / 4096

/-- LINES of the chunks before chunk k of a compressed stream, by its directory (R240). -/
def linesBefore (rd : Nat → Byte) (k : Nat) : Nat := (List.range k).foldl (fun a i => a + field (elemBits 32 (fun o => rd (64 + o)) i) 9 3) 0

/-- Bytes of the header and the directory of a compressed stream. -/
def streamHead (rd : Nat → Byte) : Nat := 64 + roundUp (4 * elemBits 32 rd 0) 64

/-- Tile t of a compressed source: the chunks of 16 KiB of element bytes of core entry ci, where its directory places them. -/
def compTile (rd : Nat → Byte) (p : CpPar) (ci t : Nat) : List (Nat × Nat × Nat) :=
  let per := p.coreChunks p.fmtS
  let last := min ((ci + 1) * per) (ceilDiv (fmtBytes p.fmtS p.n) 4096)
  let lo := ci * per + 4 * t
  let hi := min last (lo + 4)
  if hi ≤ lo then []
  else [(5, streamHead rd + 64 * linesBefore rd lo, 64 * (linesBefore rd hi - linesBefore rd lo))]

/-- The core entry that writes byte o of a compressed destination: its chunk, its entry of the directory; the header goes with the first (DESIGN
CHOICE, log 18). -/
def CpPar.compWriter (p : CpPar) (b : List Byte) (o : Nat) : Nat :=
  let rd := nth 0 b
  let per := max 1 (p.coreChunks p.fmtD)
  let n := elemBits 32 rd 0
  if o < 64 then 0
  else if o < streamHead rd then min ((o - 64) / 4) (n - 1) / per
  else ((List.range n).filter (fun k => decide (streamHead rd + 64 * linesBefore rd (k + 1) ≤ o))).length / per

/-- Tile t of an input of a NORM: one row; γ and β whole, once (R265). -/
def nmTile (p : NmPar) (chained : Bool) (f ci t : Nat) : List (Nat × Nat × Nat) :=
  if f = 8 ∨ f = 9 then (if t = 0 then runSpan f (fmtBits p.fmtGb) 0 p.l else [])
  else
    match p.rowAt chained ci t with
    | none => []
    | some row =>
      let lw := if fmtBlock p.fmtX then roundUp p.l (fmtBs p.fmtX) else p.l
      if f = 6 then runSpan 6 (fmtBits p.fmtX) (row * lw) (row * lw + p.l)
      else if f = 10 then runSpan 10 (fmtBits p.fmtDy) (row * p.l) (row * p.l + p.l)
      else if f = 11 ∨ f = 12 then [(f, 4 * row, 4)]
      else if f = 14 then runSpan 14 8 (row * (lw / fmtBs p.fmtX)) ((row + 1) * (lw / fmtBs p.fmtX))
      else []

/-! ## Key blocks of a work item (R132, R265) -/

/-- Tokens of a member's shard. -/
def Stage.shard (st : Stage) : Nat := kTokens st.seqs

/-- The offsets of K, V, KSC, VSC and the key SEG in a slot image, and of the accumulators after them. -/
def partOffs (p : AtPar) (n : Nat) : List Nat := ((p.ringPart n).foldl (fun (a : List Nat × Nat) x => (a.1 ++ [a.2], a.2 + x)) ([], 0)).1

/-- The address of slot k of the ring buffer. -/
def slotVa (p : AtPar) (n k : Nat) : Nat := p.ringBuf + k % 2 * p.slotBytes n

/-- The key blocks that an item needs of the chunk of member o (R122). -/
def AtPar.itemBlocks (p : AtPar) (r : SeqRec) (o : Nat) (q : Nat) : List Nat :=
  (List.range r.kBlocks).filter (fun kb => (upFrom (q * p.qsb) p.qsb).any (fun qb => decide (qb < p.qBlocks r) && !p.skip r o qb kb))

/-- The member whose chunk a ring stage meets at a step (R135); without a ring its own. -/
def AtPar.originAt (p : AtPar) (step : Nat) : Nat := if step = 0 then p.ringPos else (p.ringPos + p.ringLen * 2 - step) % max 1 p.ringLen

/-- The number of key block b of an item at a step of its ring. -/
def keyTileNo (step item b : Nat) : Nat := (step * 2 ^ 24 + item) * 2 ^ 24 + b

/-- The key block that a tile of K or V stands for. -/
def Stage.keyBlock (st : Stage) (t : Nat) : Option (Nat × SeqRec × Nat × Nat) :=
  let p := atPar st.op st.pb
  ((p.items st.seqs)[t / 2 ^ 24 % 2 ^ 24]?).bind (fun it => (st.seqs[it.1]?).bind (fun r =>
    ((p.itemBlocks r (p.originAt (t / 2 ^ 48)) it.2.2)[t % 2 ^ 24]?).map (fun kb => (it.1, r, it.2.1, kb))))

/-- What a key block asks of the ring slot that holds its chunk (R138). -/
def AtPar.slotDemand (p : AtPar) (n step : Nat) (e : Nat × SeqRec × Nat × Nat) : List (Nat × Nat × Nat) :=
  (p.blockDemand e).map (fun x => (x.1, slotVa p n step + nth 0 (partOffs p n) (([10, 11, 15, 16, 19].findIdx? (· == x.1)).getD 0) + x.2.1, x.2.2))

/-- Tile t of K, V, their scales or the key segments. -/
def State.keyTile (s : State) (c : Cmd) (i : Nat) (st : Stage) (f t : Nat) : Demand :=
  let p := atPar st.op st.pb
  match st.keyBlock t with
  | none => ⟨[], [], none⟩
  | some e =>
    if t / 2 ^ 48 ≠ 0 then ⟨[], (p.slotDemand st.shard (t / 2 ^ 48) e).filter (fun x => x.1 == f), none⟩
    else if p.paged then
      let d := s.blockPages c i p e
      ⟨[], d.1.filter (fun x => x.1 == f), if d.2 then some stXlate else none⟩
    else ⟨(p.blockDemand e).filter (fun x => x.1 == f), [], none⟩

/-! ## ZC tensors (R104) -/

/-- The lines of segments that a ZC input stores for elements, by their indices: addresses, each of 64 bytes. -/
def State.zcLines (s : State) (c : Cmd) (i : Nat) (p : CvPar) (hdr : Nat) (es : List Nat) : List (Nat × Nat × Nat) :=
  let rd (a n : Nat) : Nat := leNat ((upFrom a n).map (s.cmdByte c i 27))
  let seg := zcSegBytes p.mm.fmtA p.cb
  ((es.map (fun e => e * fmtBits p.mm.fmtA / 8 / 64)).eraseDups).filterMap (fun l =>
    let k := l * 64 / max 1 seg
    let q := l - k * seg / 64
    let e := rd (rd hdr 8 + 8 * k) 8
    if !bitAt (field e 31 0) q then none
    else if bitAt e 63 then some (27, rd (hdr + 0x18) 8 + k * seg + 64 * q, 64)
    else some (27, rd (hdr + 8) 8 + 64 * (field e 62 32 + maskRank (field e 31 0) q), 64))

/-! ## Tiles -/

/-- The field whose RA a stream follows (R265): its own, or that of the operand whose plane it is. -/
def leadOf (op f : Nat) : Option Nat :=
  match op with
  | 0x01 => if f = 9 ∨ f = 12 ∨ f = 14 ∨ f = 21 then some 9 else if f = 10 ∨ f = 13 ∨ f = 15 then some 10 else if f = 19 then some 19 else none
  | 0x02 => if f = 13 ∨ f = 16 ∨ f = 18 ∨ f = 25 then some 13 else if f = 14 ∨ f = 17 ∨ f = 19 then some 14 else if f = 23 then some 23 else none
  | 0x05 => if f = 7 ∨ f = 12 then some 7 else if f = 8 ∨ f = 13 then some 8 else if f = 9 ∨ f = 14 then some 9 else none
  | 0x07 => if f = 5 ∨ f = 7 then some 5 else none
  | _ => none

/-- Tiles that a stream may be ahead of its consumer (R265, R267). The lines of a ZC input are known once its index has been read: its tiles are
fetched when they are demanded (log 20). -/
def Stage.ahead (st : Stage) (f : Nat) : Nat :=
  match leadOf st.op f with
  | some g => ((st.descs.find? (fun d => d.1 == g)).map (fun d => d.2.ra)).getD 0
  | .none =>
    match st.op with
    | 0x01 => 1
    | 0x02 => if f = 27 then 0 else 1
    | 0x03 => if f = 10 ∨ f = 11 ∨ f = 15 ∨ f = 16 ∨ f = 19 ∨ f = 20 ∨ f = 21 then 3 else 0
    | 0x04 => if f = 10 ∨ f = 11 ∨ f = 15 ∨ f = 16 ∨ f = 19 ∨ f = 20 ∨ f = 21 then 3 else 0
    | 0x06 => 1
    | _ => 0

/-- Tile t of a stream on core entry ci: what it fetches, of a zero map what its descriptor covers, and nothing of a map that is not read (R88,
R265, R268, R293). -/
def State.tileDemand (s : State) (c : Cmd) (i : Nat) (st : Stage) (f ci t : Nat) : Demand :=
  let clip (l : List (Nat × Nat × Nat)) : List (Nat × Nat × Nat) :=
    match (c.desc i f).bind Desc.extent with
    | some e => if (s.ctx c.ctx).noZspec then [] else l.filter (fun x => decide (x.2.1 + x.2.2 ≤ e))
    | none => []
  match st.op with
  | 0x01 => let l := mmTile (mmPar st.pb) f ci t; ⟨if f = 21 then clip l else l, [], none⟩
  | 0x02 =>
    let p := cvPar st.pb
    if f = 27 then ⟨[], s.zcLines c i p (u64At st.pb 0xD8) (cvCells p ci t), none⟩
    else let l := cvTile p f ci t; ⟨if f = 25 then clip l else l, [], none⟩
  | 0x03 => s.keyTile c i st f t
  | 0x04 => s.keyTile c i st f t
  | 0x05 => ⟨vfTile c.stages i (vfPar st.pb) f ci t, [], none⟩
  | 0x06 => ⟨nmTile (nmPar st.pb) c.chained f ci t, [], none⟩
  | 0x07 =>
    let p := cpPar st.pb
    ⟨if p.compIn then compTile (s.streamRd c i 5) p ci t else cpTile p f ci t, [], none⟩
  | _ => ⟨[], [], none⟩

def Demand.isEmpty (d : Demand) : Bool := d.streams.isEmpty && d.vas.isEmpty && d.bad.isNone

/-! ## The core that writes -/

/-- The core entry that handles query row (t, h), or writes key row (t, h), of an attention stage (R132, R144). -/
def AtPar.queryEntry (p : AtPar) (seqs : List SeqRec) (cores t h : Nat) : Nat :=
  match seqs.findIdx? (fun r => decide (r.qOff ≤ t) && decide (t < r.qOff + r.qLen)) with
  | some si =>
    let qb := (t - (nth ⟨0, 0, 0, 0, 0, 0⟩ seqs si).qOff) / max 1 p.qb
    itemEntry cores (((p.items seqs).findIdx? (fun it => it == (si, h / max 1 p.g, qb / max 1 p.qsb))).getD 0)
  | none => 0

def AtPar.keyEntry (p : AtPar) (seqs : List SeqRec) (cores t h : Nat) : Nat :=
  match seqs.findIdx? (fun r => decide (r.kOff ≤ t) && decide (t < r.kOff + r.kLen)) with
  | some si =>
    let last := ceilDiv (p.qBlocks (nth ⟨0, 0, 0, 0, 0, 0⟩ seqs si)) (max 1 p.qsb) - 1
    itemEntry cores (((p.items seqs).findIdx? (fun it => it == (si, h, last))).getD 0)
  | none => 0

/-- The core entry that puts out element e of the primary output of a producer, by R199's flat index (R82, R132, R185). -/
def elemEntry (st : Stage) (e : Nat) : Nat :=
  match st.op with
  | 0x01 =>
    let p := mmPar st.pb
    entryAt (tileExtent p.m p.gm) (tileExtent p.n p.gn) p.gn (e / max 1 p.n) (e % max 1 p.n)
  | 0x02 =>
    let p := cvPar st.pb
    let mp := p.mapped
    let gn := if 2 ≤ p.mode then 1 else mp.gn
    entryAt (tileExtent (if 2 ≤ p.mode then p.positions else mp.m) mp.gm) (tileExtent p.cout gn) gn (e / max 1 p.cout) (e % max 1 p.cout)
  | 0x03 =>
    let p := atPar 3 st.pb
    let row := e / max 1 p.d
    p.queryEntry st.seqs st.cores.length (row / max 1 p.hq) (row % max 1 p.hq)
  | 0x05 =>
    let p := vfPar st.pb
    e / max 1 (flatRun p.n p.ncore 512)
  | _ => 0

/-- The core entry that has element e of stage i: an ELEM consumer's is its producer's (R284). -/
def stageEntry (sts : List Stage) (i e : Nat) : Nat := elemEntry (nth Stage.none sts (rootOf sts 4 i)) e

/-- The core entry that writes byte o of an output field of a stage (R82, R132, R185, R192, R285). -/
def Stage.writerOf (st : Stage) (sts : List Stage) (i : Nat) (chained : Bool) (f o : Nat) : Nat :=
  match st.op with
  | 0x01 =>
    let p := mmPar st.pb
    let own := entryAt (tileExtent p.m p.gm) (tileExtent p.n p.gn) p.gn
    let bs := fmtBs p.fmtC
    let lw := if fmtBlock p.fmtC && !p.obM then roundUp p.n bs else p.n
    if f = 11 then ownElem p.m p.n lw own (o * 8 / max 1 (fmtBits p.fmtC))
    else if f = 16 then ownScale p.m p.n bs p.obM own o
    else if f = 20 then ownElem p.m p.n p.n own (o * 8 / max 1 (fmtBits p.fmtPre))
    else ownMap p.m p.n own o
  | 0x02 =>
    let p := cvPar st.pb
    let mp := p.mapped
    let gn := if 2 ≤ p.mode then 1 else mp.gn
    let m := if 2 ≤ p.mode then p.positions else mp.m
    let own := entryAt (tileExtent m mp.gm) (tileExtent p.cout gn) gn
    let w := if f = 24 then mp.fmtPre else mp.fmtC
    let nblk := chanBlocks p.cb w p.cout
    let bs := fmtBs w
    if f = 28 then 0
    else if f = 26 then ownMap m p.cout own o
    else if p.mode = 1 then ownElem m p.cout p.cout own (o * 8 / max 1 (fmtBits w))
    else if f = 20 then (if bs ≤ p.cb then p.ownLayout (p.cb / bs) nblk bs own o else p.ownLayout 1 (nblk * p.cb / bs) bs own o)
    else p.ownLayout p.cb nblk 1 own (o * 8 / max 1 (fmtBits w))
  | 0x03 =>
    let p := atPar 3 st.pb
    let q (r : Nat) : Nat := p.queryEntry st.seqs st.cores.length (r / max 1 p.hq) (r % max 1 p.hq)
    if f = 12 then q (o / p.pq p.fmtO) else if f = 17 then q (o / max 1 (ceilDiv p.dl (fmtBs p.fmtO))) else q (o / 4)
  | 0x04 =>
    let p := atPar 4 st.pb
    let q (r : Nat) : Nat := p.queryEntry st.seqs st.cores.length (r / max 1 p.hq) (r % max 1 p.hq)
    let k (r : Nat) : Nat := p.keyEntry st.seqs st.cores.length (r / max 1 p.hkv) (r % max 1 p.hkv)
    if f = 26 then q (o / p.pq p.fmtDq) else if f = 29 then q (o / 4) else if f = 30 then q (o / p.pq 0) else k (o / p.pq p.fmtDkv)
  | 0x05 =>
    let p := vfPar st.pb
    let w := if f = 11 ∨ f = 16 then p.fmtY2 else p.fmtY
    stageEntry sts i (if 15 ≤ f then o * fmtBs w else o * 8 / max 1 (fmtBits w))
  | 0x06 =>
    let p := nmPar st.pb
    let lw := if fmtBlock p.fmtY then roundUp p.l (fmtBs p.fmtY) else p.l
    let row := if f = 7 then o * 8 / max 1 (fmtBits p.fmtY) / max 1 lw else if f = 15 then o / max 1 (lw / fmtBs p.fmtY) else o / 4
    p.entryOf chained row
  | 0x07 =>
    let p := cpPar st.pb
    (if f = 8 then o * fmtBs p.fmtD else o * 8 / max 1 (fmtBits p.fmtD)) / max 1 (flatRun p.n p.ncore p.unit)
  | _ => 0

/-- The bytes of an output from offset o on, cut where the writing core changes: core entry, offset, bytes. -/
def cutWriters (own : Nat → Nat) : Nat → List Byte → List (Nat × Nat × List Byte)
  | _, [] => []
  | o, b :: t =>
    match cutWriters own (o + 1) t with
    | (k, p, l) :: u => if own o = k then (k, o, b :: l) :: u else (own o, o, [b]) :: (k, p, l) :: u
    | [] => [(own o, o, [b])]

/-! ## Panels in the Platforms (R266, R497) -/

/-- What stage i of a command asks for. -/
def State.cmdSpec (s : State) (c : Cmd) (i : Nat) : OpSpec :=
  fitSpec c.stages i (s.specOf c.ctx c.chained (nth Stage.none c.stages i).op (nth Stage.none c.stages i).pb)

/-- Where the buffer of a stream lies in the Platform of a core: at PLAT_OFF, or where admission placed it. -/
def State.bufferOf (s : State) (c : Cmd) (i f core : Nat) : Option Nat :=
  match c.desc i f with
  | none => none
  | some d =>
    if !d.platAuto then some d.platOff
    else
      let placed := (c.stages.zipIdx.filter (fun e => e.1.cores.contains core)).flatMap (fun e =>
        let z := s.cmdSpec c e.2
        z.fields.filterMap (fun x =>
          match e.1.descs.find? (fun y => y.1 == x.f) with
          | some (_, y) => if x.role.honoured && y.platAuto && !y.isHand then some (some (e.2, x.f)) else none
          | none => none) ++ z.fixed.map (fun _ => none))
      let mine := c.resv.plat.filter (fun r => r.1 == core)
      (placed.findIdx? (fun x => x == some (i, f))).bind (fun k => ((mine.drop (mine.length - placed.length))[k]?).map (fun r => r.2.1))

/-- The rows of chunk t of A (field 9) or B (field 10) of a MATMUL on a share, as cells; `none` is padding (R75). -/
def mmPanel (p : MmPar) (sh : Share) (f t : Nat) : List (List (Option (Nat × Nat))) :=
  let ks := upFrom (t * p.chunkK) p.chunkK
  if f = 9 then
    if p.transA then ks.map (fun k => sh.rowList.map (fun i => p.cellA i k)) else sh.rowList.map (fun i => ks.map (p.cellA i))
  else
    if p.transB then sh.colList.map (fun j => ks.map (fun k => p.cellB k j)) else ks.map (fun k => sh.colList.map (p.cellB k))

/-- The same of a CONV, whose rows are gathered (R75, R92, R95, R96, R100): chunk t of A (field 13) or B (field 14). With several groups the columns
of a share may gather different rows: the panel is that of its first (DESIGN CHOICE, log 113). -/
def CvPar.cvPanel (p : CvPar) (sh : Share) (f t : Nat) : List (List (Option (Nat × Nat))) :=
  let mp := p.mapped
  let ks := upFrom (t * mp.chunkK) mp.chunkK
  let cellA (i k : Nat) : Option (Nat × Nat) :=
    if mp.k ≤ k then none else (if p.mode = 1 then p.wgradAt i sh.c0 k else p.gatherAt (sh.c0 / 32) i k).map p.inCell
  if f = 13 then
    if p.mode = 1 then ks.map (fun k => sh.rowList.map (fun i => cellA i k)) else sh.rowList.map (fun i => ks.map (cellA i))
  else ks.map (fun k => sh.colList.map (fun j => if mp.k ≤ k then none else p.cellB k j))

/-- A tile as it stands in the buffer of its stream (R265, R266): the format word, the fields of its scales and zero points, and its rows of cells,
each an element index with a scale index; `none` is padding. -/
structure TilePlan where
  w    : Word
  fs   : Nat
  fz   : Nat
  rows : List (List (Option (Nat × Nat)))

/-- A tile of elements in a flat run. -/
def flatPlan (w : Word) (fs : Nat) (es : List Nat) : TilePlan := ⟨w, fs, fs, [es.map (fun e => some (e, e / fmtBs w))]⟩

/-- Rows of the residual of a region (R265). -/
def residPlan (w : Word) (g : Tiling) (sh : Share) (t : Nat) (at_ : Nat → Nat → Nat) : TilePlan :=
  ⟨w, 0, 0, (g.rowsOf sh t).map (fun i => (g.colsOf sh t).map (fun j => some (at_ i j, 0)))⟩

/-- Tile t of an honoured element stream of stage i on core entry ci, as it stands in its buffer. A compressed source has no such form, and of
the item buffers, key blocks and rows of the other streams the spec lays out no byte (log 113). -/
def tilePlan (sts : List Stage) (i : Nat) (st : Stage) (f ci t : Nat) : Option TilePlan :=
  match st.op with
  | 0x01 =>
    let p := mmPar st.pb
    let sh := shareAt p.m p.n p.gm p.gn ci
    if f = 9 then some ⟨p.fmtA, 12, 14, mmPanel p sh 9 t⟩
    else if f = 10 then some ⟨p.fmtB, 13, 15, mmPanel p sh 10 t⟩
    else if f = 19 then some (residPlan p.fmtResid p.tiling sh t (fun i j => i * p.n + j))
    else none
  | 0x02 =>
    let p := cvPar st.pb
    let mp := p.mapped
    if 2 ≤ p.mode then (if f = 13 then some ⟨mp.fmtA, 16, 18, [(p.tileCells ci t).map some]⟩ else none)
    else
      let sh := shareAt mp.m mp.n mp.gm mp.gn ci
      if f = 13 then some ⟨mp.fmtA, 16, 18, p.cvPanel sh 13 t⟩
      else if f = 14 then some ⟨mp.fmtB, 17, 19, p.cvPanel sh 14 t⟩
      else if f = 23 then some (residPlan mp.fmtResid p.tiling sh t (fun i j =>
        let q := p.pos i
        actIndex p.cb (chanBlocks p.cb mp.fmtResid p.cout) p.od p.oh p.ow q.1 j q.2.1 q.2.2.1 q.2.2.2))
      else none
  | 0x05 =>
    let p := vfPar st.pb
    if f < 7 ∨ 9 < f then none
    else
      let w := (p.plane f).1
      let root := rootOf sts 4 i
      let r := flatTile w p.n (flatRun p.n p.ncore 512) ci t
      some (flatPlan w (f + 5) (if root ≠ i then regionElems (nth Stage.none sts root) ci t else upFrom r.1 (r.2 - r.1)))
  | 0x07 =>
    let p := cpPar st.pb
    let r := flatTile p.fmtS p.n (flatRun p.n p.ncore p.unit) ci t
    if f = 5 ∧ !p.compIn then some (flatPlan p.fmtS 7 (upFrom r.1 (r.2 - r.1))) else none
  | _ => none

/-- Write bytes to Platforms: partial regions (R70), panels. -/
def State.writeParts (s : State) (ps : List (Nat × Nat × List Byte)) : State :=
  { s with mem := ps.foldl (fun m p => m.write (.plat p.1 p.2.1) p.2.2) s.mem }

/-- The bytes that plane f of tile t puts into the buffer of its operand (R265, R266): slot t mod (RA + 1), rows of A, B and residuals at PITCH lines;
after the elements the scales and then the zero points, in the order of their elements. -/
def State.panelParts (s : State) (c : Cmd) (i : Nat) (st : Stage) (f ci t : Nat) : List (Nat × Nat × List Byte) :=
  let core := nth 0 st.cores ci
  let lead := (leadOf st.op f).getD f
  match tilePlan c.stages i st lead ci t, c.desc i lead, s.bufferOf c i lead core, (s.cmdSpec c i).fields.find? (fun x => x.f == lead) with
  | some p, some d, some base, some x =>
    if d.isHand then []
    else
      let at_ := base + t % (d.ra + 1) * x.tileBytes d
      let scales := ((p.rows.flatMap id).filterMap id).map (·.2)
      let width := if fmtBlock p.w then 1 else 2
      let elems := if x.row = 0 then x.rows else x.rows * panelLines d x.row * 64
      let plane (n : Nat) : List Byte := (scales.eraseDups).flatMap (fun g => (upFrom (n * g) n).map (s.streamRd c i f))
      if f = lead then
        let bits := fmtBits p.w
        p.rows.zipIdx.map (fun r => (core, at_ + r.2 * panelLines d x.row * 64,
          packElems bits (r.1.map (fun e => (e.map (fun e => elemBits bits (s.streamRd c i f) e.1)).getD 0))))
      else if f = p.fs then [(core, at_ + elems, plane width)]
      else if f = p.fz then [(core, at_ + elems + width * scales.eraseDups.length, plane 1)]
      else []
  | _, _, _, _ => []

end Sys2Proof.Machine
end

