-- ==== Sys2Proof/Machine/Steps.lean ====
section
/-!
DEFINITION. The units of a stage's work, between which a command may yield (R74, R134, R185, R192, R222), and the steps in which a unit
consumes its tiles (R265, R267).
-/
namespace Sys2Proof.Machine

/-! ## Units -/

/-- The units of a stage's work: region-passes of a product (R74), work items (R134), ranges of 512 elements (R185), rows (R192), ranges of an
UPDATE (R222). Pooling and COPY are one unit (log 102). -/
def Stage.units (st : Stage) : Nat :=
  match st.op with
  | 0x01 => (mmPar st.pb).tiling.units
  | 0x02 => if 2 ≤ (cvPar st.pb).mode then 1 else (cvPar st.pb).tiling.units
  | 0x03 => max 1 ((atPar 3 st.pb).items st.seqs).length
  | 0x04 => max 1 ((atPar 4 st.pb).items st.seqs).length
  | 0x05 => max 1 (ceilDiv (vfPar st.pb).n 512)
  | 0x06 => max 1 (nmPar st.pb).rows
  | 0x0C => max 1 ((upPar st.pb).units (u64At st.pb 0x70 != 0))
  | _ => 1

/-- What a consumer asks for: a tile of a stream, or a demand that is no tile of a stream, on a core entry. -/
structure Want where
  stage  : Nat
  idx    : Nat
  demand : Demand

/-- The tiles that a stage's cores consume together: field, core entry, tile; demands that are no tiles of a stream: number, core entry, what
they ask for. The tiles of an `again` step have been consumed and are read once more (log 102). -/
structure UnitStep where
  stage : Nat
  tiles : List (Nat × Nat × Nat)
  loose : List (Nat × Nat × Demand) := []
  again : Bool := false

/-- What a step asks for. -/
def State.wantsOf (s : State) (c : Cmd) (x : UnitStep) : List Want :=
  x.tiles.map (fun t => ⟨x.stage, tileIdx t.2.1 t.2.2, s.tileDemand c x.stage (nth Stage.none c.stages x.stage) t.1 t.2.1 t.2.2⟩)
    ++ x.loose.map (fun l => ⟨x.stage, tileIdx l.2.1 (looseTile + l.1), l.2.2⟩)

/-- A tile is one of those that a step asks for. -/
def UnitStep.asks (x : UnitStep) (t : Tile) : Bool :=
  x.stage == t.stage && (x.tiles.any (fun e => e.1 == t.field && tileIdx e.2.1 e.2.2 == t.idx)
    || x.loose.any (fun l => tileIdx l.2.1 (looseTile + l.1) == t.idx))

/-! ## The steps of a unit -/

/-- The fields of a list that a core fetches for a stage. -/
def Stage.fetched (st : Stage) (fs : List Nat) : List Nat := fs.filter (fun f => st.descs.any (fun d => d.1 == f && !d.2.isHand))

/-- Tile t of some fields on every core. -/
def Stage.onCores (st : Stage) (fs : List Nat) (t : Nat) : List (Nat × Nat × Nat) :=
  (st.fetched fs).flatMap (fun f => (List.range st.cores.length).map (fun ci => (f, ci, t)))

/-- Unit u of a product: the chunks of its pass, and what its output stage reads (R69, R82–R87). -/
def productStep (st : Stage) (i : Nat) (g : Tiling) (contOut : Bool) (chunk cols resid : List Nat) (u : Nat) : UnitStep :=
  let q := u / g.regions
  ⟨i, st.onCores chunk q ++ (if q + 1 < g.passes ∨ contOut then [] else st.onCores cols 0 ++ st.onCores resid (u % g.regions)), [], false⟩

/-- The headers and the index entries of the ZC tensors that a unit reads before its tiles (R104, R105); `cells` are the elements of a core
entry. The headers are read by the first core (log 18). -/
def State.zcSteps (s : State) (c : Cmd) (i : Nat) (st : Stage) (p : CvPar) (u : Nat) (cells : Nat → List Nat) : List UnitStep :=
  let head (n a : Nat) : Nat × Nat × Demand := (n, 0, ⟨[], [(27, a, 32)], .none⟩)
  let hdr := u64At st.pb 0xD8
  let index := leNat ((upFrom hdr 8).map (s.cmdByte c i 27))
  let segs (ci : Nat) : List Nat := ((cells ci).map (fun e => e * fmtBits p.mm.fmtA / 8 / max 1 (zcSegBytes p.mm.fmtA p.cb))).eraseDups
  let heads := (if p.zcIn then [head 0 hdr] else []) ++ (if p.zcOut then [head 1 (u64At st.pb 0xE0)] else [])
  (if heads.isEmpty then [] else [⟨i, [], heads, false⟩])
    ++ (if p.zcIn then [⟨i, [], (List.range st.cores.length).map (fun ci =>
          (2 + u, ci, ⟨[], (segs ci).map (fun k => (27, index + 8 * k, 8)), .none⟩)), false⟩] else [])

/-- The steps of unit u of a CONV. -/
def State.cvSteps (s : State) (c : Cmd) (i : Nat) (st : Stage) (u : Nat) : List UnitStep :=
  let p := cvPar st.pb
  let mp := p.mapped
  let zc (x : UnitStep) (t : Nat) : UnitStep :=
    if p.zcIn then { x with tiles := (List.range st.cores.length).map (fun ci => (27, ci, t)) ++ x.tiles } else x
  if p.positions = 0 ∨ p.cout = 0 then []
  else if 2 ≤ p.mode then
    let n := 16384 * 8 / max 1 (fmtBits mp.fmtA)
    let reads (ci : Nat) : List Nat := ((p.poolReads (shareAt p.positions p.cout mp.gm 1 ci)).map (fun e => (p.inCell e).1)).eraseDups
    let tiles := (List.range st.cores.length).foldl (fun a ci => max a (ceilDiv (reads ci).length n)) 0
    s.zcSteps c i st p 0 reads ++ (List.range tiles).map (fun t => zc ⟨i, st.onCores [13, 16, 18] t, [], false⟩ t)
  else if mp.m = 0 then []
  else
    let q := u / p.tiling.regions
    s.zcSteps c i st p q (fun ci => cvCells p ci q)
      ++ [zc (productStep st i p.tiling p.contOut [25, 13, 16, 18, 14, 17, 19] [21, 22] [23] u) q]

/-- The fields of K, V, their scales and the key segments. -/
def AtPar.keyFields (p : AtPar) : List Nat := if p.paged then [20, 21] else [10, 11, 15, 16] ++ (if p.segEn then [19] else [])

/-- The key blocks of item u at a step of its ring, each once (R132). -/
def Stage.keySteps (st : Stage) (i step u : Nat) (it : Nat × Nat × Nat) : List UnitStep :=
  let p := atPar st.op st.pb
  match st.seqs[it.1]? with
  | .none => []
  | some r => (List.range (p.itemBlocks r (p.originAt step) it.2.2).length).map (fun b =>
      ⟨i, (st.fetched p.keyFields).map (fun f => (f, itemEntry st.cores.length u, keyTileNo step u b)), [], false⟩)

/-- The rows of item u on the query side. -/
def Stage.queryStep (st : Stage) (i u : Nat) (it : Nat × Nat × Nat) : UnitStep :=
  let p := atPar st.op st.pb
  ⟨i, [], [(u, itemEntry st.cores.length u, p.itemDemand st.seqs it)], false⟩

/-- Item u of an attention stage at a step of its ring: its rows, and its key blocks (R132, R267). -/
def Stage.itemSteps (st : Stage) (i step u : Nat) (it : Nat × Nat × Nat) : List UnitStep := st.queryStep i u it :: st.keySteps i step u it

/-- What the last item of a sequence and KV head of a backward pass reads once more: the earlier items of its keys (log 102). -/
def Stage.closingStep (st : Stage) (i u : Nat) (it : Nat × Nat × Nat) : List UnitStep :=
  let items := (atPar st.op st.pb).items st.seqs
  let mates := (items.zipIdx.take u).filter (fun e => e.1.1 == it.1 && e.1.2.1 == it.2.1)
  let last := !(items.drop (u + 1)).any (fun e => e.1 == it.1 && e.2.1 == it.2.1)
  if st.op = 4 ∧ last ∧ mates ≠ [] then
    let steps := mates.flatMap (fun e => st.itemSteps i 0 e.2 e.1)
    [⟨i, steps.flatMap (·.tiles), steps.flatMap (·.loose), true⟩]
  else []

/-- The steps of unit u of stage i of a command, in the order in which its cores consume them (R265, R267). -/
def State.unitSteps (s : State) (c : Cmd) (i : Nat) (st : Stage) (u : Nat) : List UnitStep :=
  match st.op with
  | 0x01 =>
    let p := mmPar st.pb
    if p.m = 0 ∨ p.n = 0 then [] else [productStep st i p.tiling p.contOut [21, 9, 12, 14, 10, 13, 15] [17, 18] [19] u]
  | 0x02 => s.cvSteps c i st u
  | 0x05 =>
    let p := vfPar st.pb
    let fs := st.fetched [7, 12, 8, 13, 9, 14]
    let root := rootOf c.stages 4 i
    if root ≠ i then
      if u ≠ 0 then []
      else (List.range (regionCount (nth Stage.none c.stages root))).map (fun t => ⟨i, st.onCores fs t, [], false⟩)
    else
      let run := flatRun p.n p.ncore 512
      let ci := 512 * u / max 1 run
      [⟨i, fs.map (fun f => (f, ci, (512 * u - ci * run) * fmtBits (p.plane f).1 / (16384 * 8))), [], false⟩]
  | 0x06 =>
    let p := nmPar st.pb
    let ci := p.entryOf c.chained u
    let n := max 1 p.ncore
    let t := if c.chained then 32 * (u / 32 / n) + u % 32 else u - ci * ceilDiv p.rows n
    if p.rows = 0 ∨ p.l = 0 then []
    else [⟨i, (st.fetched [6, 14, 10, 11, 12]).map (fun f => (f, ci, t)) ++ (st.fetched [8, 9]).map (fun f => (f, ci, 0)), [], false⟩]
  | 0x07 =>
    let p := cpPar st.pb
    let run := flatRun p.n p.ncore p.unit
    let tiles := ceilDiv (run * fmtBits p.fmtS) (16384 * 8)
    let rd := s.streamRd c i 5
    if p.n = 0 then []
    else
      (if p.compIn then [⟨i, [], [(0, 0, ⟨[(5, 0, 64)], [], .none⟩)], false⟩,
        ⟨i, [], [(1, 0, ⟨[(5, 64, streamHead rd - 64)], [], .none⟩)], false⟩] else [])
        ++ (List.range tiles).map (fun t => ⟨i, st.onCores [5, 7] t, [], false⟩)
  | 0x0C => [⟨i, [], [(u, 0, s.upDemand c st u)], false⟩]
  | op =>
    if op = 3 ∨ op = 4 then
      match ((atPar op st.pb).items st.seqs)[u]? with
      | some it => st.itemSteps i 0 u it ++ st.closingStep i u it
      | .none => []
    else []

/-- The member's own chunk, which it sends on (R135, R138): read whole, by no core (log 18). -/
def Stage.chunkStep (st : Stage) (i : Nat) : UnitStep :=
  let p := atPar st.op st.pb
  let n := st.shard
  let parts := [(10, p.tensor p.fmtK n p.hkv), (11, p.tensor p.fmtV n p.hkv), (15, if fmtBlock p.fmtK then p.scaleD p.fmtK n p.hkv else 0),
    (16, if fmtBlock p.fmtV then p.scaleT p.fmtV n p.hkv else 0), (19, if p.segEn then 4 * n else 0)]
  ⟨i, [], [(2 ^ 31, st.cores.length, ⟨(parts.filter (fun x => x.2 != 0)).map (fun x => (x.1, 0, x.2)), [], .none⟩)], false⟩

/-- The steps of a step of a ring: every item, its rows and its key blocks of the chunk that the member holds (R132, R135); at step 0 the own
chunk. -/
def Stage.ringSteps (st : Stage) (i step : Nat) : List UnitStep :=
  (if step = 0 ∧ (atPar st.op st.pb).ringLen ≠ 1 then [st.chunkStep i] else [])
    ++ ((atPar st.op st.pb).items st.seqs).zipIdx.flatMap (fun e => st.itemSteps i step e.2 e.1)

/-- The chunk of a member's next step is there. -/
def RingSt.there (r : RingSt) (p : AtPar) : Bool := decide (r.step < p.ringLen) && (r.step == 0 || r.present.contains r.step)

/-- What a ring reads after its step: the rows of its items at the later steps, and in the backward pass once more for its outputs; the own chunk
until it has been sent. -/
def RingSt.stepsLater (r : RingSt) (st : Stage) (i : Nat) : List UnitStep :=
  let p := atPar st.op st.pb
  let more := decide (r.step + (if r.there p then 1 else 0) < p.ringLen)
  (if more ∨ p.bwd then (p.items st.seqs).zipIdx.map (fun e => { st.queryStep i e.2 e.1 with again := !more }) else [])
    ++ (if r.sent = 0 ∧ p.ringLen ≠ 1 then [{ st.chunkStep i with again := true }] else [])

/-- A stage goes round a ring. -/
def Cmd.ringed (c : Cmd) (i : Nat) : Bool := c.ringStages.any (fun e => e.2 == i)

/-- All steps of the stages of a chain, but of those that have gone round a ring. -/
def State.chainSteps (s : State) (c : Cmd) : List UnitStep :=
  c.stages.zipIdx.flatMap (fun e => if c.ringed e.2 then [] else (List.range e.1.units).flatMap (s.unitSteps c e.2 e.1))

/-- The steps of the work that a command does next: a step of its ring, the stages of a chain, else a unit. -/
def State.stepsNow (s : State) (c : Cmd) : List UnitStep :=
  match c.ring, c.ringStage with
  | some r, some (st, i) => if r.there (atPar st.op st.pb) then st.ringSteps i r.step else []
  | _, _ => if c.chained then s.chainSteps c else s.unitSteps c 0 (nth Stage.none c.stages 0) c.pos

/-- The steps after that work: the rest of a ring, the later units. -/
def State.stepsLater (s : State) (c : Cmd) : List UnitStep :=
  match c.ring, c.ringStage with
  | some r, some (st, i) => r.stepsLater st i ++ (if c.chained then s.chainSteps c else [])
  | _, _ =>
    if c.chained then []
    else
      let st := nth Stage.none c.stages 0
      (upFrom (c.pos + 1) (st.units - (c.pos + 1))).flatMap (s.unitSteps c 0 st)

/-- The steps that have not been consumed. -/
def State.stepsAhead (s : State) (c : Cmd) : List UnitStep := (s.stepsNow c).drop c.eaten ++ s.stepsLater c

/-- The numbers of the tiles of a stream on a core entry that steps ask for, in order, each once. -/
def tilesAhead (l : List UnitStep) (stage f ci : Nat) : List Nat :=
  (((l.filter (fun x => x.stage == stage && !x.again)).flatMap (fun x =>
    (x.tiles.filter (fun e => e.1 == f && e.2.1 == ci)).map (·.2.2)))).eraseDups

end Sys2Proof.Machine
end

