-- ==== Sys2Proof/Machine/Fetch.lean ====
section
/-!
DEFINITION. Run-ahead fetch (R267, R270–R273, R277, R286): tiles fetched ahead of their consumer, their watch windows and suppressed
faults.
-/
namespace Sys2Proof.Machine

/-- A line joins a range of lines: one space, at most 256 MiB (R273). -/
def joinsRange (g : List Loc) (l : Loc) : Bool :=
  g.all (fun x => x.sameSpace l && decide (max x.addr l.addr + 512 - min x.addr l.addr ≤ 2 ^ 28))

/-- The ranges of the lines of a tile: each line joins the first range that takes it. -/
def splitRanges (ls : List Loc) : List (List Loc) :=
  ls.foldl (fun acc l =>
    match acc.findIdx? (fun g => joinsRange g l) with
    | some i => acc.modify i (· ++ [l])
    | none => acc ++ [[l]]) []

/-- The union of two ranges of one space, when it stays within 256 MiB (R273). -/
def unionRange (a b : Loc × Nat × Nat) : Bool :=
  a.1.sameSpace b.1 && decide (max a.2.2 b.2.2 - min a.2.1 b.2.1 ≤ 2 ^ 28)

/-- The window for a range of a new tile among the open windows of its stream on its core: the most recently opened, or a free one. -/
def pickWindow (tiles : List Tile) (t : Tile) (n : Nat) : Option Nat :=
  let own := tiles.filter (fun u =>
    u.lines != [] && u.stage == t.stage && u.field == t.field && tileCore u.idx == tileCore t.idx && u.use == .ahead)
  match t.range with
  | none => none
  | some r =>
    match own.getLast? with
    | some u =>
      let fits := (own.filter (fun v => v.window == u.window)).all (fun v =>
        match v.range with
        | some q => unionRange r q
        | none => true)
      if fits then some u.window else (List.range n).find? (fun w => !own.any (fun v => v.window == w))
    | none => some 0

/-- The entries of a new tile, one for each of its ranges, in windows of its stream; `none` when it must wait for a window, or needs more
ranges than WATCH_N (R273, R277). -/
def placeTile (n : Nat) (t : Tile) : List (List Loc) → List Tile → Option (List Tile)
  | [], _ => some []
  | g :: gs, tiles =>
    let u := { t with lines := g.map (fun l => (l, none)) }
    match pickWindow tiles u n with
    | none => none
    | some w =>
      let u := { u with window := w }
      (placeTile n t gs (tiles ++ [u])).map (u :: ·)

/-- Whether a stream goes on to its next tile. -/
abbrev GoesOn := Bool

/-- The list entries that the bursts for a demand read, those of the command kept (R271). -/
def State.readBursts (s : State) (c : Cmd) (stage : Nat) (d : Demand) : List (Nat × Nat) :=
  d.streams.foldl (fun b x => b ++ (s.burstsOf { c with bursts := b } stage x.1 x.2.1 x.2.2)) c.bursts

/-- Fetch tile t of a stream ahead: its lines are requested; a suppressed fault is counted and leaves the tile to its demand (R270); a tile that
waits for a window holds the later ones back (R273). -/
def State.fetchTile (s : State) (slot stage f : Nat) (d : Desc) (ci t : Nat) : State × GoesOn :=
  match s.cmd? slot with
  | none => (s, false)
  | some c =>
    let st := nth Stage.none c.stages stage
    let new : Tile := ⟨stage, f, tileIdx ci t, [], 0, 0, .ahead⟩
    if c.tiles.any new.same then (s, true)
    else
      let dm := s.tileDemand c stage st f ci t
      match s.demandBad c stage dm with
      | some x =>
        let s1 := s.setCmd slot (some { c with tiles := c.tiles ++ [new.dropped] })
        if x.1 = stXlate ∨ x.1 = stRange then
          ((s1.modAcc slot (fun a => { a with specFault := a.specFault + 1 })).bump (cntCore (nth 0 st.cores ci) 8) 1, true)
        else (s1, true)
      | none =>
        match placeTile d.watchN new (splitRanges ((s.demandLines c stage dm).map (·.2)).eraseDups) c.tiles with
        | none => (s, false)
        | some us =>
          (s.setCmd slot (some { c with
            tiles := c.tiles ++ us
            bursts := s.readBursts c stage dm
            outQ := c.outQ ++ us.flatMap (fun u => u.lines.map (fun e => u.req slot true e.1)) }), true)

/-- Fetch tiles of a stream on a core, in the order of their demand, until one must wait (R267). -/
def State.fetchTiles (slot stage f : Nat) (d : Desc) (ci : Nat) : List Nat → State → State
  | [], s => s
  | t :: ts, s =>
    let r := s.fetchTile slot stage f d ci t
    if r.2 then State.fetchTiles slot stage f d ci ts r.1 else r.1

/-- Fetch the tiles of a stream that it may be ahead of its consumer, on every core (R267): of those that the steps ahead ask for and that are not
in consumption. -/
def State.fetchStream (s : State) (slot : Nat) (steps : List UnitStep) (tiles : List Tile) (stage : Nat) (st : Stage) (f : Nat) (d : Desc) :
    State :=
  (List.range st.cores.length).foldl (fun s ci =>
    let used (t : Nat) : Bool := tiles.any (fun u => u.stage == stage && u.field == f && u.idx == tileIdx ci t && u.use != .ahead)
    State.fetchTiles slot stage f d ci (((tilesAhead steps stage f ci).filter (fun t => !used t)).take (st.ahead f)) s) s

/-- The input streams of a stage that its cores fetch; the zero map goes before A (R265). -/
def Stage.inputs (st : Stage) : List (Nat × Desc) :=
  let ins := st.descs.filter (fun d => d.2.watchN != 0 && !d.2.isHand)
  let isMap (d : Nat × Desc) : Bool := (st.op == 1 && d.1 == 21) || (st.op == 2 && d.1 == 25)
  ins.filter isMap ++ ins.filter (fun d => !isMap d)

/-- Run ahead: on the EARLY streams alone before the command starts (R286), on every input stream from its start on (R267). -/
def State.runAhead (s : State) (slot : Nat) (early : Bool) : State :=
  match s.cmd? slot with
  | none => s
  | some c =>
    let steps := s.stepsAhead c
    (c.stages.zipIdx.foldl (fun s e =>
      (e.1.inputs.filter (fun d => !early || d.2.early)).foldl (fun s d => s.fetchStream slot steps c.tiles e.2 e.1 d.1 d.2) s) s).pumpCmd slot

/-- An admitted command starts its EARLY streams (R286), unless its context narrows them (R293). -/
def State.startEarly (s : State) (slot : Nat) : State :=
  match s.cmd? slot with
  | none => s
  | some c => if (s.ctx c.ctx).noEarly then s else s.runAhead slot true

end Sys2Proof.Machine
end

