-- ==== Sys2Proof/Machine/Admit.lean ====
section
/-!
DEFINITION. Admission (R300–R304): candidates and their order, the outcome of one candidate, the entry of a command into
its slot, the phases of dual-path commands (R250–R253), and the rows CMD_ADMIT and ADMIT_TIMEOUT.
-/
namespace Sys2Proof.Machine

/-! ## Candidates (R302, R250, R314, R320) -/

/-- Where a candidate comes from: the head of its queue, a loop's body (slot, iteration, index), the recompute program or
the main phase of a parked dual-path command, the saved commands of a context. -/
inductive Origin where
  | head
  | body (slot iter idx : Nat)
  | prog (key : Nat)
  | main (key : Nat)
  | saved
  deriving DecidableEq, Repr

/-- The main phase of a dual-path command. -/
def Origin.isMain : Origin → Bool
  | .main _ => true
  | _ => false

structure Cand where
  ctx    : Nat
  queue  : Nat
  seq    : Word
  raw    : List Byte
  origin : Origin
  fetchedAt : Dword
  since  : Option Dword

/-- Unretired commands of a queue, those without a slot included. -/
def State.ofQueue (s : State) (ctx q : Nat) : List (Nat × Cmd) :=
  s.cmdList.filter (fun e => e.2.ctx == ctx && e.2.queue == q && e.2.parent.isNone)

/-- The unretired STEP_LOOP of a queue (R314). -/
def State.loopOf (s : State) (ctx q : Nat) : Option (Nat × Cmd) := (s.ofQueue ctx q).find? (fun e => e.2.loop.isSome)

/-- A body command may be admitted now (R314): its iteration has begun, every body command of iteration k − 1 − LAG has
retired before the first of iteration k, and the loop has not stopped. -/
def LoopSt.ready (l : LoopSt) : Bool :=
  l.began && !l.stopped && decide (l.pos < l.nbody)
    && (l.pos != 0 || l.live.all (fun p => decide (l.iter ≤ p.1 + l.lag)))

/-- The candidate of one queue of an ON context. -/
def State.queueCand (s : State) (ctx q : Nat) : Option Cand :=
  match s.loopOf ctx q with
  | some (k, lc) =>
    match lc.loop with
    | some l =>
      let raw := nth [] l.recs l.pos
      if l.ready ∧ lc.started ∧ !isError lc.st
          ∧ (!(parseRec raw).barrier || (s.ofQueue ctx q).all (fun e => e.1 == k)) then
        some ⟨ctx, q, BitVec.ofNat 32 l.iter, raw, .body k l.iter l.pos, l.fetchedAt, l.since⟩
      else none
    | none => none
  | none =>
    match ((s.ctx ctx).sq q).recs with
    | [] => none
    | r :: _ =>
      if !(parseRec r.raw).barrier || (s.ofQueue ctx q).isEmpty then
        some ⟨ctx, q, r.seq, r.raw, .head, r.at_, r.since⟩
      else none

/-- The candidate of a dual-path command between its phases (R250). -/
def State.parkedCand (s : State) (key : Nat) (c : Cmd) : Option Cand :=
  match c.dual with
  | none => none
  | some d =>
    if isError c.st then none
    else if d.phase = .main ∧ !d.mainIn then some ⟨c.ctx, c.queue, c.seq, c.raw, .main key, c.fetchedAt, d.since⟩
    else if d.phase = .branch ∧ !d.branchAlt ∧ d.progPos < d.nprog then
      let raw := s.rdBytes c.ctx (d.prog + 128 * d.progPos) 128
      if (parseRec raw).barrier ∧ !d.progBusy.isEmpty then none
      else some ⟨c.ctx, c.queue, c.seq, raw, .prog key, c.fetchedAt, d.since⟩
    else none

/-- Admission is open: no supply warning has stopped it (R456), no hang dump freezes the device (R480), and the sequencers have their clock
(R452). -/
def State.admitOpen (s : State) : Bool := !s.pwr.admitStop && !s.trc.dump.busy && !s.dieStopped

/-- A context admits: ON, with no completion record waiting (R312). -/
def Ctx.admits (x : Ctx) : Bool := decide (x.state = .on) && x.cq.waiting.isEmpty

/-- The candidates of one context. -/
def State.ctxCands (s : State) (e : Nat × Ctx) : List Cand :=
  match e.2.state with
  | .restoring =>
    match (e.2.saved.map (·.cmds)).getD [] with
    | c :: _ => [⟨e.1, c.queue, c.seq, c.raw, .saved, c.fetchedAt, none⟩]
    | [] => []
  | _ =>
    if e.2.admits then
      (s.cmdList.filter (fun k => decide (4096 ≤ k.1) && k.2.ctx == e.1)).filterMap (fun k => s.parkedCand k.1 k.2)
        ++ (List.range 4).filterMap (s.queueCand e.1)
    else []

/-- Insert a candidate in order: age, ties to the lower context; under Sleeper the virtual time comes first (R302). -/
def State.candBefore (s : State) (a b : Cand) : Bool :=
  let age := if a.fetchedAt = b.fetchedAt then decide (a.ctx < b.ctx) else decide (a.fetchedAt.toNat < b.fetchedAt.toNat)
  if s.cfg.profile = .sleeper then
    let va := (s.ctx a.ctx).vtime
    let vb := (s.ctx b.ctx).vtime
    if va = vb then age else decide (va < vb)
  else age

def State.insertCand (s : State) (a : Cand) : List Cand → List Cand
  | [] => [a]
  | b :: t => if s.candBefore b a then b :: s.insertCand a t else if s.candBefore a b then a :: b :: t
      else b :: s.insertCand a t

/-- The heads that wait to be admitted, in the order of R302. -/
def State.heads (s : State) : List Cand := (s.ctxs.flatMap s.ctxCands).foldl (fun l c => s.insertCand c l) []

/-- Every candidate, in the order of R302. -/
def State.cands (s : State) : List Cand := if s.admitOpen then s.heads else []

/-! ## The outcome of a candidate -/

inductive Verdict where
  | reject (st : Byte)
  | wait (lacks : List Res)
  | fits

/-- What a candidate is, once its records have been read: its record, stages, dual-path state and need. -/
structure Ready where
  rec_   : CmdRec
  stages : List Stage
  dual   : Option DualSt
  need   : Need

/-- The decision instant D of a dual-path command (R251). -/
def decideAt (r : CmdRec) (d : DualSt) : Nat := r.tDead.toNat - d.leadNs

/-- A dual-path command that takes its branch line at admission (R203, R251). -/
def State.branchNow (s : State) (ctx : Nat) (r : CmdRec) (d : DualSt) : Bool :=
  let strict := s.cfg.profile != .freight || (s.ctx ctx).dlStrict
  !d.stored || (strict && decide (decideAt r d ≤ s.time.now.toNat))

/-- The stage plans of latched stages, whose checks have passed. -/
def State.replan (s : State) (ctx : Nat) (chain : Bool) (sts : List Stage) : List StagePlan :=
  (sts.zip (s.specsOf ctx chain sts)).map (fun e => ⟨e.1, e.2, []⟩)

/-- The first record of a recompute program that R204 refuses, or that cannot be read. -/
def State.progCheck (s : State) (ctx : Nat) (d : DualSt) : Option Byte :=
  match s.rdRecord ctx d.prog (128 * d.nprog) with
  | none => some (s.recBad ctx d.prog (128 * d.nprog))
  | some b => if (List.range d.nprog).any (fun i =>
      let r := parseRec (slice b (128 * i) 128)
      r.opcode == 0x0F || r.dual) then some stFormat else none

/-- Steps 1 and 2 of R300 for a candidate: its verdict so far, and what was read. -/
def State.examineCand (s : State) (k : Cand) : Verdict × Ready :=
  let r := parseRec k.raw
  let none_ : Ready := ⟨r, [], none, Need.none⟩
  let short (n : Need) (y : Ready) : Verdict × Ready :=
    if s.overQuota k.ctx n then (.reject stResource, y)
    else
      match s.lacks k.ctx n with
      | [] => (.fits, y)
      | l => (.wait l, y)
  let fresh (pre : Option Byte) : Verdict × Ready :=
    match pre, rankChecks [fmtCase (recFormat k.raw), rangeCase (recRange k.raw)] with
    | some st, _ => (.reject st, none_)
    | none, some st => (.reject st, none_)
    | none, none =>
      let p := s.planOf k.ctx r
      let sts := p.stages.map (·.st)
      match rankChecks p.bad with
      | some st => (.reject st, none_)
      | none =>
        match p.dual with
        | some d =>
          if s.branchNow k.ctx r d then (.fits, ⟨r, sts, p.dual, Need.none⟩)
          else short (loadNeed p.stages) ⟨r, sts, p.dual, loadNeed p.stages⟩
        | none =>
          let n := s.needOf k.ctx p.stages
          short n ⟨r, sts, none, n⟩
  match k.origin with
  | .head => fresh none
  | .body _ _ _ => if r.opcode = 0x0F then (.reject stFormat, none_) else fresh none
  | .prog key =>
    match (s.cmd? key).bind (·.dual) with
    | some d => if d.progPos = 0 then fresh (s.progCheck k.ctx d) else fresh none
    | none => (.reject stFormat, none_)
  | .main key =>
    match s.cmd? key with
    | some c =>
      let n := s.needOf k.ctx (s.replan k.ctx c.crec.chain c.stages)
      short n ⟨c.crec, c.stages, c.dual, n⟩
    | none => (.reject stFormat, none_)
  | .saved =>
    match ((s.ctx k.ctx).saved.map (·.cmds)).getD [] with
    | c :: _ =>
      let n := if c.beforeMain then loadNeed (s.replan k.ctx c.crec.chain c.stages)
        else s.needOf k.ctx (s.replan k.ctx c.crec.chain c.stages)
      match s.lacks k.ctx n with
      | [] => (.fits, ⟨c.crec, c.stages, c.dual, n⟩)
      | l => (.wait l, ⟨c.crec, c.stages, c.dual, n⟩)
    | [] => (.reject stFormat, none_)

/-- Step 3 of R300: the checks at the latch instant, which the load phase of a dual-path command and a restored command
do not meet again (R250, R320). -/
def State.verdict (s : State) (k : Cand) : Verdict × Ready :=
  let v := s.examineCand k
  match v.1, k.origin with
  | .fits, .saved => v
  | .fits, o =>
    if v.2.dual.isSome && !o.isMain then v
    else
      match s.latchCheck k.ctx v.2.rec_ v.2.stages with
      | some st => (.reject st, v.2)
      | none => v
  | _, _ => v

/-- ADMIT_MS of a context in ns. -/
def Ctx.admitNs (x : Ctx) : Nat := x.admitMs * 1000000

/-- A candidate has waited `n` ns for admission (R303). -/
def State.waited (s : State) (k : Cand) (n : Nat) : Bool :=
  match k.since with
  | some t => decide (t.toNat + n ≤ s.time.admClk.toNat)
  | none => false

/-- A candidate that has waited for half of its ADMIT_MS goes before every later one that needs what it lacks (R302). -/
def State.blockedBy (s : State) (ks : List Cand) (k : Cand) (n : Need) : Bool :=
  ks.any (fun w => s.waited w ((s.ctx w.ctx).admitNs / 2) && decide (w.fetchedAt.toNat < k.fetchedAt.toNat)
    && (match (s.examineCand w).1 with
        | .wait l => l.any (n.uses k.ctx)
        | _ => false))

/-! ## A command enters -/

/-- The lowest free command slot. -/
def State.freeSlot (s : State) : Nat := ((List.range 4096).find? (fun k => (s.cmd? k).isNone)).getD 4095

/-- A key for a command that holds no slot. -/
def State.parkKey (s : State) : Nat := 4096 + s.cmds.order

/-- WAIT_MS of a record (R296), in nanoseconds. -/
def CmdRec.waitNs (r : CmdRec) : Nat := (if r.waitMs = 0 then 1000 else r.waitMs) * 1000000

/-- The command of a candidate. -/
def State.mkCmd (s : State) (k : Cand) (y : Ready) (resv : Resv) : Cmd :=
  let x := s.ctx k.ctx
  let step := match k.origin with
    | .prog key => (((s.cmd? key).bind (·.dual)).map (·.ckStep)).getD x.step
    | _ => x.step
  let loop : Option LoopSt := if y.rec_.opcode = 0x0F then
      let p := lpPar ((y.stages.head?.map (·.pb)).getD [])
      some { count := p.count, body := p.body, nbody := p.nbody, lag := p.flags % 4, stopErr := bitAt p.flags 2
             allCmpl := bitAt p.flags 3, iter := 0, pos := 0, recs := [], began := false, stopped := false, live := []
             worst := stOk, worstDetail := 0, fetchedAt := s.time.now, since := none }
    else none
  { ctx := k.ctx, queue := k.queue, seq := k.seq
    body := match k.origin with
      | .body slot iter idx => some (idx, slot, iter)
      | _ => none
    parent := match k.origin with
      | .prog key => some key
      | _ => none
    crec := y.rec_, raw := k.raw, stages := y.stages, phase := .admitted, status := none, failStage := 0
    latches := s.latchesOf y.stages, seed := x.seed, step := step, resv := resv, held := [], order := s.cmds.order
    fetchedAt := k.fetchedAt, admitAt := s.time.cmdClk
    waitLeft := y.rec_.waitNs, waitAt := s.time.cmdClk, startAt := 0
    stallBy := s.stallDue, acc := Accum.zero, indMask := 0, indAll := false, indStage := false, indPart := false
    indLine := false, errSeq := none, info := 0, dual := y.dual, loop := loop, mig := 0, pos := 0, ring := none, rung := [], yard := none, outQ := []
    paged := [], tiles := [], eaten := 0, bursts := [], halves := [], zcUsed := [], control := none, atRetire := [], yielded := false, leased := false, leaseAt := none, coreCyc := 0 }

/-- A candidate leaves its place: its queue, its loop's body, its recompute program (R295). -/
def State.dropCand (s : State) (k : Cand) (slot : Option Nat) : State :=
  match k.origin with
  | .head => s.modCtx k.ctx (fun x => x.setSq k.queue { x.sq k.queue with recs := (x.sq k.queue).recs.drop 1 })
  | .body ls iter idx => s.modCmd ls (fun c => { c with loop := c.loop.map (fun l =>
      { l with pos := l.pos + 1, live := l.live ++ [(iter, idx)], since := none }) })
  | .prog key => s.modCmd key (fun c => { c with dual := c.dual.map (fun d =>
      { d with progPos := d.progPos + 1, progBusy := d.progBusy ++ slot.toList, since := none }) })
  | .main key => s.setCmd key none
  | .saved => s.modCtx k.ctx (fun x => { x with saved := x.saved.map (fun v => { v with cmds := v.cmds.drop 1 }) })

/-- The records that the admission of a command reads: address and bytes (R125, R202, R249, R254, R280, R392). -/
def State.admitReads (s : State) (ctx : Nat) (r : CmdRec) : List (Nat × Nat) :=
  let stage (h : Bool) (e : Nat × Nat) : List (Nat × Nat) :=
    let n := pbLen e.1
    (e.2, n) :: match s.rdRecord ctx e.2 n with
      | none => []
      | some pb =>
        let z := s.specOf ctx h e.1 pb
        (z.fields.filter (·.on)).map (fun x => (u64At pb (8 * x.f), 128)) ++ (z.cores.map (fun l => (l.1, 2 * l.2))).toList
          ++ (if e.1 = 0x0B then [((ydPar pb).list, 32 * (ydPar pb).n)] else if e.1 = 7 ∧ (cpPar pb).ckptEn then [((cpPar pb).ckpt, 64)] else [])
          ++ (if e.1 = 3 ∨ e.1 = 4 then match s.descAt ctx (u64At pb 0x90) with
            | some d => (s.piecesOf ctx d 0 (32 * (atPar e.1 pb).nseq)).filterMap (fun p => match p.loc with
              | .va a => some (a, p.len)
              | .list _ a => some (a, 8)
              | _ => none)
            | none => [] else [])
  let dual := if r.dual then (r.dualRec, 64) :: match s.rdRecord ctx r.dualRec 64 with
      | some b => [(u64At b 0, 64), (u64At b 8, 128), (u64At b 0x10, 128)]
      | none => [] else []
  (if r.chain then (r.param, 64) :: (s.chainHead ctx r.opcode r.param).2.flatMap (stage true) else stage false (r.opcode, r.param)) ++ dual

/-- A command that ends for an uncorrectable error of a record of its own has the line in its first log entry (R235). -/
def State.logRecord (s : State) (c : Cmd) (st : Byte) : State × Cmd :=
  match (s.admitReads c.ctx c.crec).findSome? (fun x => (s.recFault c.ctx x.1 x.2).bind (fun f => if f.1 = stEcc then some f else none)) with
  | some f =>
    if st = stEcc then
      let r := s.logSeq (c.ofCmd (s.faultArg uSeq f) (s.ctxHostCode c.ctx))
      (r.1, { c with errSeq := some r.2 })
    else (s, c)
  | none => (s, c)

/-- A candidate ends without admission (R299, R300). -/
def State.endCand (s : State) (k : Cand) (y : Ready) (st : Byte) : State :=
  match k.origin with
  | .main key =>
    match s.cmd? key with
    | some c => s.retire key (c.mark st 0)
    | none => s
  | _ =>
    let r := s.logRecord ((s.mkCmd k y Resv.none).mark st 0) st
    (r.1.dropCand k none).retire s.parkKey { r.2 with stages := y.stages }

/-- The Yard's job entry of a new command, and the epoch that a PERMUTE begins (R373, R393). -/
def State.enterJob (s : State) (ctx : Nat) (st : Stage) : State :=
  if st.op = 9 ∨ st.op = 10 ∨ st.op = 11 then
    let p := ydPar st.pb
    let begins := (s.epochCheck st).2
    let put (k : Nat) (j : Job) : State := { s with yard := { s.yard with jobs := Tab.set none s.yard.jobs k (some j) } }
    match s.jobKey p.job with
    | some k =>
      match Tab.get none s.yard.jobs k with
      | some j => if begins then (put k { j with epoch := p.epoch, drain := true }).rejectOld p.job p.epoch else s
      | none => s
    | none =>
      let k := ((List.range 4096).find? (fun i => (Tab.get none s.yard.jobs i).isNone)).getD 0
      put k ⟨p.job, ctx, p.epoch, false⟩
  else s

/-- The lease entry of a new command (R390). -/
def State.enterLease (s : State) (ctx : Nat) (n : Need) : State :=
  match n.lease with
  | none => s
  | some (pa, _) =>
    match s.leaseKey pa with
    | some _ => s
    | none =>
      let k := ((List.range 4096).find? (fun i => (Tab.get none s.yard.leases i).isNone)).getD 0
      s.setLease k (some ⟨pa, ctx, 0, false, 0⟩)

/-- The waits of a command join the lists again (R337). -/
def State.joinWaits (s : State) (slot : Nat) (c : Cmd) : State :=
  c.waits.foldl (fun s p =>
    let g := s.sigOf p.2.sig
    s.setSig p.2.sig { g with waiters := g.waiters ++ [⟨slot, p.1, p.2.op, p.2.val⟩] }) s

/-- A command whose waits hold is eligible to start (R328). -/
def State.settleWaits (s : State) (slot : Nat) : State :=
  match s.cmd? slot with
  | none => s
  | some c =>
    if c.phase ≠ .admitted then s
    else
      match c.waits with
      | [] => s.setCmd slot (some { c with phase := .ready })
      | w :: _ => if s.waitsHold c then (s.satisfy slot c w.2.sig).examine ((c.waits.filter (fun p => p.2.op == 4)).map (·.2.sig))
          else s

/-- The context's watchdog period begins with its first admitted command (R317). -/
def State.startWdog (s : State) (ctx : Nat) : State :=
  s.modCtx ctx (fun x => { x with wdogFrom := some (x.wdogFrom.getD s.time.cmdClk) })

/-- Put a command into a slot (R301, R473). -/
def State.enterSlot (s : State) (slot : Nat) (c : Cmd) : State :=
  let s1 := { s with cmds := { s.cmds with slots := Tab.set none s.cmds.slots slot (some { c with order := s.cmds.order })
                                           order := s.cmds.order + 1 } }
  let idx := match c.body with
    | some (i, _, _) => i
    | none => 0
  (s1.startWdog c.ctx).traceCmd c 0x01 (c.op + putAt idx 16) slot

/-- The main admission of a command: tables latched, entries joined, job and lease entries made, pending OPENs answered,
EARLY streams started. -/
def State.enterMain (s : State) (slot : Nat) (c : Cmd) (n : Need) : State :=
  let st := (c.stages.head?).getD Stage.none
  let s1 := (((s.enterJob c.ctx st).enterLease c.ctx n).enterSlot slot
    { c with yard := s.yardInit c, ring := s.ringInit c }).joinEntries slot c
  (((s1.settleWaits slot).answerPending slot).startEarly slot)

/-! ## Dual-path phases (R250–R253) -/

/-- The field numbers of a load's read and write wagons. -/
def loadField : Nat := 0xFE
def stageField : Nat := 0xFD

/-- The stored copy as a stream. -/
def DualSt.source (d : DualSt) : Desc := ⟨false, false, false, 1, 0, 0, 0, .strided d.loc (max 1 d.bytes) 1 1 1 1 0 0 0 0⟩

/-- Move a command out of its slot between phases: nothing is held (R250). Answers its key. -/
def State.park (s : State) (slot : Nat) (c : Cmd) : State × Nat :=
  if 4096 ≤ slot then (s.setCmd slot (some c), slot)
  else
    let key := s.parkKey
    let s1 := ((s.setCmd slot none).orphan slot).setCmd key (some { c with resv := Resv.none, phase := .admitted })
    ({ s1 with cmds := { s1.cmds with order := s1.cmds.order + 1 } }, key)

/-- The stage of a parked command is complete (R253): its main phase waits for admission. -/
def State.stageComplete (s : State) (key : Nat) : State :=
  s.modCmd key (fun c => { c with dual := c.dual.map (fun d =>
    { d with phase := .main, stageDone := some s.time.now, since := none
             dlMiss := d.dlMiss || decide (c.crec.tDead.toNat < s.time.now.toNat) }) })

/-- The core that moves byte o of a load's stream of n elements: equal runs of elements, as a COPY's (R185, R250; log 18). -/
def loadOwner (cores n bits o : Nat) : Nat := o * 8 / max 1 bits / max 1 (flatRun n cores 512)

/-- The pieces of n bytes of a stream, where they lie now. -/
def State.loadPieces (s : State) (ctx : Nat) (d : Desc) (n : Nat) : List LoadPiece :=
  (s.piecesOf ctx d 0 n).filterMap (fun p =>
    match p.loc with
    | .va a =>
      match s.acc ctx a false with
      | .plain l => some ⟨p.off, p.len, l, none⟩
      | .comp l o => some ⟨p.off, p.len, l, some o⟩
      | .bad => none
    | _ => none)

/-- The read wagons of pieces: one for each line. -/
def loadReqs (slot : Nat) (own : Nat → Nat) (ps : List LoadPiece) : List WagonReq :=
  (ps.filter (fun p => p.comp.isNone)).foldl (fun l p =>
    if l.any (fun (r : WagonReq) => r.line == p.loc.line) then l
    else l ++ [{ slot := slot, stage := 0, field := loadField, tile := tileIdx (own p.off) 0, spec := false, kind := .read, va := 0
                 line := p.loc.line, bytes := [], addend := [] }]) []

/-- The write wagons of the bytes of the stage. -/
def State.stageReqs (s : State) (slot : Nat) (c : Cmd) (d : DualSt) (own : Nat → Nat) (bytes : List Byte) : List WagonReq :=
  (s.piecesOf c.ctx d.stage 0 bytes.length).flatMap (fun p =>
    match p.loc with
    | .va a => (s.writeReqsVa slot c.ctx 0 stageField a (slice bytes p.off p.len)).map (fun r => { r with tile := tileIdx (own p.off) 0 })
    | _ => [])

/-- The bytes that a load has read: lines that have arrived, and compressed pages; `none` for a malformed page (R242). -/
def State.loadedBytes (s : State) (d : DualSt) : Option (List Byte) :=
  if d.pieces.any (fun p => p.comp.isSome && (s.compPage p.loc).isNone) then none
  else some (d.pieces.flatMap (fun p => (List.range p.len).map (fun i =>
    match p.comp with
    | some o => nth 0 ((s.compPage p.loc).getD []) (o + i)
    | none => nth 0 ((d.got.find? (fun e => e.1 == p.loc.line)).map (·.2) |>.getD []) (p.loc.inLine + i))))

/-- Elements of the stage buffer. -/
def DualSt.stageLen (d : DualSt) : Nat := (d.stage.extent).getD 0 * 8 / max 1 (fmtBits d.fmtStage)

/-- ALT has arrived: it is converted into the stage, as a COPY would (R244, R250), each core its own run; a malformed page ends the command. -/
def State.altArrived (s : State) (key : Nat) : State :=
  let s := s.settleMigs
  match s.cmd? key with
  | none => s
  | some c =>
    match c.dual with
    | none => s
    | some d =>
      match s.loadedBytes d with
      | none => s.failCmd key stFormat 0 0 { status := stFormat, unit := uSeq }
      | some bytes =>
        let x := s.ctx c.ctx
        let n := d.stageLen
        let run (keep : Nat → Bool) : Run :=
          copyRun d.fmtAlt d.fmtStage ⟨x.seed, x.step, c.crec.rngId⟩ n (nth 0 bytes) (fun _ => 0) keep
        let out := packElems (fmtBits d.fmtStage) (run (fun _ => true)).elems
        let per := max 1 (flatRun n c.cores.length 512)
        let reqs := s.stageReqs key c d (loadOwner c.cores.length n (fmtBits d.fmtStage)) out
        let s1 := ((s.setCmd key (some { c with outQ := c.outQ ++ reqs, dual := some { d with loadDone := true, got := [] } })).countHealth key
          (run (fun _ => true)).health).countByCore c.cores (byOwner (· / per) (List.range n) (fun keep => (run keep).health))
        if reqs = [] then s1.stageComplete key else s1.pumpCmd key

/-- The conversion of ALT begins (R250): a read wagon for every line of it. It goes on while its context is pre-empted (log 18). -/
def State.convertAlt (s : State) (key : Nat) (c : Cmd) (d : DualSt) (alt : Desc) : State :=
  let n := d.stageLen
  let src := (s.piecesOf c.ctx alt 0 (fmtBytes d.fmtAlt n)).findSome? (s.pieceFault c.ctx false false)
  let dst := (s.piecesOf c.ctx d.stage 0 (fmtBytes d.fmtStage n)).findSome? (s.pieceFault c.ctx true false)
  match src, dst with
  | some f, _ => s.failCmd key f.1 0 0 (s.faultArg uSeq f)
  | none, some f => s.failCmd key f.1 0 0 (s.faultArg uSeq f)
  | none, none =>
    let ps := s.loadPieces c.ctx alt (fmtBytes d.fmtAlt n)
    let reqs := loadReqs key (loadOwner c.cores.length n (fmtBits d.fmtAlt)) ps
    let s1 := (s.modCmd key (fun c => { c with
      outQ := reqs, dual := some { d with pieces := ps, got := [], need := reqs.length, loadDone := false } })).pumpCmd key
    if reqs = [] then s1.altArrived key else s1

/-- The branch begins once nothing of the load is in flight (R250): the command leaves its slot, and ALT is converted or
the recompute program waits for admission. -/
def State.beginBranch (s : State) (slot : Nat) : State :=
  match s.cmd? slot with
  | none => s
  | some c =>
    match c.dual with
    | none => s
    | some d =>
      let r := s.park slot c
      match d.branchAlt, d.alt with
      | true, some a => r.1.convertAlt r.2 c d a
      | _, _ => r.1

/-- Take the branch line (R251, R252): the load's streams are cancelled. -/
def State.takeBranch (s : State) (slot : Nat) : State :=
  let s0 := s.cancel slot
  match s0.cmd? slot with
  | none => s0
  | some c =>
    match c.dual with
    | none => s0
    | some d =>
      let d1 := { d with phase := .branch, decided := true, path := if d.branchAlt then 2 else 1, got := [], since := none }
      let s1 := s0.setCmd slot (some { (c.mark stAltPath 0) with dual := some d1 })
      if s1.unacked slot = [] then s1.beginBranch slot else s1

/-- A load that meets an error takes the branch, and the event is logged (R252). -/
def State.loadFail (s : State) (slot : Nat) (a : LogArg) : State := (s.logCmd slot a).takeBranch slot

/-- The read wagon of a load comes back with an error: it was issued and is discarded (R253, R278), and the branch is taken (R252); one of ALT ends
the command. -/
def State.loadLost (s : State) (slot : Nat) (core : Option Nat) (a : LogArg) : State :=
  if ((s.cmd? slot).bind (·.dual)).any (fun d => d.phase == .branch) then s.failCmd slot a.status 0 0 a
  else
    let s1 := (s.modAcc slot (fun a => { a with strWaste := a.strWaste + 512, dpWaste := a.dpWaste + 1 })).bump (cntDev 13) 1
    let s2 := match core with
      | some k => s1.bump (cntCore k 6) 1
      | none => s1
    s2.loadFail slot a

/-- The first byte of the stored copy that cannot be read (R228, R235, R242); an uncorrectable line is found by its wagon. -/
def State.storedBad (s : State) (c : Cmd) (d : DualSt) : Option (Byte × FaultAt) :=
  (s.piecesOf c.ctx d.source 0 d.bytes).findSome? (s.pieceFault c.ctx false false)

/-- Every line of the stored copy has arrived: it is decoded and written into the stage (R250, R252). -/
def State.loadArrived (s : State) (slot : Nat) : State :=
  let s := s.settleMigs
  match s.cmd? slot with
  | none => s
  | some c =>
    match c.dual with
    | none => s
    | some d =>
      let e := (d.stage.extent).getD 0
      match (s.loadedBytes d).bind (fun raw => if d.comp then decompress raw else some raw) with
      | none => s.loadFail slot { status := stFormat, unit := uSeq, addr := d.loc }
      | some bytes =>
        if bytes.length ≠ e then s.loadFail slot { status := stFormat, unit := uSeq, addr := d.loc }
        else
          match (s.piecesOf c.ctx d.stage 0 e).findSome? (s.pieceFault c.ctx true false) with
          | some f => s.failCmd slot f.1 0 0 (s.faultArg uSeq f)
          | none =>
            let reqs := s.stageReqs slot c d (loadOwner c.cores.length d.stageLen (fmtBits d.fmtStage)) bytes
            (s.setCmd slot (some { c with outQ := c.outQ ++ reqs, dual := some { d with loadDone := true } })).pumpCmd slot

/-- The load begins (R250): a read wagon for every line of the stored copy. -/
def State.beginLoad (s : State) (slot : Nat) : State :=
  match s.cmd? slot with
  | none => s
  | some c =>
    match c.dual with
    | none => s
    | some d =>
      match s.storedBad c d with
      | some f => s.loadFail slot (s.faultArg uSeq f)
      | none =>
        let ps := s.loadPieces c.ctx d.source d.bytes
        let reqs := loadReqs slot (loadOwner c.cores.length d.bytes 8) ps
        let s1 := (s.setCmd slot (some { c with
          phase := .ready, outQ := reqs, dual := some { d with pieces := ps, need := reqs.length } })).pumpCmd slot
        if reqs = [] then s1.loadArrived slot else s1

/-- After a wagon of a dual-path command is settled: a load whose stage is written ends its phase, a cancelled one begins
its branch, and a conversion of ALT whose stage is written completes it (R250). -/
def State.settleDual (s : State) (slot : Nat) : State :=
  match s.cmd? slot with
  | none => s
  | some c =>
    match c.dual with
    | none => s
    | some d =>
      if isError c.st ∨ d.phase = .main ∨ s.unacked slot ≠ [] then s
      else if 4096 ≤ slot then (if d.phase = .branch ∧ d.loadDone ∧ c.outQ = [] then s.stageComplete slot else s)
      else if d.phase = .branch then s.beginBranch slot
      else if d.loadDone ∧ c.outQ = [] then
        let r := s.park slot { c with dual := some { d with decided := true, got := [] } }
        r.1.stageComplete r.2
      else s

/-- The load phase of a dual-path command is admitted, or its branch line is taken at once (R250, R251). -/
def State.enterLoad (s : State) (k : Cand) (y : Ready) (d : DualSt) : State :=
  let c0 := { s.mkCmd k y (s.reserve y.need) with latches := [] }
  if s.branchNow k.ctx y.rec_ d then
    let key := s.parkKey
    let s1 := ((s.dropCand k none).enterSlot key { c0 with resv := Resv.none, dual := some { d with entered := true } })
    s1.takeBranch key
  else
    let slot := s.freeSlot
    let s1 := (s.dropCand k none).enterSlot slot { c0 with dual := some { d with entered := true } }
    if y.rec_.startEn ∧ s.time.now.toNat < y.rec_.tStart.toNat then s1 else s1.beginLoad slot

/-! ## CMD_ADMIT and ADMIT_TIMEOUT -/

/-- A restored loop stands in a new slot: the saved body commands of its queue name it there. -/
def State.moveLoop (s : State) (ctx q slot : Nat) : State :=
  s.modCtx ctx (fun x => { x with saved := x.saved.map (fun v => { v with cmds := v.cmds.map (fun c =>
    if c.queue = q then { c with body := c.body.map (fun b => (b.1, slot, b.2.2)) } else c) }) })

/-- A number for a saved recompute command that its dual-path command can name while it holds no slot (R320). -/
def savedMark (order : Nat) : Nat := 2 ^ 41 + order

/-- The dual-path command of a recompute command names it by another number. -/
def State.renameProg (s : State) (c : Cmd) (old new : Nat) : State :=
  match c.parent with
  | none => s
  | some key => s.modCmd key (fun p => { p with dual := p.dual.map (fun d => { d with progBusy := d.progBusy.map (fun x => if x = old then new else x) }) })

/-- The partial regions of a restored command are copied back to the cores of its reservation (R320). -/
def State.restoreParts (s : State) (ctx : Nat) (c : Cmd) (resv : Resv) : State :=
  match (s.ctx ctx).saved with
  | none => s
  | some v =>
    if c.started then
      (v.parts.filter (fun p => resv.plat.any (fun r => r.1 == p.1 && r.2.1 == p.2.1))).foldl (fun s p =>
        { s with mem := s.mem.write (.plat p.1 p.2.1) p.2.2 }) s
    else s

/-- A candidate that fits is admitted. -/
def State.admitCand (s : State) (k : Cand) (y : Ready) : State :=
  let slot := s.freeSlot
  let resv := s.reserve y.need
  match k.origin with
  | .saved =>
    match ((s.ctx k.ctx).saved.map (·.cmds)).getD [] with
    | c :: _ =>
      let s0 := s.dropCand k none
      let s0 := if c.loop.isSome then s0.moveLoop k.ctx k.queue slot else s0
      let s0 := s0.renameProg c (savedMark c.order) slot
      let s1 := (s0.restoreParts k.ctx c resv).enterSlot slot
        { c with resv := resv, yielded := false, waitAt := s.time.cmdClk, stallBy := s.stallDue }
      if c.beforeMain then s1.beginLoad slot
      else if c.phase = .admitted ∧ c.waits.any (fun p => (s.sigOf p.2.sig).state != .live) then
        s1.endCmd slot stAbandoned 0 0
      else
        let s2 := if c.phase = .admitted then (s1.joinWaits slot c).settleWaits slot else s1
        (s2.answerPending slot).startEarly slot
    | [] => s
  | .main key =>
    match s.cmd? key with
    | some c =>
      let x := s.ctx k.ctx
      let c1 := { c with resv := resv, latches := s.latchesOf c.stages, seed := x.seed, step := x.step
                         admitAt := s.time.cmdClk, waitAt := s.time.cmdClk, waitLeft := c.crec.waitNs, stallBy := s.stallDue
                         dual := c.dual.map (fun d => { d with mainIn := true, since := none }) }
      (s.dropCand k none).enterMain slot c1 y.need
    | none => s
  | _ =>
    match y.dual with
    | some d => s.enterLoad k y d
    | none => (s.dropCand k (some slot)).enterMain slot (s.mkCmd k y resv) y.need

/-- The first candidate of a list that is decided now: rejected, or admitted when it fits and nothing older blocks it. -/
def State.admitFirst (s : State) (all : List Cand) : List Cand → State
  | [] => s
  | k :: t =>
    let v := s.verdict k
    match v.1 with
    | .reject st => s.endCand k v.2 st
    | .fits => if s.blockedBy all k v.2.need then s.admitFirst all t else s.admitCand k v.2
    | .wait _ => s.admitFirst all t

/-- CMD_ADMIT (R300, R302): the first candidate that is decided. -/
def admitOp (s : State) : State := s.admitFirst s.cands s.cands

/-- The oldest candidate of a queue whose wait has reached ADMIT_MS. -/
def State.expired (s : State) (ctx q : Nat) : Option Cand :=
  s.cands.find? (fun k => k.ctx == ctx && k.queue == q && k.origin != .saved && s.waited k (s.ctx k.ctx).admitNs)

/-- The admitted, unstarted commands that hold a resource that a candidate lacks (R303). -/
def State.blockers (s : State) (l : List Res) : List (Nat × Cmd) :=
  s.cmdList.filter (fun e => decide (e.1 < 4096) && !e.2.started && !isError e.2.st && l.any e.2.holds)

/-- Age as R302 measures it: the fabric time of the fetch, and then the number of the context. -/
def isYounger (a b : Dword × Nat) : Bool := decide (b.1.toNat < a.1.toNat) || (a.1 == b.1 && decide (b.2 < a.2))

/-- The youngest of the blockers that are younger than a candidate (R302, R303). -/
def youngest (age : Dword × Nat) (l : List (Nat × Cmd)) : Option (Nat × Cmd) :=
  l.foldl (fun (a : Option (Nat × Cmd)) e =>
    let own := (e.2.fetchedAt, e.2.ctx)
    if !isYounger own age then a
    else
      match a with
      | some b => if isYounger (b.2.fetchedAt, b.2.ctx) own then a else some e
      | none => some e) none

/-- ADMIT_TIMEOUT (R303). -/
def admitTimeoutOp (ctx q : Nat) (s : State) : State :=
  match s.expired ctx q with
  | none => s
  | some k =>
    let v := s.verdict k
    match v.1 with
    | .wait l =>
      match youngest (k.fetchedAt, k.ctx) (s.blockers l) with
      | some e => s.endCmd e.1 stResource 0 0
      | none => s.endCand k v.2 stResource
    | .fits => if s.blockedBy s.cands k v.2.need then s.endCand k v.2 stResource else s
    | .reject _ => s

/-- CMD_ADMIT. -/
def execCmdAdmit (s : State) : Host.Outcome State Fault Refusal := .next (admitOp s)
/-- ADMIT_TIMEOUT. -/
def execAdmitTimeout (ctx queue : Nat) (s : State) : Host.Outcome State Fault Refusal := .next (admitTimeoutOp ctx queue s)

/-- A candidate's admission wait begins now, unless it has begun (R303). -/
def State.markCand (s : State) (k : Cand) : State :=
  let t := some s.time.admClk
  if k.since.isSome then s
  else
    match k.origin with
    | .head => s.modCtx k.ctx (fun x => x.setSq k.queue { x.sq k.queue with recs :=
        match (x.sq k.queue).recs with
        | r :: rest => { r with since := t } :: rest
        | [] => [] })
    | .body ls _ _ => s.modCmd ls (fun c => { c with loop := c.loop.map (fun l => { l with since := t }) })
    | .prog key => s.modCmd key (fun c => { c with dual := c.dual.map (fun d => { d with since := t }) })
    | .main key => s.modCmd key (fun c => { c with dual := c.dual.map (fun d => { d with since := t }) })
    | .saved => s

/-- Every candidate's wait has begun. -/
def State.markCands (s : State) : State := s.cands.foldl State.markCand s

end Sys2Proof.Machine
end

