-- ==== Sys2Proof/Machine/Dump.lean ====
section
/-!
DEFINITION. Hang dumps (18_observation.md R480–R482): the layout of trace records and error-log entries as bytes, the
sections of a dump, and the freeze instant at which the state is captured.
-/
namespace Sys2Proof.Machine

/-! ## Records as bytes -/

/-- The 32 bytes of a trace record (R473). -/
def TrcRec.bytes (r : TrcRec) : List Byte :=
  toLe 1 r.type ++ toLe 1 r.src ++ toLe 2 (r.ctx % 4096 + putAt (r.queue % 16) 12) ++ toLe 4 r.seq.toNat ++ toLe 8 r.time.toNat
    ++ toLe 8 r.a.toNat ++ toLe 8 r.b.toNat

/-- ERR_ENT0 of an entry (VALID set). -/
def ErrEnt.ent0 (e : ErrEnt) : Nat :=
  e.seq.toNat + putAt e.status.toNat 32 + putAt (e.master % 16) 40 + putAt (e.host % 16) 44 + putAt (e.unit % 128) 48 + 2 ^ 63
/-- ERR_ENT3 of an entry. -/
def ErrEnt.ent3 (e : ErrEnt) : Nat :=
  e.ctx % 4096 + putAt (e.where_ % 16) 12 + putAt (e.index % 65536) 16 + putAt e.rep 32 + putAt (e.detail % 65536) 48

/-- The four words of an entry, as ERR_ENT0–3 show them. -/
def ErrEnt.bytes (e : ErrEnt) : List Byte :=
  toLe 8 e.ent0 ++ toLe 8 e.time.toNat ++ toLe 8 e.addr ++ toLe 8 e.ent3

/-- The entries of the trace buffer, oldest first, gaps included (R475, R476). -/
def TrcSt.entries (t : TrcSt) : List TrcRec :=
  (if t.headGap.count = 0 then [] else [gapRec t.headGap]) ++ t.buf
    ++ (if t.mode = 0 then [] else (t.tailGap.map gapRec).toList)

/-! ## Sections (R482) -/

/-- The section types of a dump, in the order of the table. -/
def DumpSt.sections (d : DumpSt) : List Nat :=
  [1, 2, 3, 4, 5, 6, 7, 8, 9, 10, 11] ++ (if d.withPlat then [12] else []) ++ (if d.withDepot then [13] else [])

/-- Waiter entries of every signal. -/
def State.waiterCount (s : State) : Nat := s.sig.sigs.foldl (fun a e => a + e.2.waiters.length) 0

/-- The size of a section in bytes. -/
def State.sectionSize (s : State) (t : Nat) : Nat :=
  match t with
  | 1 => 2 * 2 ^ 20
  | 2 => 16 * s.waiterCount
  | 3 => 2 ^ 20
  | 4 => 2 ^ 20
  | 5 => 64 * 1024
  | 6 => 256 * 1024
  | 7 => 8 * 1024
  | 8 => 2 ^ 20
  | 9 => 128 * 1024
  | 10 => 512 * 1024
  | 11 => 1152 * 1024
  | 12 => 2 * 2 ^ 20 * s.inv.sites.length
  | _ => 512 * 2 ^ 20

/-! The content of the records whose layout R482 does not give. -/

/-- Section 1: state, class, flags, owner, value, REFS, last-signaller record. -/
def Signal.content (g : Signal) : List Nat :=
  [g.state.ctorIdx, g.cls, b2n g.sat, b2n g.ownerSaved, g.owner, g.value.toNat, g.refs, g.last.master, g.last.ctx, g.last.queue, g.last.pop,
   g.last.seq.toNat, g.last.time.toNat]

/-- Section 2: the waiter entries of every signal in list order: signal, command slot, WAITIDX, WOP, VALUE. -/
def State.waiterContent (s : State) : List (List Nat) :=
  s.sig.sigs.flatMap (fun e => e.2.waiters.map (fun w => [e.1, w.slot, w.idx, w.wop, w.val.toNat]))

/-- Section 3: the CTX_ window, SEED, STEP, queue counts. -/
def Ctx.content (x : Ctx) : List Nat :=
  [x.state.ctorIdx, b2n x.fault, b2n (!x.cq.waiting.isEmpty), x.seed.toNat, x.step.toNat, b2n x.dlStrict, b2n x.detOrder, b2n x.noZspec,
   b2n x.noEarly, x.cmdLimit, x.weight, x.admitMs, x.wdogS, x.saveSize, x.saveAddr, b2n x.abortBusy, x.abortRes.toNat, x.irqVec, b2n x.irqEn]
    ++ [x.sq0, x.sq1, x.sq2, x.sq3].flatMap (fun q => [q.log2n, q.addr, q.head.toNat, q.tail.toNat])
    ++ [x.cq.log2n, x.cq.addr, x.cq.head.toNat, x.cq.tail.toNat]

/-- Section 4: the record copy, phase, stage, latches, accumulators of the command in a slot. -/
def Cmd.content (c : Cmd) : List Nat :=
  c.raw.map (·.toNat) ++ [c.phase.ctorIdx, c.failStage, c.stages.length] ++ c.latches.flatMap (fun l => [l.1, l.2.1, l.2.2.toNat])
    ++ [c.seed.toNat, c.step.toNat, c.acc.fmtSat, c.acc.fmtFtz, c.acc.strWaste, c.acc.refetch, c.acc.specFault, c.acc.dpWaste]
    ++ c.acc.oc.flatMap (fun o => [o.1.ctorIdx, o.2])

/-- Section 6: the Yard's job and lease tables, the states of the table-unit slots. -/
def State.tableContent (s : State) : List Nat :=
  s.yard.jobs.flatMap (fun e => match e.2 with
    | some j => [e.1, j.job, j.ctx, j.epoch.toNat, b2n j.drain]
    | none => [])
    ++ s.yard.leases.flatMap (fun e => match e.2 with
      | some l => [e.1, l.paddr, l.ctx, l.leases, b2n l.upd, l.gen.toNat]
      | none => [])
    ++ s.tbl.slots.flatMap (fun e => [e.1, b2n e.2.bound, e.2.ctx, e.2.gen.toNat])

/-- Section 7: state, credits, replay pointers, departure position of a port. -/
def State.portContent (s : State) (k : Nat) : List Nat :=
  let p := s.port k
  [k, p.state.ctorIdx] ++ (List.range 8).map p.credit ++ [p.txSeq.toNat, p.rxNext.toNat, p.replay.length, s.time.now.toNat % max 1 (s.ttPort k).periodNs]

/-- The slots that the table unit holds of a key-value cache, with the counts of every frame in both banks (R163). -/
def TblSlot.counts (t : TblSlot) : List Nat := (List.range t.frames).flatMap (fun f => [t.cnt 0 (BitVec.ofNat 32 f), t.cnt 1 (BitVec.ofNat 32 f)])

/-- Section 5: the counts of each book, in the order of R339: link credits, ring credits, what admission has reserved, wagon tags held, tokens
held, page counts, leases. -/
def State.bookContent (s : State) : List (List Nat) :=
  [(List.range 8).flatMap (fun k => (List.range 8).flatMap (fun vc => [(s.port k).credit vc, Tab.get 0 (s.port k).ret vc])),
   s.cmdList.flatMap (fun e => (e.2.ring.map (fun r => [e.1, r.credits, r.owed])).getD []),
   s.cmdList.flatMap (fun e => e.1 :: e.2.resv.plat.flatMap (fun x => [x.1, x.2.1, x.2.2])),
   s.cmds.wagons.flatMap (fun w => [(s.poolOf w.req.line).code, w.port, w.tag]),
   s.cmdList.flatMap (fun e => e.2.held.flatMap (fun h => [e.1, h.1, h.2.toNat])),
   (s.tbl.slots.filter (fun e => e.1 / 4096 == 1 && e.2.bound)).flatMap (fun e => e.1 :: e.2.counts),
   s.yard.leases.flatMap (fun e => match e.2 with
     | some l => [l.paddr, l.leases, b2n l.upd]
     | none => [])]

/-- The merge state of a row of the attention line (R36). -/
def RowSt.content (r : RowSt) : List Nat := r.row :: (r.f.map Int.toNat).getD 0 :: b2n r.f.isSome :: r.l.toNat :: r.o.map (·.toNat)

/-- What a stage of a command has on a core: the unit it is at, its streams' tiles, and its merge state and accumulators. -/
def Cmd.coreContent (c : Cmd) (slot i core : Nat) : List Nat :=
  let st := nth Stage.none c.stages i
  let mine (t : Tile) : Bool := t.stage == i && st.cores[tileCore t.idx]? == some core
  [slot, i, c.pos] ++ (c.tiles.filter mine).flatMap (fun t => [t.field, t.idx, t.window, t.hits, t.lines.length])
    ++ (c.rung.filter (fun r => r.1 == i)).flatMap (fun r => r.2.flatMap RowSt.content)
    ++ ((c.ring.map (fun r => if r.stage = i then r.step :: r.rows.flatMap RowSt.content ++ (r.acc.flatMap id).map (·.toNat) else [])).getD [])

/-- Section 11: what started commands have on a core. -/
def State.coreContent (s : State) (core : Nat) : List Nat :=
  (s.cmdList.filter (fun e => e.2.started)).flatMap (fun e => (List.range e.2.stages.length).flatMap (fun i =>
    if (nth Stage.none e.2.stages i).cores.contains core then e.2.coreContent e.1 i core else []))

/-- Records of a section, `size` bytes each. -/
def dumpRecs (t size : Nat) (l : List (List Nat)) : List Byte := l.flatMap (fun c => (List.range size).map (Config.dumpByte t c))

/-- The bytes of a section. The spec gives the layout of the trace, the error log, the counters, the Platforms and the
Depot; of the other sections it names the content and the size of a record, and the bytes that a content takes are free values (log 43). -/
def State.sectionBytes (s : State) (t : Nat) : List Byte :=
  let n := s.sectionSize t
  match t with
  | 1 => dumpRecs 1 32 ((List.range 65536).map (fun k => (Tab.get Signal.free s.sig.sigs k).content))
  | 2 => dumpRecs 2 16 s.waiterContent
  | 3 => dumpRecs 3 256 ((List.range 4096).map (fun k => (Tab.get Ctx.zero s.ctxs k).content))
  | 4 => dumpRecs 4 256 ((List.range 4096).map (fun k => ((s.cmd? k).map Cmd.content).getD []))
  | 5 => dumpRecs 5 n [s.bookContent.flatMap (fun l => l.length :: l)]
  | 6 => dumpRecs 6 n [s.tableContent]
  | 7 => dumpRecs 7 1024 ((List.range 8).map s.portContent)
  | 8 => slice (s.trc.entries.flatMap (·.bytes)) 0 n
  | 9 => slice (s.log.entries.flatMap (·.bytes)) 0 n
  | 10 => (List.range (n / 8)).flatMap (fun i => toLe 8 (s.counter (0x500000 + 8 * i)).toNat)
  | 11 => dumpRecs 11 4096 ((List.range 288).map s.coreContent)
  | 12 => s.inv.sites.flatMap (fun k => s.mem.read (.plat k 0) (2 * 2 ^ 20))
  | _ => s.mem.read (.depot 0) n

/-- HBM exists from an address on, for n bytes. -/
def State.hbmRun (s : State) (pa n : Nat) : Bool :=
  (List.range (ceilDiv n 32768)).all (fun i => s.hbmExists (pa + 32768 * i)) && (n == 0 || s.hbmExists (pa + n - 1))

/-- Lay the sections out from an offset: directory entries (type, bytes, offset); a section that does not fit in the
area has no bytes. -/
def State.layOut (s : State) (base : Nat) : Nat → List Nat → List (Nat × Nat × Nat)
  | _, [] => []
  | off, t :: rest =>
    let n := s.sectionSize t
    if s.hbmRun (base + off) n then (t, n, off) :: s.layOut base (off + n) rest else (t, 0, off) :: s.layOut base off rest

/-- The header of a dump: MAGIC, VERSION, NSECT, the time F, the cause, and the directory. -/
def State.dumpHeader (s : State) (cause : Word) (dir : List (Nat × Nat × Nat)) : List Byte :=
  slice (toLe 4 0x4C444450 ++ toLe 2 1 ++ toLe 2 dir.length ++ toLe 8 s.time.now.toNat ++ toLe 4 cause.toNat ++ toLe 44 0
    ++ dir.flatMap (fun (e : Nat × Nat × Nat) => toLe 4 e.1 ++ toLe 4 e.2.1 ++ toLe 8 e.2.2)) 0 4096

/-- What a dump that is taken now writes: HBM addresses and bytes. -/
def State.capture (s : State) (cause : Word) : List (Nat × List Byte) :=
  let base := s.trc.dump.addr * 32768
  let dir := s.layOut base 4096 s.trc.dump.sections
  if s.hbmRun base 4096 then
    (base, s.dumpHeader cause dir) :: (dir.filter (fun (e : Nat × Nat × Nat) => e.2.1 != 0)).map
      (fun (e : Nat × Nat × Nat) => (base + e.2.2, s.sectionBytes e.1))
  else []

/-! ## The freeze (R480) -/

/-- The freeze instant of a dump: admission, starts, retires and signal changes stop, and the state is captured. -/
def State.startDump (s : State) (cause : Word) (ctx : Option Nat) : State :=
  let d := s.trc.dump
  if d.busy then s
  else
    let d1 : DumpSt := { d with busy := true, done := false, at_ := s.time.now, cause := cause, wdogCtx := ctx, held := []
                                n := d.n + 1, image := s.capture cause }
    { s with trc := { s.trc with dump := d1 } }

/-- The captured state is written, and DONE is set (R480, R482). -/
def State.dumpWritten (s : State) : State :=
  let d := s.trc.dump
  let mem := d.image.foldl (fun (m : Memories) (e : Nat × List Byte) => m.write (.hbm e.1) e.2) s.mem
  { s with mem := mem, trc := { s.trc with dump := { d with done := true, image := [] } } }

end Sys2Proof.Machine
end

