-- ==== Sys2Proof/Machine/Lifecycle.lean ====
section
/-!
DEFINITION. The life of a command after admission: fetching (R295), the retire point's row, aborts (R307), the watchdogs
of R316, loops (R313–R315), the decision of dual-path commands (R251), SIGNAL (R332) and FENCE (R410), and yielding (R318,
R319).
-/
namespace Sys2Proof.Machine

/-! ## CMD_FETCH (R295) -/

/-- Fetch up to `n` records of a queue in SEQ order. -/
def State.fetchRecs (ctx q : Nat) : Nat → State → State
  | 0, s => s
  | n + 1, s =>
    let v := (s.ctx ctx).sq q
    if v.tail = v.head then s
    else
      let va := v.addr * 4096 + 128 * (v.head.toNat % 2 ^ v.log2n)
      match s.recFault ctx va 128 with
      | some f =>
        let a := { s.faultArg uSeq f with ctx := ctx, host := s.ctxHostCode ctx }
        (s.modCtx ctx (fun x => x.setSq q { v with fault := true })).logErr (match f.2 with
          | .va _ => { a with addr := va, where_ := q, index := v.head.toNat % 65536 }
          | .line _ => a)
      | none =>
        let b := s.rdBytes ctx va 128
        let rec_ : Fetched := ⟨v.head, b, s.time.now, none⟩
        let recs := if v.dead.contains v.head then v.recs else v.recs ++ [rec_]
        let v1 := { v with head := v.head + 1, recs := recs, dead := v.dead.filter (fun d => d != v.head) }
        State.fetchRecs ctx q n (s.modCtx ctx (fun x => x.setSq q v1))

/-- A queue of an ON context whose records the sequencers fetch: a fault has not stopped it. -/
def State.fetches (s : State) (ctx q : Nat) : Bool :=
  let v := (s.ctx ctx).sq q
  !s.trc.dump.busy && (s.ctx ctx).state == .on && v.log2n != 0 && !v.fault

/-- CMD_FETCH: one burst of up to 16 records of a queue, by a sequencer that has its clock (R452). -/
def cmdFetchOp (ctx q : Nat) (s : State) : State :=
  if !s.fetches ctx q ∨ s.dieStopped then s else State.fetchRecs ctx q 16 s

/-! ## The retire point's row (R306, R315) -/

/-- A loop has ended (R315). -/
def LoopSt.over (l : LoopSt) (failed : Bool) : Bool :=
  l.live.isEmpty && (failed || l.stopped || l.count == 0
    || (l.began && decide (l.count ≤ l.iter + 1) && l.pos == l.nbody))

/-- A command stands at its retire point: its work is done or it has ended, every request has been issued and every
wagon acknowledged or timed out. -/
def State.atRetirePoint (s : State) (slot : Nat) (c : Cmd) : Bool :=
  let quiet := s.unacked slot == [] && c.outQ == [] && c.paged == []
  match c.loop with
  | some l => (if c.started then l.over (isError c.st) else isError c.st) && quiet
  | none => quiet && (c.phase == .worked || (!c.started && isError c.st))

/-- CMD_RETIRE; before the retire point, what still waits is issued. -/
def cmdRetireOp (slot : Nat) (s : State) : State :=
  if s.trc.dump.busy then s
  else
    match s.cmd? slot with
    | none => s
    | some c =>
      if s.atRetirePoint slot c then
        s.retire slot (match c.loop with
          | some l => c.mark l.worst l.worstDetail
          | none => c)
      else s.pumpCmd slot

/-! ## Loops (R313, R314) -/

/-- An iteration of a running loop may begin: its first body command may then be admitted (log 49). -/
def LoopSt.mayBegin (l : LoopSt) : Bool :=
  !l.stopped && (if l.began then
      l.pos == l.nbody && decide (l.iter + 1 < l.count) && l.live.all (fun p => decide (l.iter + 1 ≤ p.1 + l.lag))
    else decide (0 < l.count))

/-- A new iteration (R195, R314): STEP rises, and the body records are fetched afresh. -/
def iterationOp (slot : Nat) (s : State) : State :=
  match s.cmd? slot with
  | none => s
  | some c =>
    match c.loop with
    | none => s
    | some l =>
      if s.trc.dump.busy ∨ !c.started ∨ isError c.st ∨ (s.ctx c.ctx).state ≠ .on ∨ !l.mayBegin then s
      else
        match s.recFault c.ctx l.body (128 * l.nbody) with
        | some f => s.failCmd slot f.1 0 0 (s.faultArg uSeq f)
        | none =>
          let b := s.rdBytes c.ctx l.body (128 * l.nbody)
          let l1 := { l with iter := if l.began then l.iter + 1 else 0, began := true, pos := 0, since := none
                             recs := (List.range l.nbody).map (fun i => slice b (128 * i) 128), fetchedAt := s.time.now }
          (s.modCtx c.ctx (fun x => { x with step := x.step + 1 })).setCmd slot
            (some { c with loop := some l1, stallBy := s.stallDue })

/-- STEP_LOOP: a started loop that is over has done its work; otherwise its next iteration begins when it may. -/
def stepLoopOp (slot : Nat) (s : State) : State :=
  match s.cmd? slot with
  | none => s
  | some c =>
    match c.loop with
    | none => s
    | some l =>
      if s.trc.dump.busy then s
      else if c.phase = .started ∧ l.over (isError c.st) then s.setCmd slot (some { c with phase := .worked })
      else iterationOp slot s

/-! ## SIGNAL and FENCE (R332, R410) -/

/-- The start departure of a command has passed (R305, R370). -/
def State.departed (s : State) (c : Cmd) : Bool := !c.crec.startEn || decide (c.crec.tStart.toNat ≤ s.time.now.toNat)

/-- A SIGNAL or FENCE whose waits are satisfied and whose start departure has passed retires, out of an idle state only (R454). Host writes take
effect when they are accepted (log 8), and those that an idle state has held at its exit, so a FENCE waits for nothing more (R410). -/
def retireReady (op slot : Nat) (s : State) : State :=
  if s.trc.dump.busy ∨ s.asleep then s
  else
    match s.cmd? slot with
    | none => s
    | some c =>
      if c.op = op ∧ (c.phase = .ready ∨ c.phase = .started) ∧ s.departed c then
        let c1 := { c with phase := .worked, held := [], startAt := s.time.cmdClk }
        (s.setCmd slot (some c1)).retire slot c1
      else s

/-! ## The decision of a dual-path command (R251) -/

def dualDecisionOp (slot : Nat) (s : State) : State :=
  if s.trc.dump.busy then s
  else
    match s.cmd? slot with
    | none => s
    | some c =>
      match c.dual with
      | none => s
      | some d =>
        let strict := s.cfg.profile != .freight || (s.ctx c.ctx).dlStrict
        if d.phase = .load ∧ !d.decided ∧ !isError c.st ∧ decideAt c.crec d ≤ s.time.now.toNat then
          if strict then s.takeBranch slot
          else s.setCmd slot (some { c with dual := some { d with decided := true } })
        else s

/-! ## Watchdogs (R316, R329) -/

/-- The wait of a command that has not started: on its signals, or on UPD or LEASES (R329, R390). A change at the tick at which it expires still
satisfies it. -/
def State.waitOver (s : State) (c : Cmd) : Bool :=
  let x := s.ctx c.ctx
  let waits := (c.phase == .admitted && !s.waitsHold c) || (c.phase == .ready && c.leaseAt.isSome)
  (x.state == .on || x.state == .preempting) && !c.beforeMain && waits
    && decide (c.waitAt.toNat + c.waitLeft < s.time.cmdClk.toNat)

/-- WAIT_TIMEOUT. -/
def waitTimeoutOp (slot : Nat) (s : State) : State :=
  if s.trc.dump.busy then s
  else
    match s.cmd? slot with
    | none => s
    | some c => if s.waitOver c ∧ slot < 4096 then s.endCmd slot stTimeout 0x04 0 else s

/-- Every outstanding wagon of a command waits on a port that retrains (R354). -/
def State.heldByPort (s : State) (slot : Nat) : Bool := s.unacked slot != [] && (s.unacked slot).all s.timerHeld

/-- The body commands of a loop. -/
def State.bodies (s : State) (slot : Nat) : List (Nat × Cmd) :=
  s.cmdList.filter (fun e =>
    match e.2.body with
    | some (_, ls, _) => ls == slot
    | none => false)

/-- When the stall watchdog of a command expires: the work of a loop is that of its body commands (R314, R316; log 23). -/
def State.stallAt (s : State) (slot : Nat) (c : Cmd) : Nat :=
  if c.loop.isSome then (s.bodies slot).foldl (fun a e => max a e.2.stallBy) c.stallBy else c.stallBy

/-- STALL_TIMEOUT. -/
def stallTimeoutOp (slot : Nat) (s : State) : State :=
  if s.trc.dump.busy then s
  else
    match s.cmd? slot with
    | none => s
    | some c =>
      if c.started ∧ !c.yielded ∧ !c.ended ∧ !s.heldByPort slot ∧ s.stallAt slot c ≤ s.time.cmdClk.toNat then
        s.failCmd slot stTimeout 0x03 0 { status := stTimeout, unit := uSeq }
      else s

/-- PREEMPT_RETIRE_TIMEOUT (R318): a command that must run to its retire point. -/
def preemptTimeoutOp (yields : State → Nat → Cmd → Bool) (slot : Nat) (s : State) : State :=
  if s.trc.dump.busy then s
  else
    match s.cmd? slot with
    | none => s
    | some c =>
      let x := s.ctx c.ctx
      if x.state = .preempting ∧ c.started ∧ !c.ended ∧ !c.yielded ∧ !yields s slot c
          ∧ x.preemptBy ≤ s.time.cmdClk.toNat then
        s.failCmd slot stTimeout 0x03 0 { status := stTimeout, unit := uSeq }
      else s

/-! ## Yielding (R318, R319) -/

/-- Families with a yield point (R74, R134, R185, R192, R222); a loop keeps its position (R319). -/
def Cmd.canYield (c : Cmd) : Bool :=
  !c.chained && !c.ringEn && (c.op == 1 || c.op == 2 || c.op == 3 || c.op == 4 || c.op == 5 || c.op == 6 || c.op == 0x0C
    || c.loop.isSome)

/-- The partial regions of a command: core, offset, bytes (R70, R319). -/
def State.partsOf (s : State) (c : Cmd) : List (Nat × Nat × Nat) :=
  match c.stages.head? with
  | none => []
  | some st =>
    match (s.specOf c.ctx c.chained st.op st.pb).part with
    | some (o, n) => st.cores.map (fun k => (k, o, n))
    | none => []

def partsBytes (l : List (Nat × Nat × Nat)) : Nat := l.foldl (fun a p => a + p.2.2) 0

/-- The save budget of a context (R319). -/
def State.saveBudget (s : State) (ctx : Nat) : Nat :=
  if s.cfg.profile = .sleeper then 8388608 else (s.ctx ctx).saveSize * 65536

/-- Admitted, unretired commands of a context in admission order. -/
def State.inOrder (s : State) (ctx : Nat) : List (Nat × Cmd) :=
  (s.cmdList.filter (fun e => e.2.ctx == ctx)).foldl (fun l e =>
    (l.takeWhile (fun x => decide (x.2.order ≤ e.2.order))) ++ [e] ++ (l.dropWhile (fun x => decide (x.2.order ≤ e.2.order)))) []

/-- The fixed part and the command records of the saved state (R319). -/
def State.saveBase (s : State) (ctx : Nat) : Nat := 65536 + 1024 * (s.inOrder ctx).length

/-- A started command that has a yield point ahead of it. -/
def Cmd.mayYield (c : Cmd) : Bool := c.canYield && c.phase == .started && !c.ended && c.info == 0

/-- The commands that yield: in admission order, while their state fits in the budget that remains (R319). -/
def State.yielders (s : State) (ctx : Nat) : List Nat :=
  ((s.inOrder ctx).foldl (fun (a : List Nat × Nat) e =>
    let n := partsBytes (s.partsOf e.2)
    if (e.2.mayYield || e.2.yielded) && decide (a.2 + n ≤ s.saveBudget ctx) then (a.1 ++ [e.1], a.2 + n) else a)
    ([], s.saveBase ctx)).1

/-- A command yields in the pre-emption of its context. -/
def State.yields (s : State) (slot : Nat) (c : Cmd) : Bool := (s.yielders c.ctx).contains slot

/-- What a command's finished units wrote has been issued (R279). -/
def Cmd.settled (c : Cmd) : Bool := c.outQ.all (fun r => r.kind == .read) && c.paged.isEmpty

/-- YIELD, between two units: the command's tiles are discarded, its buffers and windows released; its partial regions stay reserved until
they have been saved (R279, R339). -/
def yieldOp (slot : Nat) (s : State) : State :=
  if s.trc.dump.busy then s
  else
    match s.cmd? slot with
    | none => s
    | some c =>
      if (s.ctx c.ctx).state = .preempting ∧ !c.yielded ∧ c.mayYield ∧ c.settled ∧ c.eaten = 0 ∧ s.yields slot c then
        let s1 := s.cancel slot
        s1.modCmd slot (fun c => { c with
          yielded := true, coreCyc := s.coreCycles c
          resv := { Resv.none with plat := (s.partsOf c).map (fun p => (p.1, p.2.1, p.2.1 + p.2.2)), pins := c.resv.pins } })
      else s

/-! ## Aborts (R307, R315) -/

/-- A dual-path command that an abort ends in its load or branch phase lists its outputs (R253). -/
def State.listOutputs (s : State) (slot : Nat) : State :=
  s.modCmd slot (fun c => if c.beforeMain ∧ !isError c.st then c.listOuts else c)

/-- Abort the commands in a list of slots. -/
def State.abortEach (l : List Nat) (s : State) : State := l.foldl (fun s k => s.endCmd k stAborted 0 0) s

/-- Abort the body commands of a loop that have not reached their retire points (R307, R315). -/
def State.abortBodies (l : List Nat) (s : State) : State :=
  l.foldl (fun s k => if (s.cmd? k).any (s.atRetirePoint k) then s else s.endCmd k stAborted 0 0) s

/-- Saved commands are put under keys of their own, in order; body commands of a loop among them follow its key. -/
def State.reenter (s : State) (l : List Cmd) : State :=
  (l.foldl (fun (a : State × List (Nat × Nat)) c =>
    let key := a.1.parkKey
    let link (b : Nat × Nat × Nat) : Nat × Nat × Nat :=
      match a.2.find? (fun e => e.1 == c.queue) with
      | some e => (b.1, e.2, b.2.2)
      | none => b
    let s1 := (a.1.renameProg c (savedMark c.order) key).setCmd key
      (some { c with yielded := false, resv := Resv.none, body := c.body.map link })
    let s2 := { s1 with cmds := { s1.cmds with order := s1.cmds.order + 1 } }
    (s2, if c.loop.isSome then (c.queue, key) :: a.2 else a.2)) (s, [])).1

/-- The saved recompute commands of a dual-path command are put under keys of their own. -/
def State.recallProg (s : State) (ctx slot : Nat) : State :=
  match (s.ctx ctx).saved with
  | none => s
  | some v =>
    let out (d : Cmd) : Bool := d.parent == some slot
    (s.modCtx ctx (fun x => { x with saved := some { v with cmds := v.cmds.filter (fun d => !out d) } })).reenter (v.cmds.filter out)

/-- Abort a command that has been admitted. -/
def State.abortCmd (s : State) (slot : Nat) : State :=
  match s.cmd? slot with
  | none => s
  | some c =>
    match c.loop with
    | some _ =>
      State.abortBodies ((s.bodies slot).map (·.1)) (s.endCmd slot stAborted 0 0)
    | none =>
      let s1 := if c.dual.isSome then s.recallProg c.ctx slot else s
      let busy := (((s1.cmd? slot).bind (·.dual)).map (·.progBusy)).getD []
      if c.beforeMain ∧ busy ≠ [] then State.abortEach busy (s1.listOutputs slot)
      else (s1.listOutputs slot).endCmd slot stAborted 0 0

/-- Commands without a slot that stand at their retire point retire. -/
def State.retireParked (s : State) (ctx : Nat) : State :=
  let keys (s : State) : List Nat := (s.cmdList.filter (fun e => e.2.ctx == ctx && decide (4096 ≤ e.1))).map (·.1)
  let once (s : State) : State := (keys s).foldl (fun s k => cmdRetireOp k s) s
  once (once s)

/-- The unretired command that an abort names; one of a pre-empted context is put under a key of its own first, with the
body commands of a loop. -/
def State.findTarget (s : State) (ctx q : Nat) (seq : Word) : State × Option Nat :=
  let mine (c : Cmd) : Bool := c.ctx == ctx && c.queue == q && c.seq == seq && c.body.isNone && c.parent.isNone
  match s.cmdList.find? (fun e => mine e.2) with
  | some e => (s, some e.1)
  | none =>
    match (s.ctx ctx).saved with
    | none => (s, none)
    | some v =>
      match v.cmds.find? mine with
      | none => (s, none)
      | some c =>
        let out (d : Cmd) : Bool := mine d || (c.loop.isSome && d.queue == q && d.body.isSome)
        let s1 := s.modCtx ctx (fun x => { x with saved := some { v with cmds := v.cmds.filter (fun d => !out d) } })
        (s1.reenter (v.cmds.filter out), some s1.parkKey)

/-- A command that ends with ABORTED before admission: it writes its record (R306, R307). -/
def State.abortUnadmitted (s : State) (ctx q : Nat) (seq : Word) (raw : List Byte) : State :=
  let k : Cand := ⟨ctx, q, seq, raw, .saved, s.time.now, none⟩
  let c := (s.mkCmd k ⟨parseRec raw, [], none, Need.none⟩ Resv.none).mark stAborted 0
  s.retire s.parkKey c

/-- The outcome of an abort: the state and RESULT. A command at its retire point is not aborted. -/
def State.abortTarget (s : State) (ctx q : Nat) (seq : Word) : State × Byte :=
  let v := (s.ctx ctx).sq q
  if !serialAfter 32 seq.toNat v.tail.toNat then (s, stRange)
  else
    let t := s.findTarget ctx q seq
    match t.2 with
    | some slot =>
      if (s.cmd? slot).any (s.atRetirePoint slot) then (s, stAlreadyDone) else ((t.1.abortCmd slot).retireParked ctx, stAborted)
    | none =>
      match v.recs.find? (fun r => r.seq == seq) with
      | some r =>
        let s1 := s.modCtx ctx (fun x => x.setSq q { v with recs := v.recs.filter (fun r => r.seq != seq) })
        (s1.abortUnadmitted ctx q seq r.raw, stAborted)
      | none =>
        if (v.head = seq ∨ serialAfter 32 v.head.toNat seq.toNat) ∧ !v.dead.contains seq then
          let va := v.addr * 4096 + 128 * (seq.toNat % 2 ^ v.log2n)
          let s1 := s.modCtx ctx (fun x => x.setSq q { v with dead := v.dead ++ [seq] })
          (s1.abortUnadmitted ctx q seq (s.rdBytes ctx va 128), stAborted)
        else (s, stAlreadyDone)

/-- A write of CTX_ABORT by a master that may see the context. -/
def State.abortWrite (s : State) (mst : Master) (ctx q : Nat) (seq : Word) : State :=
  if (s.ctx ctx).abortBusy then s.logReg mst (0x100030 + 0x100 * ctx)
  else
    let r := s.abortTarget ctx q seq
    r.1.modCtx ctx (fun x => { x with abortRes := r.2 })

/-! ## Rows -/

/-- CMD_FETCH. -/
def execCmdFetch (ctx queue : Nat) (s : State) : Host.Outcome State Fault Refusal := .next (cmdFetchOp ctx queue s)
/-- CMD_RETIRE. -/
def execCmdRetire (slot : Nat) (s : State) : Host.Outcome State Fault Refusal := .next (cmdRetireOp slot s)
/-- WAIT_TIMEOUT. -/
def execWaitTimeout (slot : Nat) (s : State) : Host.Outcome State Fault Refusal := .next (waitTimeoutOp slot s)
/-- STALL_TIMEOUT. -/
def execStallTimeout (slot : Nat) (s : State) : Host.Outcome State Fault Refusal := .next (stallTimeoutOp slot s)
/-- PREEMPT_RETIRE_TIMEOUT. -/
def execPreemptRetireTimeout (slot : Nat) (s : State) : Host.Outcome State Fault Refusal :=
  .next (preemptTimeoutOp State.yields slot s)
/-- YIELD. -/
def execYield (slot : Nat) (s : State) : Host.Outcome State Fault Refusal := .next (yieldOp slot s)
/-- LOOP_ITERATION. -/
def execLoopIteration (slot : Nat) (s : State) : Host.Outcome State Fault Refusal := .next (iterationOp slot s)
/-- STEP_LOOP. -/
def execStepLoop (slot : Nat) (s : State) : Host.Outcome State Fault Refusal := .next (stepLoopOp slot s)
/-- DUAL_PATH_DECISION. -/
def execDualPathDecision (slot : Nat) (s : State) : Host.Outcome State Fault Refusal := .next (dualDecisionOp slot s)
/-- SIGNAL. -/
def execSignal (slot : Nat) (s : State) : Host.Outcome State Fault Refusal := .next (retireReady 0x0D slot s)
/-- FENCE. -/
def execFence (slot : Nat) (s : State) : Host.Outcome State Fault Refusal := .next (retireReady 0x0E slot s)

end Sys2Proof.Machine
end

