-- ==== Sys2Proof/Machine/Contexts.lean ====
section
/-!
DEFINITION. Contexts and queues (R289–R294, R304, R312), pre-emption, save and restore (R318–R320, R337, R338), context
reset (R321, R336, R168, R391) and the context watchdog (R317).
-/
namespace Sys2Proof.Machine

/-- A register access of a context's window that is refused (R290, R291). -/
def State.logCtx (s : State) (mst : Master) (ctx r : Nat) : State :=
  s.logErr { status := stRange, unit := uHost, host := mst.hostCode, master := mst.code, ctx := ctx
             owner := s.ctxHostCode ctx, addr := 0x100000 + 0x100 * ctx + r }

/-- A write to a context's window: refused outside the master's range (R290). -/
def ctxWrite (mst : Master) (ctx r : Nat) (f : State → State) (s : State) : State :=
  if s.mayCtx mst ctx ∧ ctx < 4096 then f s else s.logCtx mst ctx r

/-! ## Reset (R321) -/

/-- The start of a context's reset: admission and fetching stop, waiting records and fetched commands are dropped, and
every command ends as a won abort. -/
def State.beginReset (s : State) (ctx : Nat) (fault : Bool) : State :=
  let x := s.ctx ctx
  if x.state = .off ∨ x.state = .resetting then s
  else
    let drop (v : Sq) : Sq := { v with recs := [] }
    let saved := (x.saved.map (·.cmds)).getD []
    let s1 := s.enterCtx ctx { x with
      state := .resetting, fault := x.fault || fault, saved := none, cq := { x.cq with waiting := [] }
      sq0 := drop x.sq0, sq1 := drop x.sq1, sq2 := drop x.sq2, sq3 := drop x.sq3 }
    let s2 := s1.reenter saved
    let keys := (s2.inOrder ctx).map (·.1)
    (keys.foldl (fun s k => s.abortCmd k) s2).retireParked ctx

/-- Signals of a context become ABANDONED at one instant, and their waiters are released (R336). -/
def State.abandonSigs (s : State) (ctx : Nat) : State :=
  let ns := s.ownedSigs ctx
  let waiting := (ns.flatMap (fun n => (s.sigOf n).waiters.map (·.slot))).eraseDups
  let s1 := ns.foldl (fun s n => s.setSig n { s.sigOf n with state := .abandoned, ownerSaved := false }) s
  waiting.foldl (fun s k => s.endCmd k stAbandoned 0 0) s1

/-- Table slots bound to a context are unbound (R168). -/
def State.unbindCtx (s : State) (ctx : Nat) : State :=
  { s with tbl := { s.tbl with slots := s.tbl.slots.filter (fun e => !(e.2.bound && e.2.ctx == ctx && e.1 / 4096 != 4)) } }

/-- Lease and job entries that a context owns are freed (R373, R391). -/
def State.freeYard (s : State) (ctx : Nat) : State :=
  let own {α : Type} (f : α → Nat) (o : Option α) : Bool := o.map f == some ctx
  { s with yard := { s.yard with jobs := s.yard.jobs.filter (fun e => !own Job.ctx e.2)
                                 leases := s.yard.leases.filter (fun e => !own Lease.ctx e.2) } }

/-- The reset of a context completes (R321 step 5): nothing of it is left in flight. -/
def resetDoneOp (ctx : Nat) (s : State) : State :=
  let x := s.ctx ctx
  if x.state ≠ .resetting ∨ s.trc.dump.busy ∨ s.cmdList.any (fun e => e.2.ctx == ctx)
      ∨ s.cmds.wagons.any (fun w => w.ctx == ctx && !w.timedOut) then s
  else
    let s1 := ((s.abandonSigs ctx).unbindCtx ctx).freeYard ctx
    let stop (v : Sq) : Sq := { v with head := v.tail, recs := [], fault := false, dead := [] }
    let x := s1.ctx ctx
    s1.enterCtx ctx { x with
      state := .off, seed := 0, step := 0, wdogFrom := none
      sq0 := stop x.sq0, sq1 := stop x.sq1, sq2 := stop x.sq2, sq3 := stop x.sq3 }

/-! ## ENABLE, PREEMPT, RESTORE, RESET (R291) -/

/-- An OP that the table does not allow from the current state. -/
def State.badOp (s : State) (mst : Master) (ctx : Nat) : State := s.logCtx mst ctx 0x08

/-- The virtual time of a context that becomes ON: the lowest of the ON contexts (R302). -/
def State.joinVtime (s : State) (x : Ctx) : Nat :=
  match (s.ctxs.filter (fun e => decide (e.2.state = .on))).map (fun e => e.2.vtime) with
  | [] => x.vtime
  | v :: t => t.foldl min v

/-- ENABLE (R291, R302, R467). -/
def enableOp (mst : Master) (ctx : Nat) (s : State) : State :=
  let x := s.ctx ctx
  if x.state ≠ .off ∨ s.pwr.warming then s.badOp mst ctx
  else
    let s1 := (List.range 6).foldl (fun (s : State) i => { s with cnt := Tab.set 0 s.cnt (cntCtx ctx i) 0 }) s
    s1.enterCtx ctx { x with state := .on, fault := false, vtime := s.joinVtime x }

/-- The bytes that a save area must hold at least, and whether it lies in the partition (R319, R320). -/
def State.saveAreaBad (s : State) (ctx : Nat) : Option Byte :=
  let x := s.ctx ctx
  let n := s.saveBudget ctx
  if s.saveBudget ctx < s.saveBase ctx then some stResource
  else if (List.range (ceilDiv n 65536)).any (fun i =>
      match s.acc ctx (x.saveAddr * 65536 + 65536 * i) true with
      | .plain (.hbm _) => false
      | _ => true) then some stXlate
  else none

/-- The conversion of ALT is under way: it holds no reservation, and goes on (R250, R318; log 18). -/
def Cmd.converting (c : Cmd) : Bool := c.dual.any (fun d => d.phase == .branch && d.branchAlt)

/-- A command that has not started releases its reservation; a load phase is cancelled (R318). -/
def State.standDown (s : State) (slot : Nat) : State :=
  match s.cmd? slot with
  | none => s
  | some c =>
    if c.started ∨ isError c.st ∨ c.converting then s
    else
      (s.cancel slot).modCmd slot (fun c => { c with
        resv := { Resv.none with pins := c.resv.pins }
        dual := c.dual.map (fun d => { d with loadDone := false, got := [] }) })

/-- PREEMPT (R318, R320). -/
def preemptOp (mst : Master) (ctx : Nat) (s : State) : State :=
  let x := s.ctx ctx
  if x.state ≠ .on then s.badOp mst ctx
  else
    match s.saveAreaBad ctx with
    | some st => (s.logErr { status := st, unit := uSeq, ctx := ctx, host := s.ctxHostCode ctx, addr := x.saveAddr * 65536
                             }).beginReset ctx false
    | none =>
      let s1 := (s.enterCtx ctx { x with state := .preempting, preemptBy := s.stallDue }).bump (cntCtx ctx 4) 1
      ((s1.inOrder ctx).map (·.1)).foldl (fun s k => s.standDown k) s1

/-- A command may be saved: it has not started, or it has yielded (R318). -/
def Cmd.savable (c : Cmd) : Bool := c.yielded || (!c.started && !isError c.st)

/-- A command as its record holds it (R319): its wait on signals or a lease has used up its time so far; the phases before the main one use none of it. -/
def Cmd.toRecord (c : Cmd) (now : Dword) : Cmd :=
  let ran := if !c.beforeMain ∧ (c.phase = .admitted ∨ c.leaseAt.isSome) then (now - c.waitAt).toNat else 0
  let upd := if c.op = 0x0A ∧ c.leaseAt.isSome then ran / 1000 else 0
  { c with resv := Resv.none, waitLeft := c.waitLeft - ran, leaseAt := none, tiles := [], outQ := []
           acc := { c.acc with oc := addOc .ydWaitUs upd c.acc.oc } }

/-- Bytes of the saved state (R319): the fixed part, the command records, the partial regions of yielded commands. -/
def State.saveLen (s : State) (ctx : Nat) : Nat :=
  (s.inOrder ctx).foldl (fun a e => if e.2.started then a + partsBytes (s.partsOf e.2) else a) (s.saveBase ctx)

/-- The location of 64 KiB block i of a context's save area (R320). -/
def State.saveAt (s : State) (ctx i : Nat) : Option Nat :=
  match s.acc ctx ((s.ctx ctx).saveAddr * 65536 + 65536 * i) true with
  | .plain (.hbm pa) => some pa
  | _ => none

/-- The saved state is written to the save area (R319). Its layout is not given: the bytes are free values (log 16), fresh
at every save. -/
def State.writeSave (s : State) (ctx : Nat) : State :=
  let n := s.saveLen ctx
  let id := s.cmds.nextId
  let put (m : Memories) (i : Nat) : Memories :=
    match s.saveAt ctx i with
    | some pa => m.write (.hbm pa) ((upFrom (65536 * i) (min 65536 (n - 65536 * i))).map (Config.saveByte id))
    | none => m
  { s with mem := (List.range (ceilDiv n 65536)).foldl put s.mem, cmds := { s.cmds with nextId := id + 1 } }

/-- CTX_SAVE_DONE (R319, R337). -/
def saveDoneOp (ctx : Nat) (s : State) : State :=
  let x := s.ctx ctx
  let cs := (s.inOrder ctx).filter (fun e => decide (e.1 < 4096))
  if x.state ≠ .preempting ∨ s.trc.dump.busy ∨ !cs.all (fun e => e.2.savable)
      ∨ s.cmds.wagons.any (fun w => w.ctx == ctx && !w.timedOut) then s
  else
    let ns := s.ownedSigs ctx
    let parts := cs.flatMap (fun e => if e.2.started then (s.partsOf e.2).map (fun p =>
      (p.1, p.2.1, s.mem.read (.plat p.1 p.2.1) p.2.2)) else [])
    let saved : Saved := ⟨cs.map (fun e => e.2.toRecord s.time.cmdClk), ns.map (fun n => (n, (s.sigOf n).cls)), parts⟩
    let s1 := cs.foldl (fun s e => (((s.dropWaiter e.1 e.2).setCmd e.1 none).orphan e.1).renameProg e.2 e.1 (savedMark e.2.order))
      (s.writeSave ctx)
    let s2 := ns.foldl (fun s n => s.setSig n { s.sigOf n with ownerSaved := true }) s1
    s2.enterCtx ctx { x with state := .saved, saved := some saved, wdogFrom := none }

/-- RESTORE (R320, R338). -/
def restoreOp (mst : Master) (ctx : Nat) (s : State) : State :=
  let x := s.ctx ctx
  if x.state ≠ .saved then s.badOp mst ctx
  else
    let sigs := (x.saved.map (·.sigs)).getD []
    match sigs.find? (fun p => !((s.sigOf p.1).state == .live && (s.sigOf p.1).owner == ctx && (s.sigOf p.1).cls == p.2)) with
    | some p => (s.logErr { status := stRange, unit := uSig, ctx := ctx, host := s.ctxHostCode ctx, index := p.1 }).beginReset ctx false
    | none => s.enterCtx ctx { x with state := .restoring }

/-- The wait timers of a context's commands go on, with the time that was left (R329). -/
def State.resumeWaits (s : State) (ctx : Nat) : State :=
  (s.admitted ctx).foldl (fun s e => s.modCmd e.1 (fun c => if c.started then c else { c with waitAt := s.time.cmdClk })) s

/-- CTX_RESTORE_DONE (R291, R302, R329, R337): every saved command has been re-admitted. -/
def restoreDoneOp (ctx : Nat) (s : State) : State :=
  let x := s.ctx ctx
  if x.state ≠ .restoring ∨ s.trc.dump.busy ∨ ((x.saved.map (·.cmds)).getD []) ≠ [] then s
  else
    let s1 := (s.ownedSigs ctx).foldl (fun s n => s.setSig n { s.sigOf n with ownerSaved := false }) s
    let s2 := s1.resumeWaits ctx
    s2.enterCtx ctx { x with state := .on, saved := none, vtime := s.joinVtime x
                             wdogFrom := if (s.admitted ctx).isEmpty then none else some s.time.cmdClk }

/-- RESET (R291, R321), logged (R462). -/
def resetOp (mst : Master) (ctx : Nat) (s : State) : State :=
  let x := s.ctx ctx
  if x.state = .off ∨ x.state = .resetting then s.badOp mst ctx
  else (s.logErr { status := stOk, unit := uSeq, ctx := ctx, host := s.ctxHostCode ctx, master := mst.code }).beginReset ctx false

/-! ## The watchdog (R317, R480) -/

/-- The watchdog of a context resets it, after the dump of AUTO_WDOG where that is set. -/
def ctxWatchdogOp (ctx : Nat) (s : State) : State :=
  let x := s.ctx ctx
  match x.wdogFrom, (s.inOrder ctx).filter (fun e => decide (e.1 < 4096)) with
  | some t, e :: _ =>
    if (x.state = .on ∨ x.state = .preempting) ∧ !s.trc.dump.busy ∧ t.toNat + x.wdogS * 1000000000 ≤ s.time.cmdClk.toNat then
      let s1 := s.logErr { status := stTimeout, unit := uSeq, ctx := ctx, host := s.ctxHostCode ctx, where_ := e.2.queue
                           index := e.2.seq.toNat % 65536, detail := 0x06 }
      if s1.trc.dump.autoWdog then s1.startDump (BitVec.ofNat 32 (1 + putAt ctx 16)) (some ctx) else s1.beginReset ctx true
    else s
  | _, _ => s

/-! ## Registers of a context -/

/-- SEED or STEP may be set only while no command of the context is unretired (R194). -/
def State.seedFree (s : State) (ctx : Nat) : Bool := (s.allCmds.filter (fun c => c.ctx == ctx)).isEmpty

def seedWrite (mst : Master) (ctx : Nat) (v : Dword) (s : State) : State :=
  if s.seedFree ctx then s.modCtx ctx (fun x => { x with seed := v }) else s.logCtx mst ctx 0x10

def stepWrite (mst : Master) (ctx : Nat) (v : Dword) (s : State) : State :=
  if s.seedFree ctx then s.modCtx ctx (fun x => { x with step := v }) else s.logCtx mst ctx 0x18

/-- CTX_PROF (R293): a CMD_LIMIT above 4,096 leaves CMD_LIMIT unchanged, and is logged. -/
def profWrite (mst : Master) (ctx : Nat) (v : Word) (s : State) : State :=
  let lim := field v.toNat 31 16
  if (s.ctx ctx).state ≠ .off then s.logCtx mst ctx 0x98
  else
    let s1 := s.modCtx ctx (fun x => { x with dlStrict := bitAt v.toNat 0, detOrder := bitAt v.toNat 1, noZspec := bitAt v.toNat 2
                                              noEarly := bitAt v.toNat 3, cmdLimit := if 4096 < lim then x.cmdLimit else lim })
    if 4096 < lim then s1.logCtx mst ctx 0x98 else s1

/-- QUOTA_CMDS and QUOTA_PLAT of a write to CTX_SHARE: read-only in a host view; in the management view locked once the
configuration load has completed, and whether a locked field would change. -/
def quotaWrite (mst : Master) (ctx : Nat) (v : Dword) (s : State) : State × Bool :=
  let q := (field v.toNat 44 32, field v.toNat 63 48)
  if mst.host?.isSome then (s, true)
  else if s.cfg.cfgDone then (s, q == Tab.get (0, 0) s.cfg.quota ctx)
  else if q.1 ≤ 4096 then ({ s with cfg := { s.cfg with quota := Tab.set (0, 0) s.cfg.quota ctx q } }, true)
  else (s, false)

/-- CTX_SHARE (R304): a field out of its range is left unchanged, and the write is logged. -/
def shareWrite (mst : Master) (ctx : Nat) (v : Dword) (s : State) : State :=
  let w := field v.toNat 7 0
  let a := field v.toNat 23 8
  let d := field v.toNat 29 24
  let wOk := w != 0
  let aOk := decide (1 ≤ a) && decide (a ≤ 1000)
  let dOk := decide (10 ≤ d) && decide (d ≤ 60)
  let q := quotaWrite mst ctx v s
  let s1 := q.1.modCtx ctx (fun x => { x with weight := if wOk then w else x.weight, admitMs := if aOk then a else x.admitMs
                                              wdogS := if dOk then d else x.wdogS })
  if wOk && aOk && dOk && q.2 then s1 else s1.logCtx mst ctx 0x28

/-- A count moves forward, or stays (R294, R465). -/
def countOn (old new : Word) : Bool := new == old || serialAfter 32 old.toNat new.toNat

/-- CTX_SQ_TAILq (R294, R295): a queue not in use holds no record. -/
def tailWrite (mst : Master) (ctx q : Nat) (v : Word) (s : State) : State :=
  let u := (s.ctx ctx).sq q
  let size := if u.log2n = 0 then 0 else 2 ^ u.log2n
  if countOn u.tail v ∧ (v - u.head).toNat ≤ size then s.modCtx ctx (fun x => x.setSq q { u with tail := v, fault := false })
  else s.logCtx mst ctx (0x48 + 0x10 * q)

/-- CTX_CQ_HEAD (R294, R312): waiting records are written again. -/
def cqHeadWrite (mst : Master) (ctx : Nat) (v : Word) (s : State) : State :=
  let q := (s.ctx ctx).cq
  if countOn q.head v ∧ (q.tail == v || serialAfter 32 v.toNat q.tail.toNat) then
    State.cqFlush ctx q.waiting.length (s.modCtx ctx (fun x => { x with cq := { x.cq with head := v } }))
  else s.logCtx mst ctx 0x88

/-- CTX_ABORT during a dump's freeze: BUSY until RESUME. -/
def abortHeld (mst : Master) (ctx q : Nat) (seq : Word) (s : State) : State :=
  if s.trc.dump.busy ∧ !(s.ctx ctx).abortBusy then
    (s.holdBack (.abort mst ctx q seq)).modCtx ctx (fun x => { x with abortBusy := true })
  else s.abortWrite mst ctx q seq

/-! ## Rows -/

/-- ENABLE. -/
def execEnable (mst : Master) (ctx : Nat) (s : State) : Host.Outcome State Fault Refusal :=
  regRow (.enable mst ctx) mst s (ctxWrite mst ctx 0x08 (enableOp mst ctx))
/-- PREEMPT. -/
def execPreempt (mst : Master) (ctx : Nat) (s : State) : Host.Outcome State Fault Refusal :=
  regRow (.preempt mst ctx) mst s (ctxWrite mst ctx 0x08 (heldByDump (.preempt mst ctx) (preemptOp mst ctx)))
/-- CTX_SAVE_DONE. -/
def execCtxSaveDone (ctx : Nat) (s : State) : Host.Outcome State Fault Refusal := .next (saveDoneOp ctx s)
/-- RESTORE. -/
def execRestore (mst : Master) (ctx : Nat) (s : State) : Host.Outcome State Fault Refusal :=
  regRow (.restore mst ctx) mst s (ctxWrite mst ctx 0x08 (heldByDump (.restore mst ctx) (restoreOp mst ctx)))
/-- CTX_RESTORE_DONE. -/
def execCtxRestoreDone (ctx : Nat) (s : State) : Host.Outcome State Fault Refusal := .next (restoreDoneOp ctx s)
/-- RESET. -/
def execReset (mst : Master) (ctx : Nat) (s : State) : Host.Outcome State Fault Refusal :=
  regRow (.reset mst ctx) mst s (ctxWrite mst ctx 0x08 (heldByDump (.reset mst ctx) (resetOp mst ctx)))
/-- CTX_SEED_WRITE. -/
def execCtxSeedWrite (mst : Master) (ctx : Nat) (v : Dword) (s : State) : Host.Outcome State Fault Refusal :=
  regRow (.ctxSeedWrite mst ctx v) mst s (ctxWrite mst ctx 0x10 (seedWrite mst ctx v))
/-- CTX_STEP_WRITE. -/
def execCtxStepWrite (mst : Master) (ctx : Nat) (v : Dword) (s : State) : Host.Outcome State Fault Refusal :=
  regRow (.ctxStepWrite mst ctx v) mst s (ctxWrite mst ctx 0x18 (stepWrite mst ctx v))
/-- CTX_PROF_WRITE. -/
def execCtxProfWrite (mst : Master) (ctx : Nat) (v : Word) (s : State) : Host.Outcome State Fault Refusal :=
  regRow (.ctxProfWrite mst ctx v) mst s (ctxWrite mst ctx 0x98 (profWrite mst ctx v))
/-- CTX_SHARE_WRITE. -/
def execCtxShareWrite (mst : Master) (ctx : Nat) (v : Dword) (s : State) : Host.Outcome State Fault Refusal :=
  regRow (.ctxShareWrite mst ctx v) mst s (ctxWrite mst ctx 0x28 (shareWrite mst ctx v))
/-- SQ_DOORBELL. -/
def execSqDoorbell (mst : Master) (ctx queue : Nat) (tail : Word) (s : State) : Host.Outcome State Fault Refusal :=
  regRow (.sqDoorbell mst ctx queue tail) mst s (ctxWrite mst ctx (0x48 + 0x10 * queue) (tailWrite mst ctx queue tail))
/-- CQ_HEAD_WRITE. -/
def execCqHeadWrite (mst : Master) (ctx : Nat) (head : Word) (s : State) : Host.Outcome State Fault Refusal :=
  regRow (.cqHeadWrite mst ctx head) mst s (ctxWrite mst ctx 0x88 (cqHeadWrite mst ctx head))
/-- ABORT. -/
def execAbort (mst : Master) (ctx queue : Nat) (seq : Word) (s : State) : Host.Outcome State Fault Refusal :=
  regRow (.abort mst ctx queue seq) mst s (ctxWrite mst ctx 0x30 (abortHeld mst ctx queue seq))
/-- CTX_WATCHDOG. -/
def execCtxWatchdog (ctx : Nat) (s : State) : Host.Outcome State Fault Refusal := .next (ctxWatchdogOp ctx s)

end Sys2Proof.Machine
end

