-- ==== Sys2Proof/Machine/Invalidate.lean ====
section
/-!
DEFINITION. Invalidation of translations (R229): MEM_XLT_INVAL and its completion. The model holds no Depot cache line apart from memory;
the translations that it holds are those of requests that have not left, of wagons, and of tiles fetched ahead.
-/
namespace Sys2Proof.Machine

/-- The context that a master has selected in MEM_XLT_CTX. -/
def State.xltSel (s : State) (mst : Master) : Nat := Tab.get 0 s.xlt.sel mst.code

def State.xltInval (s : State) (mst : Master) : Option Inval := Tab.get none s.xlt.inval mst.code

def State.setInval (s : State) (mst : Master) (i : Option Inval) : State :=
  { s with xlt := { s.xlt with inval := Tab.set none s.xlt.inval mst.code i } }

/-- A request that has not left holds a translation of the range. -/
def Inval.holds (i : Inval) (ctx : Nat) (r : WagonReq) : Bool :=
  let p := r.va / 65536
  ctx == i.ctx && (i.all || r.va == 0 || (decide (i.vpn ≤ p) && decide (p < i.vpn + i.pages)))

/-- The requests that wait under a translation of the range are marked: the invalidation waits for their wagons too (R229). -/
def State.markOld (s : State) (i : Inval) : State :=
  s.cmdList.foldl (fun s e => s.modCmd e.1 (fun c => { c with outQ := c.outQ.map (fun r => if i.holds c.ctx r then { r with old := true } else r) })) s

/-- A write of MEM_XLT_INVAL. -/
def invalWrite (mst : Master) (v : Dword) (s : State) : State :=
  let x := v.toNat
  let c := s.xltSel mst
  if !s.mayCtx mst c ∨ (s.xltInval mst).isSome then s.logReg mst 0x800010
  else
    let i : Inval := ⟨c, bitAt x 16, field x 52 17, field x 15 0 + 1, s.cmds.nextId⟩
    (s.markOld i).setInval mst (some i)

/-- A wagon was issued under a translation of the range, before the invalidation, or waited then for its issue. A wagon that records no address
counts always. -/
def Inval.covers (i : Inval) (w : Wagon) : Bool :=
  let p := w.req.va / 65536
  w.ctx == i.ctx && (decide (w.id < i.upTo) || w.req.old)
    && (i.all || w.req.va == 0 || (decide (i.vpn ≤ p) && decide (p < i.vpn + i.pages)))

/-- The tiles that a context has fetched ahead are given up: fetched again when they are demanded, under the new translation. -/
def State.dropAhead (s : State) (ctx : Nat) : State :=
  s.cmdList.foldl (fun s e =>
    if e.2.ctx = ctx then s.modCmd e.1 (fun c => { c with tiles := c.tiles.map (fun t => if t.use = .ahead then t.dropped else t) }) else s) s

/-- XLT_INVAL_COMPLETE: every such wagon has been acknowledged, and no unit holds a translation of the range. -/
def invalDone (mst : Master) (s : State) : State :=
  match s.xltInval mst with
  | none => s
  | some i =>
    if s.cmds.wagons.any i.covers ∨ s.waiting.any (fun x => i.holds x.2.1.ctx x.2.2) then s
    else (s.dropAhead i.ctx).setInval mst none

/-- XLT_INVAL. -/
def execXltInval (mst : Master) (v : Dword) (s : State) : Host.Outcome State Fault Refusal := regRow (.xltInval mst v) mst s (invalWrite mst v)
/-- XLT_INVAL_COMPLETE. -/
def execXltInvalComplete (mst : Master) (s : State) : Host.Outcome State Fault Refusal := .next (invalDone mst s)

end Sys2Proof.Machine
end

