-- ==== Sys2Proof/Machine/Mailbox.lean ====
section
/-!
DEFINITION. The rows of SIG_OP and SIG_ADD (R333), and the mailboxes (R415–R421).
-/
namespace Sys2Proof.Machine

/-! ## SIG_OP -/

/-- A write to SIG_OP: refused while the master's last operation is in progress; a dump's freeze keeps the operation in
progress until RESUME (R480). -/
def sigOpRow (mst : Master) (i : Instr) (f : State → State) (s : State) : State :=
  let r := s.sigRegs mst
  if r.busy then s.logReg mst 0x300010
  else if s.trc.dump.busy then (s.holdBack i).setSigRegs mst { r with busy := true }
  else f s

/-- A write of SIG_OP by its fields; a reserved OP gives FORMAT. -/
def sigOpWrite (mst : Master) (v : Dword) (s : State) : State :=
  let x := v.toNat
  let val : Word := BitVec.ofNat 32 (field x 63 32)
  match field x 3 0 with
  | 1 => sigOpRow mst (.sigBind mst (field x 7 7) (field x 19 8) val) (sigBindOp mst (field x 7 7) (field x 19 8) val) s
  | 2 => sigOpRow mst (.sigUnbind mst) (sigUnbindOp mst) s
  | 3 => sigOpRow mst (.sigPost mst (field x 6 4) val) (sigPostOp mst (field x 6 4) val) s
  | 4 => sigOpRow mst (.clrsat mst) (clrsatOp mst) s
  | _ => if (s.sigRegs mst).busy then s.logReg mst 0x300010 else s.sigDone mst stFormat

/-- A write of SIG_ADDn. -/
def sigAddWrite (mst : Master) (n : Nat) (v : Word) (s : State) : State :=
  heldByDump (.sigAdd mst n v) (sigAddOp mst n v) s

/-! ## Mailbox channels -/

def State.mbxBind (s : State) (ch : Nat) : MbxBind := Tab.get MbxBind.zero s.cfg.mbxBind ch
def State.chan (s : State) (ch : Nat) : Chan := Tab.get Chan.reset s.mbx.chans ch
def State.setChan (s : State) (ch : Nat) (c : Chan) : State :=
  { s with mbx := { s.mbx with chans := Tab.set Chan.reset s.mbx.chans ch c } }

/-- The side of a channel that a master accesses it as: `some false` for A, `some true` for B. A sequencer bound to a channel never
accesses its registers (R417). -/
def MbxBind.side (b : MbxBind) (code : Nat) : Option Bool :=
  if !b.en || code == 0x9 || code == 0xA then none
  else if b.sideA = code then some false
  else if b.sideB = code then some true
  else none

/-- The identity of a side. -/
def MbxBind.who (b : MbxBind) (side : Bool) : Nat := if side then b.sideB else b.sideA

/-- The half of the doorbells that a side receives: B [15:0], A [31:16]. -/
def recvHalf (side : Bool) : Word := if side then 0x0000FFFF else 0xFFFF0000

/-- PEND of a side (R420). -/
def Chan.pend (c : Chan) (side : Bool) : Word := c.db &&& ~~~ c.mask &&& recvHalf side

/-- The offset of a channel register. -/
def chanOff (ch r : Nat) : Nat := 0x200000 + 0x200 * ch + r

/-- A channel bound to a sequencer posts a signal (R420). -/
def MbxBind.posts (b : MbxBind) : Bool := b.en && (b.sideA == 0x9 || b.sideA == 0xA || b.sideB == 0x9 || b.sideB == 0xA)

/-- The signal post of a mailbox event; one that cannot be made is discarded and logged, where `hostPost` has not logged it. -/
def State.mbxPost (s : State) (mst : Master) (n : Nat) : State :=
  let r := s.hostPost mst n 1 1
  if r.2 = stOk ∨ r.2 = stAbandoned ∨ r.2 = stSigUnderflow then r.1
  else r.1.logErr { status := r.2, unit := uSig, host := mst.hostCode, master := mst.code, index := n }

/-- Deliver an event to a side whose PEND has become non-zero (R420). -/
def State.mbxEvent (s : State) (mst : Master) (b : MbxBind) (side : Bool) : State :=
  match b.who side with
  | 0x8 => { s with mbx := { s.mbx with mIrq := s.mbx.mIrq + 1 } }
  | 0x9 => s.mbxPost mst b.sig
  | 0xA => s.mbxPost mst b.sig
  | k => if 1 ≤ k ∧ k ≤ 4 ∧ (s.hostFn (k - 1)).present then s.msix (k - 1) 1 else s

/-- Change a channel, and deliver the events that the change causes. -/
def State.changeChan (s : State) (mst : Master) (ch : Nat) (c : Chan) : State :=
  let o := s.chan ch
  let b := s.mbxBind ch
  let ev (s : State) (side : Bool) : State := if o.pend side = 0 ∧ c.pend side ≠ 0 then s.mbxEvent mst b side else s
  ev (ev (s.setChan ch c) false) true

/-- A write to a channel by one of its two masters; any other has no effect and is logged (R417). -/
def mbxWrite (mst : Master) (ch r : Nat) (f : Bool → State → State) (s : State) : State :=
  match (s.mbxBind ch).side mst.code with
  | some side => f side s
  | none => s.logReg mst (chanOff ch r)

/-- A read of MBX_LOCK: the value and the state after it (R417, R418). -/
def mbxLockRd (mst : Master) (ch : Nat) (s : State) : State × Word :=
  let c := s.chan ch
  let b := s.mbxBind ch
  match b.side mst.code with
  | some _ =>
    if c.owner = 0 then (s.setChan ch { c with owner := mst.code }, 0) else (s, BitVec.ofNat 32 c.owner)
  | none => (s, BitVec.ofNat 32 (2 ^ 31 + (if mst.code = 0xF then c.owner else 0)))

/-- A write of MBX_LOCK (R418). -/
def mbxLockWr (mst : Master) (ch : Nat) (s : State) : State :=
  let c := s.chan ch
  if mst.code = 0x8 ∨ (c.owner = mst.code ∧ ((s.mbxBind ch).side mst.code).isSome) then s.setChan ch { c with owner := 0 }
  else s.logReg mst (chanOff ch 0)

/-- A write of MBX_DBSET (R419). -/
def mbxDbsetWr (mst : Master) (ch : Nat) (v : Word) (s : State) : State :=
  mbxWrite mst ch 0x0C (fun side s =>
    let ring := recvHalf (!side)
    let c := s.chan ch
    let s1 := s.changeChan mst ch { c with db := c.db ||| (v &&& ring) }
    if v &&& ~~~ ring ≠ 0 then s1.logReg mst (chanOff ch 0x0C) else s1) s

/-- A write of MBX_DBCLR (R419). -/
def mbxDbclrWr (mst : Master) (ch : Nat) (v : Word) (s : State) : State :=
  mbxWrite mst ch 0x10 (fun side s =>
    let c := s.chan ch
    s.changeChan mst ch { c with db := c.db &&& ~~~ (v &&& recvHalf side) }) s

/-- A write of MBX_MASK (R419). -/
def mbxMaskWr (mst : Master) (ch : Nat) (v : Word) (s : State) : State :=
  mbxWrite mst ch 0x14 (fun side s =>
    let c := s.chan ch
    let h := recvHalf side
    s.changeChan mst ch { c with mask := (c.mask &&& ~~~ h) ||| (v &&& h) }) s

/-- A write of message word w (R417). -/
def mbxMsgWr (mst : Master) (ch w : Nat) (v : Word) (s : State) : State :=
  mbxWrite mst ch (0x100 + 4 * w) (fun _ s =>
    let c := s.chan ch
    s.setChan ch { c with msg := Tab.set 0 c.msg w v }) s

/-- A change of a channel that may post a signal waits for the end of a dump's freeze (R480). -/
def mbxHeld (ch : Nat) (i : Instr) (f : State → State) (s : State) : State :=
  if (s.mbxBind ch).posts then heldByDump i f s else f s

/-- A master may see a channel: bound, or the debug port (R417). -/
def State.maySeeChan (s : State) (mst : Master) (ch : Nat) : Bool :=
  mst.code == 0xF || ((s.mbxBind ch).side mst.code).isSome

/-- MBX_PEND of a master. -/
def State.mbxPendOf (s : State) (mst : Master) : Nat :=
  (List.range 64).foldl (fun a n => a + flagAt (match (s.mbxBind n).side mst.code with
    | some side => (s.chan n).pend side != 0
    | none => false) n) 0

/-- Release every lock of a master identity (R413, R421). -/
def State.releaseLocks (s : State) (code : Nat) : State :=
  (List.range 64).foldl (fun s n => if (s.chan n).owner = code then s.setChan n { s.chan n with owner := 0 } else s) s

/-! ## Rows -/

/-- The data that a register read returns. -/
def State.answer (s : State) (v : Nat) : State := { s with bus := { s.bus with resp := BitVec.ofNat 64 v } }

/-- SIG_BIND. -/
def execSigBind (mst : Master) (cls ctx : Nat) (v : Word) (s : State) : Host.Outcome State Fault Refusal :=
  regRow (.sigBind mst cls ctx v) mst s (sigOpRow mst (.sigBind mst cls ctx v) (sigBindOp mst cls ctx v))
/-- SIG_UNBIND. -/
def execSigUnbind (mst : Master) (s : State) : Host.Outcome State Fault Refusal :=
  regRow (.sigUnbind mst) mst s (sigOpRow mst (.sigUnbind mst) (sigUnbindOp mst))
/-- SIG_POST. -/
def execSigPost (mst : Master) (pop : Nat) (v : Word) (s : State) : Host.Outcome State Fault Refusal :=
  regRow (.sigPost mst pop v) mst s (sigOpRow mst (.sigPost mst pop v) (sigPostOp mst pop v))
/-- CLRSAT. -/
def execClrsat (mst : Master) (s : State) : Host.Outcome State Fault Refusal := regRow (.clrsat mst) mst s (sigOpRow mst (.clrsat mst) (clrsatOp mst))
/-- SIG_ADD. -/
def execSigAdd (mst : Master) (n : Nat) (v : Word) (s : State) : Host.Outcome State Fault Refusal := regRow (.sigAdd mst n v) mst s (sigAddWrite mst n v)
/-- MBX_LOCK_READ; while the registers are not open to the master, the read returns zero (R403). -/
def execMbxLockRead (mst : Master) (ch : Nat) (s : State) : Host.Outcome State Fault Refusal :=
  .next (if s.regOpen mst && s.mustHold mst (.mbxLockRead mst ch) then s.wait (.access mst (.mbxLockRead mst ch))
    else if s.regOpen mst then
      let r := mbxLockRd mst ch (s.clearBus mst)
      r.1.answer r.2.toNat
    else (s.clearBus mst).answer 0)
/-- MBX_LOCK_WRITE. -/
def execMbxLockWrite (mst : Master) (ch : Nat) (v : Word) (s : State) : Host.Outcome State Fault Refusal :=
  regRow (.mbxLockWrite mst ch v) mst s (mbxLockWr mst ch)
/-- MBX_DBSET. -/
def execMbxDbset (mst : Master) (ch : Nat) (v : Word) (s : State) : Host.Outcome State Fault Refusal :=
  regRow (.mbxDbset mst ch v) mst s (mbxHeld ch (.mbxDbset mst ch v) (mbxDbsetWr mst ch v))
/-- MBX_DBCLR. -/
def execMbxDbclr (mst : Master) (ch : Nat) (v : Word) (s : State) : Host.Outcome State Fault Refusal := regRow (.mbxDbclr mst ch v) mst s (mbxDbclrWr mst ch v)
/-- MBX_MASK. -/
def execMbxMask (mst : Master) (ch : Nat) (v : Word) (s : State) : Host.Outcome State Fault Refusal :=
  regRow (.mbxMask mst ch v) mst s (mbxHeld ch (.mbxMask mst ch v) (mbxMaskWr mst ch v))

end Sys2Proof.Machine
end

