-- ==== Sys2Proof/Machine/Wagons.lean ====
section
/-!
DEFINITION. Wagons at their targets and back (R209–R212, R235, R236, R261–R264, R267, R270): serving and applying them,
arrival, acknowledgement, the completion timeout, and patrol scrub.
-/
namespace Sys2Proof.Machine

/-! ## Codes (R235, R236) -/

/-- The worse of two findings. -/
def worseEcc (a b : EccEvent) : EccEvent :=
  match a, b with
  | .uncorrectable, _ => .uncorrectable
  | _, .uncorrectable => .uncorrectable
  | .correctable, _ => .correctable
  | _, x => x

def State.setEcc (s : State) (l : Loc) (e : EccEvent) : State := { s with mem := s.mem.setEcc l e }

def State.eccHistOf (s : State) (pa : Nat) : EccHist := Tab.get EccHist.zero s.mem.eccHist (hbmLine pa)

def State.setHist (s : State) (pa : Nat) (h : EccHist) : State :=
  { s with mem := { s.mem with eccHist := Tab.set EccHist.zero s.mem.eccHist (hbmLine pa) h } }

/-- A correctable error is counted, corrected in memory, and logged at most once per line per second. -/
def State.corrected (s : State) (pa : Nat) : State :=
  let s1 := (s.bump (cntStack (s.stackOf pa) 8) 1).setEcc (.hbm pa) .clean
  let h := s1.eccHistOf pa
  let recent := match h.logged with
    | some t => decide (s.time.clk.toNat < t.toNat + 1000000000)
    | none => false
  if recent then s1 else (s1.logNew (s.lineArg stOk pa)).1.setHist pa { h with logged := some s.time.clk }

/-- A read of an HBM line meets what its codes find now, or found before: the state and the finding. -/
def State.readCodes (s : State) (pa : Nat) (ev : EccEvent) : State × EccEvent :=
  let e := worseEcc ev (s.mem.eccAt (.hbm pa))
  match e with
  | .clean => (s, e)
  | .correctable => (s.corrected pa, e)
  | .uncorrectable => ((s.bump (cntStack (s.stackOf pa) 9) 1).setEcc (.hbm pa) .uncorrectable, e)

/-- A correctable error of a Depot line: corrected in the reply and in memory, logged at most once per line per second (R235). Its 64-byte
line stands in the table of HBM lines under a number of its own. -/
def State.depotCorrected (s : State) (off : Nat) : State :=
  let key := depotKey off
  let h := Tab.get EccHist.zero s.mem.eccHist key
  let recent := match h.logged with
    | some t => decide (s.time.clk.toNat < t.toNat + 1000000000)
    | none => false
  if recent then s
  else
    let s1 := (s.logNew { status := stOk, unit := uDepot, addr := off / 64 * 64 }).1
    { s1 with mem := { s1.mem with eccHist := Tab.set EccHist.zero s1.mem.eccHist key { h with logged := some s.time.clk } } }

/-- What a read of the line of a location finds: the state and the finding (R235, R407). -/
def State.readLine (s : State) (l : Loc) (ev : EccEvent) : State × EccEvent :=
  match l with
  | .hbm pa => s.readCodes pa ev
  | .depot o =>
    let e := worseEcc ev (s.mem.eccAt l)
    match e with
    | .clean => (s, e)
    | .correctable => (s.depotCorrected o, e)
    | .uncorrectable => (s.setEcc l .uncorrectable, e)
  | .host _ _ => (s, ev)
  | _ => (s, .clean)

/-! ## Wagons by number -/

def State.wagon? (s : State) (w : Nat) : Option Wagon := s.cmds.wagons.find? (fun x => x.id == w)

def State.modWagon (s : State) (w : Nat) (f : Wagon → Wagon) : State :=
  { s with cmds := { s.cmds with wagons := s.cmds.wagons.map (fun (x : Wagon) => if x.id = w then f x else x) } }

def State.dropWagon (s : State) (w : Nat) : State :=
  { s with cmds := { s.cmds with wagons := s.cmds.wagons.filter (fun (x : Wagon) => x.id != w) } }

/-- The wagon goes to a target on this device or in host memory, not to a peer. -/
def Wagon.isLocal (w : Wagon) : Bool :=
  match w.req.line with
  | .peer _ _ => false
  | _ => true

/-- An earlier write of the same stream to the same line has not been applied (R261). -/
def State.behind (s : State) (w : Wagon) : Bool :=
  s.cmds.wagons.any (fun x => decide (x.id < w.id) && !x.served && x.req.kind != .read && x.req.line == w.req.line
    && x.req.slot == w.req.slot && x.req.stage == w.req.stage && x.req.field == w.req.field)

/-- A counter of the stack that holds an HBM line; other targets have none (R469). -/
def State.bumpStack (s : State) (l : Loc) (i : Nat) : State :=
  match l with
  | .hbm pa => s.bump (cntStack (s.stackOf pa) i) 1
  | _ => s

/-! ## At the target -/

/-- READ_WAGON_SERVE (R210, R235, R407): the line, with what its codes find, or the error that the host answers. -/
def readServeOp (w : Nat) (ev : EccEvent) (s : State) : State :=
  match s.wagon? w with
  | none => s
  | some x =>
    if x.req.kind ≠ .read ∨ x.served ∨ !x.isLocal then s
    else
      let r := s.readLine x.req.line ev
      (r.1.bumpStack x.req.line 1).modWagon w (fun x => { x with
        served := true, data := s.mem.read x.req.line 512, bad := decide (r.2 = EccEvent.uncorrectable) })

/-- WRITE_WAGON_APPLY (R210, R275). -/
def writeApplyOp (w : Nat) (s : State) : State :=
  match s.wagon? w with
  | none => s
  | some x =>
    if x.req.kind ≠ .write ∨ x.served ∨ !x.isLocal ∨ s.behind x then s
    else
      ((s.landLine (some x.req.slot) x.req.line x.req.bytes).bumpStack x.req.line 2).modWagon w
        (fun x => { x with served := true })

/-- The line after the addends of an accumulate-write wagon have joined it (R209). -/
def joinLine (line : List Byte) (adds : List (Nat × Word)) : List (Nat × Byte) :=
  adds.flatMap (fun a =>
    let v := join (BitVec.ofNat 32 (u32At line (4 * a.1))) (v32 a.2)
    (toLe 4 v.toNat).zipIdx.map (fun b => (4 * a.1 + b.2, b.1)))

/-- An accumulate-write wagon failed on its line: the command takes the status, and goes on (R212, R308). -/
def State.accFail (s : State) (x : Wagon) (st detail : Byte) (a : LogArg) : State :=
  (s.logCmd x.req.slot a).modCmd x.req.slot (fun c => if c.ended then c else { (c.mark st detail) with indLine := true })

/-- ACC_WAGON_APPLY (R209, R212). -/
def accApplyOp (w : Nat) (ev : EccEvent) (s : State) : State :=
  match s.wagon? w with
  | none => s
  | some x =>
    match x.req.line with
    | .hbm pa =>
      if x.req.kind ≠ .acc ∨ x.served ∨ s.behind x then s
      else
        let r := s.readCodes pa ev
        let s1 := (r.1.bumpStack x.req.line 3).modWagon w (fun x => { x with served := true })
        if r.2 = .uncorrectable then s1.accFail x stEcc 0 (s.lineArg stEcc pa)
        else s1.landLine (some x.req.slot) x.req.line (joinLine (s.mem.read x.req.line 512) x.req.addend)
    | _ => s

/-! ## Back at the engine -/

/-- Put the data of a line into the tile that asked for it (R267). -/
def Cmd.fillTile (c : Cmd) (x : Wagon) : Cmd :=
  { c with tiles := c.tiles.map (fun (t : Tile) =>
    if t.stage = x.req.stage ∧ t.field = x.req.field ∧ t.idx = x.req.tile then
      { t with lines := t.lines.map (fun l => if l.1 = x.req.line then (l.1, some x.data) else l) }
    else t) }

/-- A tile fetched ahead is whole: its panel stands in the Platform of its core (R266). -/
def State.landTile (s : State) (x : Wagon) : State :=
  match s.cmd? x.req.slot with
  | none => s
  | some c =>
    let ts := c.tiles.filter (fun t => t.stage == x.req.stage && t.field == x.req.field && t.idx == x.req.tile)
    if tileNo x.req.tile < looseTile ∧ ts.all (fun t => t.lines.all (fun e => e.2.isSome)) then
      s.writeParts (s.panelParts c x.req.stage (nth Stage.none c.stages x.req.stage) x.req.field (tileCore x.req.tile) (tileNo x.req.tile))
    else s

/-- Drop the tile of a wagon: it is fetched again only if it is demanded (R264, R270). -/
def State.dropTile (s : State) (x : Wagon) : State :=
  let same (r : WagonReq) : Bool := r.slot == x.req.slot && r.kind == .read && r.stage == x.req.stage
    && r.field == x.req.field && r.tile == x.req.tile
  let s1 := s.modCmd x.req.slot (fun c => { c with
    tiles := c.tiles.map (fun t => if t.stage == x.req.stage && t.field == x.req.field && t.idx == x.req.tile then t.dropped else t)
    outQ := c.outQ.filter (fun r => !same r) })
  { s1 with cmds := { s1.cmds with wagons := s1.cmds.wagons.map (fun (y : Wagon) =>
    if same y.req then { y with discard := true } else y) } }

/-- Keep the data of a line of a dual-path load; the last one completes the load (R250). -/
def State.fillLoad (s : State) (x : Wagon) : State :=
  let s1 := s.modCmd x.req.slot (fun c => { c with dual := c.dual.map (fun d => { d with got := d.got ++ [(x.req.line, x.data)] }) })
  match (s1.cmd? x.req.slot).bind (·.dual) with
  | some d =>
    if d.got.length ≠ d.need then s1
    else if d.phase = .branch then s1.altArrived x.req.slot
    else s1.loadArrived x.req.slot
  | none => s1

/-- A page of a MIGRATE whose read from peer HBM fails has its outcome: 6 for an uncorrectable line, 5 for a refused access (R248; log 112). -/
def State.failMig (s : State) (x : Wagon) (st : Byte) : State :=
  match s.cmd? x.req.slot with
  | some c =>
    if c.op ≠ 8 ∨ x.req.kind ≠ .read ∨ x.req.field ≠ 40 then s
    else if st = stEcc then s.migOutcome x.req.slot c.mig 6
    else if st = stXlate then s.migOutcome x.req.slot c.mig 5
    else s
  | none => s

/-- WAGON_ARRIVE (R267, R235). -/
def arriveOp (w : Nat) (s : State) : State :=
  match s.wagon? w with
  | none => s
  | some x =>
    if x.req.kind ≠ .read ∨ !x.served ∨ x.arrived then s
    else
      let s1 := s.modWagon w (fun x => { x with arrived := true })
      if x.discard ∨ x.timedOut then s1
      else if x.req.field = loadField then
        if x.bad then s1.loadLost x.req.slot (s.wagonCore x.req) (s.placeArg x.req.line x.port stEcc) else s1.fillLoad x
      else if x.bad then
        if x.req.spec then s1.dropTile x
        else (s1.failMig x stEcc).failCmd x.req.slot stEcc 0 x.req.stage (s.placeArg x.req.line x.port stEcc)
      else ((s1.modCmd x.req.slot (fun c => c.fillTile x)).landTile x).progress x.req.slot

/-- WAGON_ACK (R211, R262): the tag returns, and requests that waited for one are issued. -/
def ackOp (w : Nat) (s : State) : State :=
  match s.wagon? w with
  | none => s
  | some x =>
    if !x.served ∨ (x.req.kind = .read ∧ !x.arrived) then s
    else
      let s1 := s.dropWagon w
      let s2 := if x.timedOut then s1 else s1.progress x.req.slot
      (s2.settleDual x.req.slot).pumpCmds

/-- WAGON_TIMEOUT (R264, R212). -/
def wagonTimeoutOp (w : Nat) (s : State) : State :=
  match s.wagon? w with
  | none => s
  | some x =>
    if x.timedOut ∨ s.time.clk.toNat < x.due ∨ s.timerHeld x then s
    else
      let s1 := s.modWagon w (fun x => { x with timedOut := true })
      let a : LogArg := { s.placeArg x.req.line x.port stTimeout with detail := 0x02 }
      let s2 :=
        if x.discard then s1.logErr a
        else if x.req.kind = .acc then s1.accFail x stTimeout 0x02 a
        else if x.req.field = stageField ∨ x.req.field = loadField then s1.failCmd x.req.slot stTimeout 0x02 0 a
        else if x.req.kind = .read ∧ x.req.spec then (s1.logErr a).dropTile x
        else s1.failCmd x.req.slot stTimeout 0x02 x.req.stage a
      s2.settleDual x.req.slot

/-! ## Patrol scrub (R236) -/

/-- The first line at or after `l` of a half that a stack holds. -/
def State.nextLine (s : State) (st : Nat) : Nat → Nat → Option Nat
  | 0, _ => none
  | fuel + 1, l =>
    let pa := st / 4 * 2 ^ 38 + 512 * l
    if s.hbmExists pa ∧ s.stackOf pa = st then some l else s.nextLine st fuel (l + 1)

/-- The line that a stack scrubs next: past the last line of its half the pass begins anew. -/
def State.scrubLine (s : State) (st : Nat) : Option Nat :=
  match s.nextLine st 257 (Tab.get 0 s.mem.scrubPos st) with
  | some l => some l
  | none => s.nextLine st 257 0

/-- PATROL_SCRUB: the next line of a stack is read. -/
def scrubOp (st : Nat) (ev : EccEvent) (s : State) : State :=
  if s.cfg.scrubHours = 0 ∨ !s.inv.stackOk.contains st ∨ 3 ≤ s.pwr.state then s
  else
    match s.scrubLine st with
    | none => s
    | some l =>
      let pa := st / 4 * 2 ^ 38 + 512 * l
      let s1 := { s with mem := { s.mem with scrubPos := Tab.set 0 s.mem.scrubPos st (l + 1) } }
      let r := s1.readCodes pa ev
      match r.2 with
      | .clean => r.1.setHist pa { r.1.eccHistOf pa with runs := 0 }
      | .correctable =>
        let n := (r.1.eccHistOf pa).runs + 1
        let s2 := r.1.setHist pa { r.1.eccHistOf pa with runs := n }
        if n = 3 then (s2.logNew (s.lineArg stOk pa)).1 else s2
      | .uncorrectable => (r.1.logNew (s.lineArg stEcc pa)).1.setHist pa { r.1.eccHistOf pa with runs := 0 }

/-! ## Rows -/

/-- WAGON_ARRIVE. -/
def execWagonArrive (w : Nat) (s : State) : Host.Outcome State Fault Refusal := .next (arriveOp w s)
/-- WAGON_ACK. -/
def execWagonAck (w : Nat) (s : State) : Host.Outcome State Fault Refusal := .next (ackOp w s)
/-- WAGON_TIMEOUT. -/
def execWagonTimeout (w : Nat) (s : State) : Host.Outcome State Fault Refusal := .next (wagonTimeoutOp w s)
/-- READ_WAGON_SERVE. -/
def execReadWagonServe (w : Nat) (ev : EccEvent) (s : State) : Host.Outcome State Fault Refusal := .next (readServeOp w ev s)
/-- WRITE_WAGON_APPLY. -/
def execWriteWagonApply (w : Nat) (s : State) : Host.Outcome State Fault Refusal := .next (writeApplyOp w s)
/-- ACC_WAGON_APPLY. -/
def execAccWagonApply (w : Nat) (ev : EccEvent) (s : State) : Host.Outcome State Fault Refusal := .next (accApplyOp w ev s)
/-- PATROL_SCRUB. -/
def execPatrolScrub (stack : Nat) (ev : EccEvent) (s : State) : Host.Outcome State Fault Refusal := .next (scrubOp stack ev s)

end Sys2Proof.Machine
end

