-- ==== Sys2Proof/Machine/Consume.lean ====
section
/-!
DEFINITION. The consumption of tiles (R264, R265, R267, R276): what a command's work asks for is claimed, fetched where it was not fetched
ahead, and consumed step by step.
-/
namespace Sys2Proof.Machine

/-- The log entry of a failed demand. -/
def State.demandArg (s : State) (op : Nat) (f : Byte × FaultAt) : LogArg :=
  s.faultArg (if op = 0x0C then uCtrl else if 9 ≤ op ∧ op ≤ 0xB then uYard else if op = 8 then uShunt else uSeq) f

/-- A demanded access of a stage fails (R228, R235). -/
def State.failDemand (s : State) (slot i op : Nat) (f : Byte × FaultAt) : State :=
  let s1 := match f.2 with
    | .line (.hbm pa) => (s.readCodes pa .clean).1
    | _ => s
  s1.failCmd slot f.1 0 i (s.demandArg op f)

/-- The first of some wants that fails, with its stage. -/
def State.wantBad (s : State) (c : Cmd) (ws : List Want) : Option (Nat × Byte × FaultAt) :=
  ws.findSome? (fun w => (s.demandBad c w.stage w.demand).map (fun x => (w.stage, x)))

/-- The lines that wants ask for: stage, field, tile number, line. -/
def State.wantLines (s : State) (c : Cmd) (ws : List Want) : List (Nat × Nat × Nat × Loc) :=
  (ws.flatMap (fun w => (s.demandLines c w.stage w.demand).map (fun x => (w.stage, x.1, w.idx, x.2)))).eraseDups

/-- A tile has the data of a line. -/
def Cmd.hasLine (c : Cmd) (x : Nat × Nat × Nat × Loc) : Bool :=
  c.tiles.any (fun t => t.stage == x.1 && t.field == x.2.1 && t.idx == x.2.2.1 && t.lines.any (fun e => e.1 == x.2.2.2 && e.2.isSome))

/-- The request of a line is on its way: it waits for a tag, or its wagon flies. -/
def State.coming (s : State) (slot : Nat) (c : Cmd) (x : Nat × Nat × Nat × Loc) : Bool :=
  let mine (r : WagonReq) : Bool := r.slot == slot && r.kind == .read && r.stage == x.1 && r.field == x.2.1 && r.tile == x.2.2.1 && r.line == x.2.2.2
  c.outQ.any mine || s.cmds.wagons.any (fun w => mine w.req && !w.discard && !w.arrived)

/-- The consumption of some wants begins (R267, R276): no later write affects their tiles, and their wagons are speculative no more (R264,
R286). -/
def State.claim (s : State) (slot : Nat) (ws : List Want) : State :=
  let mine (stage idx : Nat) : Bool := ws.any (fun w => w.stage == stage && w.idx == idx)
  let open_ (r : WagonReq) : WagonReq := if r.slot == slot && r.kind == .read && mine r.stage r.tile then { r with spec := false } else r
  let s1 := s.modCmd slot (fun c => { c with
    tiles := c.tiles.map (fun t => if mine t.stage t.idx && t.use == .ahead then { t with use := .now } else t)
    outQ := c.outQ.map open_ })
  { s1 with cmds := { s1.cmds with wagons := s1.cmds.wagons.map (fun (w : Wagon) => { w with req := open_ w.req }) } }

/-- Fetch the lines of wants that are neither there nor on their way: a tile that was not fetched ahead, or that was dropped (R267, R270, R276). It
lies in no watch window. -/
def State.fetchLines (s : State) (slot : Nat) (ws : List Want) (miss : List (Nat × Nat × Nat × Loc)) : State :=
  let keys := (miss.map (fun x => (x.1, x.2.1, x.2.2.1))).eraseDups
  let tiles : List Tile := keys.map (fun k =>
    ⟨k.1, k.2.1, k.2.2, (miss.filter (fun x => x.1 == k.1 && x.2.1 == k.2.1 && x.2.2.1 == k.2.2)).map (fun x => (x.2.2.2, none)), 8, 0, .now⟩)
  (s.modCmd slot (fun c => { c with
    tiles := c.tiles ++ tiles
    bursts := ws.foldl (fun b w => s.readBursts { c with bursts := b } w.stage w.demand) c.bursts
    outQ := c.outQ ++ tiles.flatMap (fun t => t.lines.map (fun e => t.req slot false e.1)) })).pumpCmd slot

/-- Meet some wants of a command: the state, and `true` when every line is there. A failing one ends the command. -/
def State.meet (s : State) (slot : Nat) (c : Cmd) (ws : List Want) : State × Bool :=
  match s.wantBad c ws with
  | some (i, x) => (s.failDemand slot i (nth Stage.none c.stages i).op x, false)
  | none =>
    match (s.wantLines c ws).filter (fun x => !c.hasLine x) with
    | [] => (s, true)
    | out => ((s.claim slot ws).fetchLines slot ws (out.filter (fun x => !s.coming slot c x)), false)

/-- The number of the demands that a command makes outside its units. -/
def outsideTile : Nat := tileIdx 0 (looseTile + 2 ^ 32)

/-- Meet a demand that a command makes outside the units of its work. -/
def State.gather (s : State) (slot : Nat) (c : Cmd) (i : Nat) (d : Demand) : State × Bool := s.meet slot c [⟨i, outsideTile, d⟩]

/-- A tile that the steps before have consumed: still in consumption when a later step asks for it, past when only an `again` step does; with
neither, `gone` says what becomes of it. -/
def Tile.after (t : Tile) (later : List UnitStep) (gone : Option Tile) : Option Tile :=
  if later.any (fun x => x.asks t && !x.again) then some { t with use := .now }
  else if later.any (fun x => x.asks t) then some { t with use := .past }
  else gone

/-- A step of the work has been consumed; its tiles free their slots (R267). The work that ends with the last step needs them until then. -/
def State.passStep (s : State) (slot : Nat) (c : Cmd) (x : UnitStep) (rest : List UnitStep) : State :=
  let later := rest ++ s.stepsLater c
  let passed (t : Tile) : Option Tile := if x.asks t then t.after later (some { t with use := .past }) else some t
  (s.setCmd slot (some { c with eaten := c.eaten + 1, tiles := c.tiles.filterMap passed })).runAhead slot false

/-- Consume the steps of a command's work from the first that has not been consumed on: the state, and `true` when the last has all it asks
for. -/
def State.consume (slot : Nat) : List UnitStep → State → State × Bool
  | [], s => (s, true)
  | x :: rest, s =>
    match s.cmd? slot with
    | none => (s, false)
    | some c =>
      let r := s.meet slot c (s.wantsOf c x)
      if !r.2 then (if (r.1.cmd? slot).any Cmd.ended then r.1 else r.1.runAhead slot false, false)
      else if rest.isEmpty then (s, true)
      else State.consume slot rest (s.passStep slot c x rest)

/-- Everything that the work of a command does next asks for is there. -/
def State.ready (s : State) (slot : Nat) (c : Cmd) : State × Bool := State.consume slot ((s.stepsNow c).drop c.eaten) s

/-- The work that consumed a command's tiles in some steps is done: those that no later step asks for go. -/
def Cmd.dropTiles (c : Cmd) (done later : List UnitStep) : Cmd :=
  { c with eaten := 0, tiles := c.tiles.filterMap (fun t =>
    if t.use == .ahead && !done.any (fun x => x.asks t) then some t else t.after later none) }

end Sys2Proof.Machine
end

