-- ==== Sys2Proof/Machine/Work.lean ====
section
/-!
DEFINITION. The work of a started command (log 7), unit by unit: its outputs as wagons, paged writes and partial regions, and the rows MATMUL,
CONV, VECFN, NORM, COPY, UPDATE, FUSED_CHAIN and the attention commands without a ring.
-/
namespace Sys2Proof.Machine

/-- Reads of a command in flight, or not yet issued. -/
def State.reading (s : State) (slot : Nat) (c : Cmd) : Bool :=
  s.cmds.wagons.any (fun w => w.req.slot == slot && w.req.kind == .read && !w.discard && !w.arrived)
    || c.outQ.any (fun r => r.kind == .read)

/-! ## Outputs -/

/-- Bytes of a stream that a stage writes meet a fault. -/
def State.outFault (s : State) (c : Cmd) (i : Nat) (w : WorkOut) : Option (Byte × FaultAt) :=
  match w.outs.findSome? (fun e => s.demandFault c i e.1 e.2.1 e.2.2.length true) with
  | some x => some x
  | none => w.direct.findSome? (fun e => (s.rangeFault c.ctx e.2.1 e.2.2.length true).map (fun a => (stXlate, .va a)))

/-- The wagons of a stage's outputs: each core writes what it has produced (R269). -/
def State.outReqs (s : State) (slot : Nat) (c : Cmd) (i op : Nat) (w : WorkOut) : List WagonReq :=
  let st := nth Stage.none c.stages i
  let own (e : Nat × Nat × List Byte) : Nat → Nat :=
    if op = 7 ∧ e.1 = 6 ∧ (cpPar st.pb).compOut then (cpPar st.pb).compWriter e.2.2 else st.writerOf c.stages i c.chained e.1
  let parts (e : Nat × Nat × List Byte) : List (Nat × Nat × List Byte) :=
    if st.cores.length ≤ 1 then [(0, e.2.1, e.2.2)] else cutWriters (own e) e.2.1 e.2.2
  w.outs.flatMap (fun e =>
    match c.desc i e.1 with
    | some d =>
      if d.isHand || d.isSlot then []
      else (parts e).flatMap (fun x => (if d.acc || (op == 4 && e.1 == 30) then s.accReqs slot c i e.1 x.2.1 x.2.2
        else s.writeReqs slot c i e.1 x.2.1 x.2.2).map (fun r => { r with tile := tileIdx x.1 0 }))
    | none => [])
    ++ w.direct.flatMap (fun e => s.writeReqsVa slot c.ctx i e.1 e.2.1 e.2.2)

/-- The element field of an output whose scale field is f (R81, R106, R183, R190, R215, R243). -/
def scaleOwner (op f : Nat) : Option Nat :=
  match op, f with
  | 0x01, 16 => some 11
  | 0x02, 20 => some 15
  | 0x03, 17 => some 12
  | 0x05, 15 => some 10
  | 0x05, 16 => some 11
  | 0x06, 15 => some 7
  | 0x07, 8 => some 6
  | 0x0C, 13 => some 12
  | 0x0C, 15 => some 14
  | _, _ => none

/-- Bytes from offset o on, cut at rows of n bytes: row, offset in the row, bytes. -/
def rowPieces (n o : Nat) (b : List Byte) : List (Nat × Nat × List Byte) :=
  let n := max 1 n
  (upFrom (o / n) (ceilDiv (o + b.length) n - o / n)).map (fun r =>
    let lo := max o (r * n)
    (r, lo - r * n, slice b (lo - o) (min (o + b.length) ((r + 1) * n) - lo)))

/-- Runs of bytes (token, frame offset, bytes) of an element plane, or of a scale plane, of a paged write (R158, R162): logical bytes from
offset o on. `wide` says that the rows of the stream have the row bytes of R127, as attention outputs have. -/
def pagedRuns (kv : BindRec) (plane tok0 : Nat) (scale wide : Bool) (o : Nat) (b : List Byte) : List (Nat × Nat × List Byte) :=
  let w := if plane = 1 then kv.fmtV else kv.fmtK
  let bs := fmtBs w
  let hkv := max 1 kv.hkv
  if plane = 2 then (rowPieces 4 o b).map (fun r => (tok0 + r.1, kv.segOff + 4 * ((tok0 + r.1) % 64) + r.2.1, r.2.2))
  else if !scale then
    (rowPieces (if wide then rowBytes w kv.d else fmtBytes w kv.d) o b).map (fun r =>
      let t := tok0 + r.1 / hkv
      (t, (t % 64 * hkv + r.1 % hkv) * rowBytes w kv.d + r.2.1, r.2.2))
  else if plane = 1 then
    (rowPieces (if wide then d64 kv.d else kv.d) o b).map (fun r =>
      let t := tok0 + r.1 / hkv * bs
      (t, kv.scaleOff w + (t % 64 / bs * hkv + r.1 % hkv) * d64 kv.d + r.2.1, r.2.2))
  else
    (rowPieces (ceilDiv (if wide then dl kv.d else kv.d) bs) o b).map (fun r =>
      let t := tok0 + r.1 / hkv
      (t, kv.scaleOff w + (t % 64 * hkv + r.1 % hkv) * ceilDiv (dl kv.d) bs + r.2.1, r.2.2))

/-- The paged writes of an output (R162, R165): one for each page. -/
def State.pagedReqs (s : State) (c : Cmd) (i op : Nat) (w : WorkOut) : List PagedReq :=
  w.outs.flatMap (fun e =>
    let owner := match c.desc i e.1 with
      | some _ => e.1
      | none => (scaleOwner op e.1).getD e.1
    match c.form i owner with
    | some (.slot sl pl ly sq tok0) =>
      match (s.tblSlot 1 sl).kv with
      | some kv =>
        let bank := ((c.latches.find? (fun l => l.1 == 1 && l.2.1 == sl)).map (·.2.2.toNat % 2)).getD 0
        let runs := pagedRuns kv pl tok0 (owner != e.1) (op == 3 || op == 4) e.2.1 e.2.2
        ((runs.map (fun r => r.1 / 64)).eraseDups).map (fun pg =>
          ⟨i, e.1, sl, bank, pl, ly, sq, pg, (runs.filter (fun r => r.1 / 64 == pg)).map (fun r => (r.2.1, r.2.2))⟩)
      | none => []
    | _ => [])

/-- Count what a stage reports: its accumulators, the conversions of each core (R469), and each core's speculation (R91). -/
def State.countWork (s : State) (slot : Nat) (st : Stage) (w : WorkOut) : State :=
  let s1 := w.oc.foldl (fun s o => s.count slot o.1 o.2) ((s.countHealth slot w.total).countByCore st.cores w.health)
  w.zs.foldl (fun s z => (s.bump (cntCore z.1 11) z.2.1).bump (cntCore z.1 12) z.2.2) s1

/-- The bytes of 4-bit planes whose second half a work makes final go out with its outputs; the others wait for theirs (R269). -/
def Cmd.joinHalves (c : Cmd) (i : Nat) (w : WorkOut) : WorkOut :=
  let old := (c.halves.filter (fun h => h.1 == i)).map (·.2)
  let r := w.halves.foldl (fun (a : List (Nat × Nat × List Byte) × List (Nat × Nat × Byte)) h =>
    match a.2.find? (fun x => x.1 == h.1 && x.2.1 == h.2.1) with
    | some x => (a.1 ++ [(h.1, h.2.1, [x.2.2 ||| h.2.2])], a.2.filter (fun y => !(y.1 == h.1 && y.2.1 == h.2.1)))
    | none => (a.1, a.2 ++ [h])) ([], old)
  { w with outs := w.outs ++ r.1, halves := r.2 }

/-- A stage that takes or leaves partial regions (R73, R308). -/
def Stage.cont (st : Stage) : Bool :=
  (st.op == 1 && ((mmPar st.pb).contIn || (mmPar st.pb).contOut)) || (st.op == 2 && ((cvPar st.pb).contIn || (cvPar st.pb).contOut))

/-- The outputs of a stage are handed to its write queue. -/
def State.emit (s : State) (slot i : Nat) (st : Stage) (w : WorkOut) : State :=
  match s.cmd? slot with
  | none => s
  | some c =>
    let reqs := s.outReqs slot c i st.op w
    let paged := s.pagedReqs c i st.op w
    let masked := getOc .attFm w.oc != 0
    let c1 := { c with outQ := c.outQ ++ reqs, paged := c.paged ++ paged, indPart := c.indPart || st.cont
                       halves := c.halves.filter (fun h => h.1 != i) ++ w.halves.map (fun h => (i, h))
                       zcUsed := w.zcUsed.getD c.zcUsed }
    let c2 := if masked then c1.mark stMasked 0 else c1
    (s.setCmd slot (some c2)).countWork slot st w

/-- The units that a work row does: the next one, or all of a chain's stages. -/
def Cmd.window (c : Cmd) (st : Stage) : Win := if c.chained then ⟨0, st.units⟩ else ⟨c.pos, c.pos + 1⟩

/-- The work of a command is done (R306): its tiles have been consumed, its wagons leave. -/
def State.worked (s : State) (slot : Nat) : State :=
  (s.modCmd slot (fun c => { c with phase := .worked, tiles := [], stallBy := s.stallDue })).pumpCmd slot

/-- The units of a window are done: the work is over, or goes on at the next unit, for which streams run ahead. -/
def State.doneTo (s : State) (slot : Nat) (st : Stage) (w : Win) : State :=
  if st.units ≤ w.hi then s.worked slot
  else
    match s.cmd? slot with
    | none => s
    | some c =>
      let c1 := { c with pos := w.hi, eaten := 0, stallBy := s.stallDue }
      (s.setCmd slot (some (c1.dropTiles (s.stepsNow c) (s.stepsAhead c1)))).runAhead slot false

/-! ## Stages -/

/-- A byte of a plane that a stage has produced. -/
def planeByte (outs : List (Nat × Nat × List Byte)) (f o : Nat) : Byte :=
  match outs.find? (fun e => e.1 == f && decide (e.2.1 ≤ o) && decide (o < e.2.1 + e.2.2.length)) with
  | some e => nth 0 e.2.2 (o - e.2.1)
  | none => 0

/-- The byte of a producer's primary output at flat byte offset o of R199's element order. -/
def flatByte (st : Stage) (w : WorkOut) (o : Nat) : Byte :=
  match st.op with
  | 0x02 =>
    let p := cvPar st.pb
    if p.mode = 0 then
      let i := o / 4
      let m := i / max 1 p.cout
      let c := i % max 1 p.cout
      let q := p.pos m
      planeByte w.outs 15 (4 * actIndex p.cb (chanBlocks p.cb p.mm.fmtC p.cout) p.od p.oh p.ow q.1 c q.2.1 q.2.2.1 q.2.2.2 + o % 4)
    else planeByte w.outs 15 o
  | 0x03 =>
    let p := atPar 3 st.pb
    let i := o / 4
    planeByte w.outs 12 (i / max 1 p.d * p.pq p.fmtO + i % max 1 p.d * 4 + o % 4)
  | _ => planeByte w.outs ((planeOf st).map (·.f) |>.getD 0) o

/-- The planes handed over to a stage (R282–R285), from the stages before it. -/
def handPlanes (st : Stage) (done : List (Stage × WorkOut)) (f : Nat) : Option (Nat → Byte) :=
  ((handIns st).find? (fun h => h.1 == f)).bind (fun h => (done[h.2.1]?).map (fun d => flatByte d.1 d.2))

/-- Conversion counts by query row, or by key row, as counts by core entry (R132, R144). -/
def Stage.byQuery (st : Stage) (h : List (Nat × Health)) : List (Nat × Health) :=
  let p := atPar st.op st.pb
  h.map (fun e => (p.queryEntry st.seqs st.cores.length (e.1 / max 1 p.hq) (e.1 % max 1 p.hq), e.2))
def Stage.byKey (st : Stage) (h : List (Nat × Health)) : List (Nat × Health) :=
  let p := atPar st.op st.pb
  h.map (fun e => (p.keyEntry st.seqs st.cores.length (e.1 / max 1 p.hkv) (e.1 % max 1 p.hkv), e.2))

/-- The work of ATTN_FWD on the member's own keys, or the outputs of the rows that a ring has merged. -/
def State.fwdWork (s : State) (c : Cmd) (i : Nat) (st : Stage) (w : Win) : WorkOut :=
  let a := s.atWin c i st w
  match c.rung.find? (fun r => r.1 == i) with
  | some r =>
    let o := a.fwdOut r.2
    { outs := o.1, health := st.byQuery o.2.1, oc := [(.attFm, o.2.2)] }
  | none =>
    let r := a.fwdChunk (s.kvOwn c i st) a.p.ringPos a.start
    let o := a.fwdOut r.1
    { outs := o.1, health := st.byQuery o.2.1, oc := [(.attSat, r.2), (.attFm, o.2.2), (.attSkip, a.skips a.p.ringPos)] }

/-- The header of the partial region that a stage goes on from is its own (R73). -/
def State.headersOk (s : State) (c : Cmd) (i : Nat) (st : Stage) : Bool :=
  let io := s.ioOf c i st (fun _ => none)
  match st.op with
  | 0x01 => mmHeaders io (mmPar st.pb) st.cores
  | 0x02 => cvHeaders io (cvPar st.pb) st.cores
  | _ => true

/-- A stage whose plane an ELEM consumer takes runs its output stage with ACT 0 (R284; log 37). -/
def Cmd.plainAct (c : Cmd) (i : Nat) (st : Stage) : Stage :=
  let taken := c.stages.any (fun x => (handIns x).any (fun h => h.2.1 == i && h.2.2.2.1 == 1))
  let flags := u32At st.pb 0x0C
  let cleared := if st.op = 1 then flags - putAt (field flags 12 9) 9 else if st.op = 2 then flags - putAt (field flags 13 10) 10 else flags
  if taken then { st with pb := st.pb.take 0x0C ++ toLe 4 cleared ++ st.pb.drop 0x10 } else st

/-- The work of the units of a stage; `none` when a compressed source is malformed (R242), or CONT_IN meets the header of another region
(R73). -/
def State.stageWork (s : State) (c : Cmd) (i : Nat) (st : Stage) (w : Win) (hand : Nat → Option (Nat → Byte)) : Option WorkOut :=
  let io := s.ioOf c i st hand
  let spec := !(s.ctx c.ctx).noZspec
  if w.lo = 0 ∧ !s.headersOk c i st then none
  else
    let st := c.plainAct i st
    let w : Option WorkOut := match st.op with
      | 0x01 => some (mmWork io (mmPar st.pb) st.cores spec w)
      | 0x02 => some (cvWork io (cvPar st.pb) (u64At st.pb 0xD8) (u64At st.pb 0xE0) st.cores spec w)
      | 0x03 => some (s.fwdWork c i st w)
      | 0x05 => some (vfWork io (vfPar st.pb) (u64At st.pb 0x38 != 0, u64At st.pb 0x40 != 0, u64At st.pb 0x48 != 0) (stageEntry c.stages i) w)
      | 0x06 => some (nmWork io (nmPar st.pb) c.chained w)
      | 0x07 => (cpWork io (cpPar st.pb)).map (·.1)
      | _ => some WorkOut.none
    w.map (c.joinHalves i)

/-- Run stages in order; partial regions of an earlier stage are there for a later one. -/
def State.runStages (c : Cmd) : List (Stage × Nat) → State → List (Stage × WorkOut) → State × Option (List (Stage × WorkOut))
  | [], s, done => (s, some done)
  | (st, i) :: t, s, done =>
    match s.stageWork c i st (c.window st) (handPlanes st done) with
    | none => (s, none)
    | some w => State.runStages c t (s.writeParts w.parts) (done ++ [(st, w)])

/-- What the bands of a chain leave in the Depot rings (R285): band b in slot b mod RING, for the last RING bands. -/
def bandWrites (sts : List Stage) (done : List (Stage × WorkOut)) : List (Nat × List Byte) :=
  sts.flatMap (fun st => (handIns st).flatMap (fun h =>
    let (_, src, _, kind, ring, at_) := h
    match (if kind = 2 then (done[src]?).bind (fun d => (planeOf d.1).map (fun p => (d, p))) else none) with
    | none => []
    | some (d, p) =>
      let row := fmtBytes p.fmt p.len
      let n := ceilDiv p.rows 32
      (upFrom (n - ring) (min n ring)).map (fun b =>
        (at_ + b % max 1 ring * roundUp (32 * row) 64, (upFrom (32 * b * row) (min 32 (p.rows - 32 * b) * row)).map (flatByte d.1 d.2)))))

/-- The bands that a chain has passed. -/
def State.landBands (s : State) (slot : Nat) (c : Cmd) (done : List (Stage × WorkOut)) : State :=
  (bandWrites c.stages done).foldl (fun s b => s.landVa (some slot) c.ctx b.1 b.2) s

/-- The tiles that the work of a command has consumed stand in their buffers (R265, R266). -/
def State.landPanels (s : State) (c : Cmd) : State :=
  s.writeParts ((s.stepsNow c).flatMap (fun x => x.tiles.flatMap (fun e =>
    s.panelParts c x.stage (nth Stage.none c.stages x.stage) e.1 e.2.1 e.2.2)))

/-- The compressed bytes of a COPY do not fit its destination (R244). -/
def tooLong (c : Cmd) (i : Nat) (st : Stage) (w : WorkOut) : Bool :=
  st.op == 7 && (cpPar st.pb).compOut && w.outs.any (fun e => e.1 == 6 && (match (c.desc i 6).bind Desc.extent with
    | some x => decide (x < e.2.2.length)
    | none => false))

/-- The words that a COPY with CKPT_EN writes at its retire point (R202). -/
def ckptRetire (c : Cmd) (st : Stage) (w : WorkOut) : List RetireWord :=
  let p := cpPar st.pb
  if st.op = 7 ∧ p.ckptEn then
    let n := w.outs.foldl (fun a e => if e.1 = 6 then a + e.2.2.length else a) 0
    [⟨p.ckpt + 8, toLe 8 c.step.toNat, false⟩, ⟨p.ckpt + 0x18, toLe 8 n, false⟩,
     ⟨p.ckpt + 4, toLe 4 (1 + flagAt (p.compOut && p.n != 0) 1), false⟩]
  else []

/-- The regions that CONT_IN takes up are another command's (R73): found before any operand is read, where no earlier stage writes one. -/
def State.strangeParts (s : State) (c : Cmd) : Bool :=
  c.pos == 0 && ((c.stages.zipIdx.takeWhile (fun e => e.2 == 0 || !((c.stages.take e.2).any Stage.cont))).any (fun e => !s.headersOk c e.2 e.1))

/-- Compute the stages of a command whose tiles are all there, and hand their outputs to the write queues. -/
def State.computeReady (s : State) (slot : Nat) (c : Cmd) : State :=
  let r := State.runStages c c.stages.zipIdx (s.landPanels c) []
  match r.2 with
  | none => s.failCmd slot stFormat 0 0 { status := stFormat, unit := uSeq }
  | some done =>
    let ws := done.zipIdx
    match ws.findSome? (fun e => (s.outFault c e.2 e.1.2).map (fun x => (e.2, e.1.1.op, x))) with
    | some (i, op, x) => s.failDemand slot i op x
    | none =>
      if ws.any (fun e => tooLong c e.2 e.1.1 e.1.2) then s.failCmd slot stRange 0 0 { status := stRange, unit := uSeq }
      else
        let s1 := ws.foldl (fun s e => s.emit slot e.2 e.1.1 e.1.2) (r.1.landBands slot c done)
        let words := ws.flatMap (fun e => ckptRetire c e.1.1 e.1.2)
        let last := (c.stages.getLast?).getD Stage.none
        (s1.modCmd slot (fun c => { c with atRetire := c.atRetire ++ words })).doneTo slot last (c.window last)

/-- A work row of a command that computes stage by stage from memory to memory: its next unit, or the stages of a chain. -/
def State.computeStages (s : State) (slot : Nat) (c : Cmd) : State :=
  if s.strangeParts c then s.failCmd slot stFormat 0 0 { status := stFormat, unit := uSeq }
  else
    let r := s.ready slot c
    if !r.2 then r.1
    else
      match r.1.cmd? slot with
      | some c => r.1.computeReady slot c
      | none => r.1

/-- The started command of a slot that a work row may run; one whose accumulate-write has failed goes on (R212). -/
def State.workable (s : State) (slot op : Nat) (chain : Bool) : Option Cmd :=
  match s.cmd? slot with
  | none => none
  | some c =>
    if !s.trc.dump.busy ∧ slot < 4096 ∧ c.phase = .started ∧ !c.yielded ∧ c.chained = chain ∧ (chain ∨ c.op = op)
        ∧ !c.ended then some c
    else none

/-- A work row of a command that computes stage by stage. -/
def computeOp (op : Nat) (slot : Nat) (s : State) : State :=
  let s := s.settleMigs
  match s.workable slot op false with
  | some c => s.computeStages slot c
  | none => s

/-! ## UPDATE (R214–R220) -/

/-- The new words of an update that is not skipped (R216, R220). -/
def updateWords (p : UpPar) (t : Nat) : List RetireWord :=
  ⟨p.ctrl, toLe 8 ((t + 1) % 2 ^ 64), false⟩ :: (if p.wgen = 0 then [] else [⟨p.wgen, [], true⟩])

/-- The stack of the complex that updates a master element: that of the element, or with W2 of the first element of its 32 × 32 tile (R215). -/
def State.updStack (s : State) (c : Cmd) (p : UpPar) (hasW2 : Bool) (e : Nat) : Option Nat :=
  let first := if hasW2 then e / p.cols / 32 * 32 * p.cols + e % p.cols / 32 * 32 else e
  match (c.desc 0 8).map (fun d => s.slocOf c.ctx d (4 * first)) with
  | some (.va a) =>
    match s.acc c.ctx a true with
    | .plain (.hbm pa) => some (s.stackOf pa)
    | _ => none
  | _ => none

/-- The counters of the controller complexes (R469): elements, elements that were not finite, and conversions, by the stack whose complex updates
them. -/
def State.countUpdate (s : State) (c : Cmd) (p : UpPar) (hasW2 : Bool) (nonfin : List Nat) (w : WorkOut) : State :=
  let es := w.outs.flatMap (fun e => if e.1 = 8 then (List.range (e.2.2.length / 4)).map (e.2.1 / 4 + ·) else [])
  let each (s : State) (l : List Nat) (i : Nat) : State := (l.filterMap (s.updStack c p hasW2)).foldl (fun s k => s.bump (cntStack k i) 1) s
  w.health.foldl (fun s h => (s.bump (cntStack h.1 6) h.2.sat).bump (cntStack h.1 7) h.2.ftz) (each (each s es 4) nonfin 5)

/-- The ranges of an UPDATE, with the control word that it has read (R216): it goes no further than the word when that asks for no update. -/
def State.updateWith (s : State) (slot : Nat) (c : Cmd) (st : Stage) (ctrl : List Byte) : State :=
  let p := upPar st.pb
  let t := u64At ctrl 0
  let k := upScal p t (w32At ctrl 8)
  let has (o : Nat) : Bool := u64At st.pb o != 0
  if 2 ≤ u32At ctrl 12 then s.failCmd slot stFormat 0 0 { status := stFormat, unit := uCtrl, addr := p.ctrl }
  else if bitAt (u32At ctrl 12) 0 ∨ !fFinite k.gs then (s.count slot .updSkip 1).worked slot
  else
    let r := s.ready slot c
    if !r.2 then r.1
    else
      match r.1.cmd? slot with
      | none => r.1
      | some c =>
        let s := r.1
        let u := c.window st
        let io := s.ioOf c 0 st (fun _ => none)
        let stack (e : Nat) : Nat := (s.updStack c p (has 0x70) e).getD 0
        let w := upWork io p k (has 0x50) (has 0x58) (has 0x60) (has 0x70) stack u
        match s.outFault c 0 w with
        | some x => s.failDemand slot 0 0x0C x
        | none =>
          let s1 := (s.emit slot 0 st w).countUpdate c p (has 0x70) (upNonfin io p k (has 0x50) (has 0x58) (has 0x70) u) w
          let words := if st.units ≤ u.hi then updateWords p t else []
          (s1.modCmd slot (fun c => { c with atRetire := c.atRetire ++ words })).doneTo slot st u

/-- UPDATE: the control word is read once; the element streams follow only where it asks for an update (R216). -/
def updateOp (slot : Nat) (s : State) : State :=
  let s := s.settleMigs
  match s.workable slot 0x0C false with
  | none => s
  | some c =>
    match c.stages with
    | st :: _ =>
      match c.control with
      | some ctrl => s.updateWith slot c st ctrl
      | none =>
        let at_ := (upPar st.pb).ctrl
        let g := s.gather slot c 0 ⟨[], [(16, at_, 16)], none⟩
        if !g.2 then g.1
        else
          let ctrl := (upFrom at_ 16).map (s.cmdByte c 0 16)
          let c1 := { c with control := some ctrl }
          (s.setCmd slot (some c1)).updateWith slot c1 st ctrl
    | [] => s

/-! ## ATTN_BWD without a ring (R141–R145) -/

/-- The final dQ row values by output row. -/
def dqRow (rows : List RowSt) (p : AtPar) (row : Nat) : List Word :=
  match rows.find? (fun r => r.row == row) with
  | some r => if r.f.isSome then r.o else List.replicate p.d fzero
  | none => List.replicate p.d fzero

/-- The first sweep of ACCUM mode, or the whole work of SPLIT mode, on the items of a window. -/
def State.bwdWork (s : State) (c : Cmd) (st : Stage) (w : Win) : WorkOut :=
  let a := s.atWin c 0 st w
  let b := a.bwdChunk (s.kvOwn c 0 st) a.p.ringPos a.start (a.keys (fun _ _ _ => (none, none)))
  let kv := a.dkvOut b.kv
  let oc := [(Oc.attSat, b.sat), (Oc.attFm, a.maskedRows), (Oc.attSkip, a.skips a.p.ringPos)]
  if a.p.accum then { outs := kv.1 ++ a.deltaOut ++ a.accumOut b.adds, health := st.byKey kv.2, oc := oc }
  else
    let q := a.dqOut (dqRow b.dq a.p)
    { outs := q.1 ++ kv.1 ++ a.deltaOut, health := st.byQuery q.2 ++ st.byKey kv.2, oc := oc }

/-- The conversion of the dQ buffer after the last accumulate-write of ACCUM mode has been acknowledged (R145). -/
def State.accumWork (s : State) (c : Cmd) (st : Stage) : WorkOut :=
  let a := s.atIn c 0 st
  let val (row : Nat) : List Word :=
    (List.range a.p.d).map (fun d => BitVec.ofNat 32 (elemBits 32 (fun o => s.streamRd c 0 30 (row * a.p.pq 0 + o)) d))
  let q := a.dqOut val
  { outs := q.1, health := st.byQuery q.2 }

/-- What the conversion of the dQ buffer asks for: the rows of every work item, on the core that handled it. -/
def Stage.accumWants (st : Stage) : List Want :=
  let p := atPar 4 st.pb
  (p.items st.seqs).zipIdx.map (fun e => ⟨0, tileIdx (itemEntry st.cores.length e.2) (looseTile + 2 ^ 32 + 1 + e.2), p.accumDemand st.seqs e.1⟩)

/-- The sweep of ATTN_BWD over its next item. -/
def State.sweepReady (s : State) (slot : Nat) (c : Cmd) (st : Stage) : State :=
  let u := c.window st
  let w := s.bwdWork c st u
  match s.outFault c 0 w with
  | some x => s.failDemand slot 0 4 x
  | none =>
    if (atPar 4 st.pb).accum ∧ st.units ≤ u.hi then
      ((s.emit slot 0 st w).modCmd slot (fun c => { c with info := 1, stallBy := s.stallDue })).pumpCmd slot
    else (s.emit slot 0 st w).doneTo slot st u

/-- ATTN_BWD without a ring: item by item; in ACCUM mode the conversion of dQ follows once every accumulate-write is acknowledged. -/
def bwdPlainOp (slot : Nat) (c : Cmd) (st : Stage) (s : State) : State :=
  if c.info ≠ 0 then
    if (s.unacked slot).any (fun w => w.req.kind != .read) ∨ c.outQ.any (fun r => r.kind != .read) then s.pumpCmd slot
    else
      let g := s.meet slot c st.accumWants
      if !g.2 then g.1
      else
        let w := s.accumWork c st
        match s.outFault c 0 w with
        | some x => s.failDemand slot 0 4 x
        | none => (s.emit slot 0 st w).worked slot
  else
    let r := s.ready slot c
    if !r.2 then r.1
    else
      match r.1.cmd? slot with
      | some c => r.1.sweepReady slot c st
      | none => r.1

/-! ## Rows -/

/-- MATMUL. -/
def execMatmul (slot : Nat) (s : State) : Host.Outcome State Fault Refusal := .next (computeOp 0x01 slot s)
/-- CONV. -/
def execConv (slot : Nat) (s : State) : Host.Outcome State Fault Refusal := .next (computeOp 0x02 slot s)
/-- VECFN. -/
def execVecfn (slot : Nat) (s : State) : Host.Outcome State Fault Refusal := .next (computeOp 0x05 slot s)
/-- NORM. -/
def execNorm (slot : Nat) (s : State) : Host.Outcome State Fault Refusal := .next (computeOp 0x06 slot s)
/-- COPY. -/
def execCopy (slot : Nat) (s : State) : Host.Outcome State Fault Refusal := .next (computeOp 0x07 slot s)
/-- UPDATE. -/
def execUpdate (slot : Nat) (s : State) : Host.Outcome State Fault Refusal := .next (updateOp slot s)
end Sys2Proof.Machine
end

