-- ==== Sys2Proof/Machine/Ring.lean ====
section
/-!
DEFINITION. The sequence-axis ring (R135–R140, R146): the slot image, the step of a member, sending and receiving chunks,
credits, cancels and the time-out, and the rows ATTN_FWD, ATTN_BWD and FUSED_CHAIN.
-/
namespace Sys2Proof.Machine

/-! ## Slot images (R138) -/

/-- The offset of the accumulators in a slot image. -/
def accOff (p : AtPar) (n : Nat) : Nat := (p.ringPart n).foldl (· + ·) 0

/-- Chunk sends of a member: R − 1, and the last hop of the accumulators in the backward pass (R135, R146). -/
def ringLimit (p : AtPar) : Nat := if p.ringLen = 1 then 0 else if p.bwd then p.ringLen else p.ringLen - 1

/-- A part of the member's own chunk, padded (R138). -/
def State.ownPart (s : State) (c : Cmd) (i f n pad : Nat) : List Byte :=
  (List.range pad).map (fun o => if o < n then s.streamRd c i f o else 0)

/-- FP32 accumulators as an image: rows of D words padded to Dl (R138). -/
def accImage (p : AtPar) (rows : List (List Word)) : List Byte :=
  rows.flatMap (fun r => (List.range p.dl).flatMap (fun d => toLe 4 (nth fzero r d).toNat))

/-- The image that a member sends after step t. -/
def State.sendImage (s : State) (c : Cmd) (st : Stage) (r : RingSt) (t : Nat) : List Byte :=
  let p := atPar st.op st.pb
  let n := st.shard
  if t = 0 then
    let sz := p.ringPart n
    let raw := [(10, p.tensor p.fmtK n p.hkv), (11, p.tensor p.fmtV n p.hkv), (15, if fmtBlock p.fmtK then p.scaleD p.fmtK n p.hkv else 0),
      (16, if fmtBlock p.fmtV then p.scaleT p.fmtV n p.hkv else 0), (19, if p.segEn then 4 * n else 0)]
    (raw.zip sz).flatMap (fun e => s.ownPart c r.stage e.1.1 e.1.2 e.2) ++ (if p.bwd then accImage p r.acc else [])
  else
    let b := s.rdBytes c.ctx (slotVa p n t) (p.slotBytes n)
    if t + 1 = p.ringLen then b.drop (accOff p n) else b

/-- Keys and values of a chunk in a slot, from the key blocks that the cores have fetched of it (R132, R138). -/
def State.kvRing (s : State) (c : Cmd) (i : Nat) (st : Stage) (t : Nat) : KvSrc :=
  let p := atPar st.op st.pb
  let n := st.shard
  let rd (k f o : Nat) : Byte := s.cmdByte c i f (slotVa p n t + nth 0 (partOffs p n) k + o)
  p.kvLocal st.seqs (rd 0 10) (rd 1 11) (rd 2 15) (rd 3 16) (rd 4 19)

/-! ## Accumulators of dK and dV (R146) -/

/-- The keys of a chunk with the accumulators that came with it. -/
def ringKeys (a : AtIn) (n : Nat) (word : Nat → Word) : List KvAcc :=
  let p := a.p
  a.keys (fun si j h =>
    let t := (nth ⟨0, 0, 0, 0, 0, 0⟩ a.seqs si).kOff + j
    let row (part : Nat) : List Word := (List.range p.d).map (fun d => word ((part * n + t) * p.hkv * p.dl + h * p.dl + d))
    (some (row 0), some (row 1)))

/-- The accumulators of keys as rows by token and head, dK and then dV. -/
def ringRows (a : AtIn) (n : Nat) (keys : List KvAcc) : List (List Word) :=
  let at_ (f : KvAcc → Option (List Word)) : List (List Word) :=
    (List.range (n * a.p.hkv)).map (fun x =>
      match keys.find? (fun k => ((nth ⟨0, 0, 0, 0, 0, 0⟩ a.seqs k.si).kOff + k.j) * a.p.hkv + k.h == x) with
      | some k => (f k).getD []
      | none => [])
  at_ (·.dk) ++ at_ (·.dv)

/-- An FP32 word of the accumulators that lie in slot t. -/
def State.slotWord (s : State) (c : Cmd) (st : Stage) (t i : Nat) : Word :=
  let p := atPar st.op st.pb
  let base := slotVa p st.shard t + accOff p st.shard
  BitVec.ofNat 32 (leNat (s.rdBytes c.ctx (base + 4 * i) 4))

/-! ## Sending -/

def State.setRing (s : State) (slot : Nat) (f : RingSt → RingSt) : State :=
  s.modCmd slot (fun c => { c with ring := c.ring.map f })

/-- The frames of an image (R137). -/
def ringFrames (p : AtPar) (hash : Word) (origin step ftype : Nat) (img : List Byte) : List RingFrame :=
  (List.range (ceilDiv img.length frameMax)).map (fun i =>
    ⟨p.ringTag, BitVec.ofNat 8 origin, BitVec.ofNat 8 step, BitVec.ofNat 8 ftype, hash, BitVec.ofNat 64 (frameMax * i),
     BitVec.ofNat 64 img.length, slice img (frameMax * i) (min frameMax (img.length - frameMax * i))⟩)

/-- Send ring frames out of a port; `true` when it is down. -/
def State.sendRing (s : State) (slot : Nat) (p : AtPar) (port : Nat) (fs : List RingFrame) : State × Bool :=
  fs.foldl (fun (a : State × Bool) f =>
    let r := a.1.sendFrame (some slot) (some port) (s.neighbour port) p.ringTag (BitVec.ofNat 8 p.ttClass) (ringFrameBytes f)
    (r.1, a.2 || r.2)) (s, false)

/-- Return one credit to the member that sends chunks into this one (R138). -/
def State.returnCredit (s : State) (slot : Nat) (p : AtPar) (hash : Word) : State × Bool :=
  s.sendRing slot p 7 [⟨p.ringTag, 0, 0, 3, hash, 0, 0, []⟩]

/-- Every packet that a command has sent out of S+ has been acknowledged by the link. -/
def State.sentOff (s : State) (slot : Nat) : Bool :=
  let p := s.port 6
  !(p.queues.flatMap (·.2)).any (fun t => t.slot == some slot) && !p.inReplay.any (fun e => e.slot == some slot)

/-- Slots whose chunks have been sent on and acknowledged are free: their credits go to the S− neighbour (R135; log 22). -/
def State.freeSlotsOf (s : State) (slot : Nat) (p : AtPar) (hash : Word) : State × Bool :=
  match (s.cmd? slot).bind (·.ring) with
  | some r =>
    if 0 < r.owed ∧ s.sentOff slot then
      let a := (List.range r.owed).foldl (fun (a : State × Bool) _ =>
        let q := a.1.returnCredit slot p hash
        (q.1, a.2 || q.2)) (s, false)
      (a.1.setRing slot (fun r => { r with owed := 0 }), a.2)
    else (s, false)
  | none => (s, false)

/-- Send the chunks whose step has been computed, while credits last (R135, R146). A received chunk's slot is free once that send has been
acknowledged. -/
def State.ringPump (slot : Nat) : Nat → State → State × Bool
  | 0, s => (s, false)
  | fuel + 1, s =>
    match s.cmd? slot with
    | none => (s, false)
    | some c =>
      match c.ring, c.ringStage with
      | some r, some (st, _) =>
        let p := atPar st.op st.pb
        if r.sent < r.step ∧ r.sent < ringLimit p ∧ 0 < r.credits then
          let t := r.sent
          let img := s.sendImage c st r t
          let acc := p.bwd && t + 1 == p.ringLen
          let fs := ringFrames p (ringHash st.pb) (p.originAt t) (t + 1) (if acc then 2 else 1) img
          let a := s.sendRing slot p 6 fs
          let s1 := a.1.setRing slot (fun r => { r with sent := t + 1, credits := r.credits - 1, creditFrom := s.time.cmdClk
                                                        owed := if t = 0 then r.owed else r.owed + 1 })
          let u := State.ringPump slot fuel s1
          (u.1, a.2 || u.2)
        else (s, false)
      | _, _ => (s, false)

/-! ## The step of a member (R135) -/

/-- A port of the ring is down (R140). -/
def State.ringDown (s : State) : Bool := [6, 7].any (fun k => (s.port k).state == .down || (s.port k).state == .off)

/-- End a ring command whose port is down. -/
def State.ringLinkDown (s : State) (slot i : Nat) : State := s.failCmd slot stLinkDown 0 i { status := stLinkDown, unit := uPort, where_ := 6 }

/-- The accumulate-writes of a step of a backward ring in ACCUM mode (R145). -/
def AtIn.stepAdds (a : AtIn) (adds : List (Nat × List Word)) : WorkOut := { outs := if a.p.accum then a.accumOut adds else [] }

/-- A started member waits for a credit. -/
def RingSt.waitsCredit (r : RingSt) (p : AtPar) : Bool := r.sent < r.step && decide (r.sent < ringLimit p) && r.credits == 0

/-- Compute step t of a ring stage: the state, with the new rows, accumulators and counts. A wait for a credit that runs goes on (R140). -/
def State.ringCompute (s : State) (slot : Nat) (c : Cmd) (st : Stage) (r : RingSt) : State :=
  let a := s.atIn c r.stage st
  let p := a.p
  let t := r.step
  let n := st.shard
  let o := p.originAt t
  let kv := if t = 0 then s.kvOwn c r.stage st else s.kvRing c r.stage st t
  let rows := if t = 0 then a.start else r.rows
  let next (s : State) (rows : List RowSt) (acc : List (List Word)) (sat : Nat) : State :=
    let s1 := (s.count slot .attSat sat).count slot .attSkip (a.skips o)
    s1.modCmd slot (fun c => { c with
      ring := c.ring.map (fun r => { r with step := t + 1, rows := rows, acc := acc, waitFrom := s.time.cmdClk
                                            creditFrom := if r.waitsCredit p then r.creditFrom else s.time.cmdClk
                                            present := r.present.filter (fun x => x != t) })
      stallBy := s.stallDue })
  if p.bwd then
    let keys := ringKeys a n (if t = 0 then fun _ => fzero else s.slotWord c st t)
    let b := a.bwdChunk kv o rows keys
    let acc := ringRows a n b.kv
    let w := a.stepAdds b.adds
    match s.outFault c r.stage w with
    | some x => s.failDemand slot r.stage st.op x
    | none =>
    let s := if a.p.accum then s.emit slot r.stage st w else s
    let s1 := if t = 0 then s else s.landVa (some slot) c.ctx (slotVa p n t + accOff p n) (accImage p acc)
    next s1 b.dq (if t = 0 then acc else r.acc) b.sat
  else
    let b := a.fwdChunk kv o rows
    let s1 := next s b.1 [] b.2
    if t ≠ 0 ∧ t + 1 = p.ringLen then (s1.returnCredit slot p (ringHash st.pb)).1 else s1

/-- The outputs of a backward ring: dK and dV from the accumulators that have come round; dQ from its rows, in ACCUM mode from the buffer
later on. -/
def State.ringBwdOut (s : State) (c : Cmd) (st : Stage) (r : RingSt) : WorkOut :=
  let a := s.atIn c r.stage st
  let p := a.p
  let word : Nat → Word := if p.ringLen = 1 then
      fun i => nth fzero (nth [] r.acc (i / max 1 p.dl)) (i % max 1 p.dl)
    else s.slotWord c st p.ringLen
  let q := if p.accum then ([], []) else a.dqOut (dqRow r.rows p)
  let kv := a.dkvOut (ringKeys a st.shard word)
  { outs := q.1 ++ kv.1 ++ a.deltaOut, health := st.byQuery q.2 ++ st.byKey kv.2, oc := [(.attFm, a.maskedRows)] }

/-- A ring stage has gone round: a chain goes on to its next ring; the outputs of an attention command leave. -/
def State.ringFinish (s : State) (slot : Nat) (c : Cmd) (st : Stage) (r : RingSt) : State :=
  let c1 := { c with rung := c.rung ++ [(r.stage, r.rows)] }
  if c.chained then s.setCmd slot (some { c1 with ring := s.ringInit c1 })
  else
    let w := if st.op = 3 then s.fwdWork c1 r.stage st ⟨0, st.units⟩ else s.ringBwdOut c st r
    match s.outFault c r.stage w with
    | some x => s.failDemand slot r.stage st.op x
    | none =>
      let s1 := (s.setCmd slot (some c1)).emit slot r.stage st w
      if st.op = 4 ∧ (atPar 4 st.pb).accum then (s1.modCmd slot (fun c => { c with info := 1, stallBy := s.stallDue })).pumpCmd slot
      else s1.worked slot

/-- Every step has been computed, every chunk sent on and acknowledged, and the own accumulators are back. -/
def RingSt.over (r : RingSt) (p : AtPar) : Bool :=
  r.step == p.ringLen && r.sent == ringLimit p && r.owed == 0 && (!p.bwd || r.accIn || p.ringLen == 1)

/-- No sequence of the stage has a query: it writes nothing (R133), and its chunks are empty. -/
def Stage.idle (st : Stage) : Bool := st.seqs.all (fun q => q.qLen == 0)

/-- A step of a ring has been computed: the tiles of its steps that no later one asks for go, and the streams run ahead (R267). -/
def State.stepDone (s : State) (slot : Nat) (steps : List UnitStep) : State :=
  match s.cmd? slot with
  | none => s
  | some c => if c.ended then s else (s.setCmd slot (some (c.dropTiles steps (s.stepsAhead { c with eaten := 0 })))).runAhead slot false

/-- Compute the step of a ring whose chunk is there, once its tiles are: the state, and `true` when nothing is waited for. -/
def State.ringStep (s : State) (slot : Nat) (c : Cmd) (st : Stage) (r : RingSt) : State × Bool :=
  if !r.there (atPar st.op st.pb) then (s, true)
  else
    let g := s.ready slot c
    if !g.2 then g
    else
      match g.1.cmd? slot with
      | some c => ((g.1.ringCompute slot c st r).stepDone slot (g.1.stepsNow c), true)
      | none => g

/-- What a ring member does: compute the step whose chunk is there, send what may leave, finish. -/
def State.ringGo (s : State) (slot : Nat) (c : Cmd) (st : Stage) (r : RingSt) : State :=
  let p := atPar st.op st.pb
  if st.idle then s.ringFinish slot c st r
  else if s.ringDown then s.ringLinkDown slot r.stage
  else if r.over p then s.ringFinish slot c st r
  else
    let a := s.ringStep slot c st r
    if !a.2 then a.1
    else
      let f := a.1.freeSlotsOf slot p (ringHash st.pb)
      let q := State.ringPump slot (ringLimit p + 1) f.1
      if f.2 ∨ q.2 then q.1.ringLinkDown slot r.stage else q.1

/-! ## Receiving (R136–R138) -/

/-- A frame that is discarded counts in RING_BAD, and is logged (R136). -/
def State.ringBad (s : State) (slot : Option Nat) (f : RingFrame) : State :=
  let a : LogArg := { status := stRange, unit := uPort, where_ := 7, addr := f.ringTag.toNat }
  match slot with
  | some k => (s.logCmd k a).count k .ringBad 1
  | none => s.logErr a

/-- The ring of the command in a slot: its stage and state. -/
def State.ringOf (s : State) (slot : Nat) : Option (Cmd × Stage × RingSt) :=
  match s.cmd? slot with
  | none => none
  | some c =>
    match c.ring, c.ringStage with
    | some r, some (st, _) => if slot < 4096 ∧ !c.ended ∧ c.phase ≠ .worked then some (c, st, r) else none
    | _, _ => none

/-- The bytes of the image that a member expects next. -/
def ringExpect (p : AtPar) (n : Nat) (r : RingSt) : Nat := if r.rxStep = p.ringLen then p.accBytes n else p.slotBytes n

/-- The frame is the one expected next, its payload within the image. -/
def ringMatches (p : AtPar) (n : Nat) (r : RingSt) (f : RingFrame) : Bool :=
  decide (r.rxStep ≤ ringLimit p) && f.step.toNat == r.rxStep && f.origin.toNat == p.originAt r.rxStep
    && f.ftype == (if r.rxStep = p.ringLen then 2 else 1) && f.offset.toNat == r.rxOff
    && decide (r.rxOff + f.payload.length ≤ ringExpect p n r)

/-- RING_CHUNK_RX: a frame for the ring of a command lands in its slot, watched as a peer's write (R274). Another SHAPE_HASH ends the command
whatever else is wrong with the frame (R136; log 22). -/
def ringChunkOp (slot : Nat) (f : RingFrame) (s : State) : State :=
  match s.ringOf slot with
  | none => s.ringBad none f
  | some (c, st, r) =>
    let p := atPar st.op st.pb
    let n := st.shard
    if f.ringTag ≠ p.ringTag then s.ringBad (some slot) f
    else if f.shapeHash ≠ ringHash st.pb then s.failCmd slot stFormat 0 r.stage { status := stFormat, unit := uPort, where_ := 7 }
    else if !ringMatches p n r f then s.ringBad (some slot) f
    else
      let base := slotVa p n r.rxStep + (if r.rxStep = p.ringLen then accOff p n else 0)
      let got := r.rxOff + f.payload.length
      let full := got == ringExpect p n r
      (s.landVa none c.ctx (base + r.rxOff) f.payload).setRing slot (fun r => { r with
        rxOff := if full then 0 else got
        rxStep := if full then r.rxStep + 1 else r.rxStep
        present := if full && r.rxStep != p.ringLen then r.present ++ [r.rxStep] else r.present
        accIn := r.accIn || (full && r.rxStep == p.ringLen)
        waitFrom := if full then s.time.cmdClk else r.waitFrom })

/-- RING_CREDIT_RX: one slot of the S+ neighbour is free again; a neighbour has two (R135, R138). A credit is known by its tag and FTYPE alone
(log 22). -/
def ringCreditOp (slot : Nat) (f : RingFrame) (s : State) : State :=
  match s.ringOf slot with
  | none => s.ringBad none f
  | some (_, st, _) =>
    let p := atPar st.op st.pb
    if f.ringTag ≠ p.ringTag ∨ f.ftype ≠ 3 then s.ringBad (some slot) f
    else
      let s1 := s.setRing slot (fun r => { r with credits := min 2 (r.credits + 1), creditFrom := s.time.cmdClk })
      let q := State.ringPump slot (ringLimit p + 1) s1
      if q.2 then q.1.ringLinkDown slot 0 else q.1

/-! ## Cancel and time-out (R140) -/

/-- The slot of the ring command with a tag. -/
def State.ringByTag (s : State) (tag : Word) : Option Nat :=
  (s.cmdList.find? (fun e => decide (e.1 < 4096) && e.2.ringStages.any (fun x => u32At x.1.pb 0x2C == tag.toNat))).map (·.1)

/-- RING_CANCEL: the cancel goes on out of the other S port, and the command ends. -/
def ringCancelOp (port : Nat) (tag : Word) (s : State) : State :=
  match s.ringByTag tag with
  | none => s
  | some slot =>
    match s.cmd? slot with
    | none => s
    | some c =>
      if c.ended then s
      else
        let s1 := s.cancelOut slot (if port = 6 then 7 else 6) tag.toNat
        let s2 := s1.logCmd slot { status := stAborted, unit := uPort, where_ := port, addr := tag.toNat }
        s2.endQuiet slot stAborted 0 0

/-- A started member waits for a chunk, or for its accumulators. -/
def RingSt.waitsChunk (r : RingSt) (p : AtPar) : Bool :=
  (decide (0 < r.step) && decide (r.step < p.ringLen) && !r.present.contains r.step)
    || (r.step == p.ringLen && p.bwd && !r.accIn && p.ringLen != 1)

/-- One of its waits has lasted for n ns (R140). -/
def RingSt.waited (r : RingSt) (p : AtPar) (now n : Nat) : Bool :=
  (r.waitsCredit p && decide (r.creditFrom.toNat + n ≤ now)) || (r.waitsChunk p && decide (r.waitFrom.toNat + n ≤ now))

/-- RING_TIMEOUT. -/
def ringTimeoutOp (slot : Nat) (s : State) : State :=
  if s.trc.dump.busy then s
  else
    match s.ringOf slot with
    | none => s
    | some (c, st, r) =>
      if c.started ∧ r.waited (atPar st.op st.pb) s.time.cmdClk.toNat (s.cfg.collMs * 1000000) then
        s.failCmd slot stTimeout 0x05 r.stage { status := stTimeout, unit := uPort, where_ := 7 }
      else s

/-! ## Rows -/

def attnOp (op slot : Nat) (s : State) : State :=
  let s := s.settleMigs
  match s.workable slot op false with
  | none => s
  | some c =>
    match c.ring, c.ringStage with
    | some r, some (st, _) => s.ringGo slot c st r
    | _, _ =>
      if op = 3 then s.computeStages slot c
      else
        match c.stages with
        | st :: _ => bwdPlainOp slot c st s
        | [] => s

/-- A chain goes round the ring of each attention stage that has one, and then computes its stages. -/
def chainOp (slot : Nat) (s : State) : State :=
  let s := s.settleMigs
  match s.workable slot 0 true with
  | none => s
  | some c =>
    match c.ring, c.ringStage with
    | some r, some (st, _) => s.ringGo slot c st r
    | _, _ => s.computeStages slot c

/-- ATTN_FWD. -/
def execAttnFwd (slot : Nat) (s : State) : Host.Outcome State Fault Refusal := .next (attnOp 3 slot s)
/-- ATTN_BWD. -/
def execAttnBwd (slot : Nat) (s : State) : Host.Outcome State Fault Refusal := .next (attnOp 4 slot s)
/-- FUSED_CHAIN (R280–R285). -/
def execFusedChain (slot : Nat) (s : State) : Host.Outcome State Fault Refusal := .next (chainOp slot s)
/-- RING_CHUNK_RX. -/
def execRingChunkRx (slot : Nat) (f : RingFrame) (s : State) : Host.Outcome State Fault Refusal := .next (heldByDump (.ringChunkRx slot f) (ringChunkOp slot f) s)
/-- RING_CREDIT_RX. -/
def execRingCreditRx (slot : Nat) (f : RingFrame) (s : State) : Host.Outcome State Fault Refusal := .next (heldByDump (.ringCreditRx slot f) (ringCreditOp slot f) s)
/-- RING_CANCEL. -/
def execRingCancel (port : Nat) (tag : Word) (s : State) : Host.Outcome State Fault Refusal := .next (heldByDump (.ringCancel port tag) (ringCancelOp port tag) s)
/-- RING_TIMEOUT. -/
def execRingTimeout (slot : Nat) (s : State) : Host.Outcome State Fault Refusal := .next (ringTimeoutOp slot s)

end Sys2Proof.Machine
end

