-- ==== Sys2Proof/Machine/Ports.lean ====
section
/-!
DEFINITION. Rudom ports (13_rudom_and_timetable.md): states and training (R351–R353), the traffic of a port that goes DOWN
(R354), the receiving side of the link layer (R344–R346), and the rows TRAIN, DISABLE, FLIT_RX, REPLAY_TIMEOUT,
TRAIN_TIMEOUT, LANE_LOCK_LOSS, CREDIT_RETURN_TIMER, CREDIT_STALL and DEPARTURE_WINDOW.
-/
namespace Sys2Proof.Machine

/-! ## States -/

/-- The STATE code of FAB_PSTAT. -/
def PortState.code : PortState → Nat
  | .off => 0
  | .down => 1
  | .training => 2
  | .up => 3
  | .retraining => 4

def State.modPort (s : State) (k : Nat) (f : Port → Port) : State := s.setPort k (f (s.port k))

/-- A port enters a state: a LINK record (R473), STATE and REASON where FAB_PSTAT has them. -/
def State.enterPort (s : State) (k : Nat) (p : Port) : State :=
  (s.setPort k p).trace false ⟨0x07, 0x18 + k, 0, 0, 0, s.time.now, BitVec.ofNat 64 (p.state.code + putAt p.reason 36), 0⟩

/-- A lane that fails in service is reported in the error log (R27); the spec gives the entry no status: 0x00 (DESIGN CHOICE, log 90). -/
def State.logLane (s : State) (k : Nat) : State := s.logPort k stOk 0 0x04

/-- An expiry of the link layer is logged (R371). -/
def State.logLink (s : State) (k : Nat) : State := s.logPort k stTimeout 0 0x01

/-! ## Training (R352, R353) -/

/-- The physical receive lane of a port that self-test found failed. -/
def State.rxFail (s : State) (k : Nat) : Nat :=
  match s.inv.lanes.find? (fun l => l.1 == k && l.2.1 == 1) with
  | some l => l.2.2
  | none => 0xFF

/-- Slots of a packet at the head of a run of slots, and its channel. -/
def headPacket (b : List Byte) : Nat × Nat :=
  let p := packetOf (b.take 32) []
  (field (u16At b 6) 8 0 + 1, p.vc)

/-- Whole packets that a receiver holds, by channel (R352 step 4). -/
def heldSlots (vc : Nat) : Nat → List Byte → Nat
  | 0, _ => 0
  | fuel + 1, b =>
    if b.length < 32 then 0
    else
      let h := headPacket b
      let kind := u8At b 4 % 16
      let own := if h.2 = vc ∧ kind ≠ 0 ∧ kind ≠ 9 ∧ kind ≠ 0xA ∧ 32 * h.1 ≤ b.length then h.1 else 0
      own + heldSlots vc fuel (b.drop (32 * h.1))

/-- Slots of a channel that transit packets from port k hold until they leave. -/
def State.transitSlots (s : State) (k vc : Nat) : Nat :=
  (s.fab.ports.flatMap (fun e => e.2.queues.flatMap (·.2))).foldl (fun (a : Nat) (t : TxPkt) =>
    if t.from_ = some (k, vc) then a + t.p.len + 1 else a) 0

/-- Free slots of a channel of a port. -/
def State.freeSlots (s : State) (k vc : Nat) : Nat :=
  let p := s.port k
  vcCap vc - heldSlots vc (p.rxSlots.length / 32) p.rxSlots - s.transitSlots k vc

/-- The body of a TRAIN flit. -/
def State.trainBody (s : State) (k : Nat) : List Byte :=
  let p := s.port k
  let n := s.cfg.node
  let b1 (x : Nat) : List Byte := toLe 1 x
  b1 p.tstate ++ b1 k ++ toLe 2 n.node ++ b1 n.cd ++ b1 n.cp ++ b1 n.ct ++ b1 n.cs ++ b1 n.ndM1 ++ b1 n.npM1 ++ b1 n.ntM1
    ++ b1 n.nsM1 ++ b1 (s.rxFail k) ++ b1 p.attempt ++ toLe 2 0 ++ (List.range 8).flatMap (fun vc => toLe 2 (s.freeSlots k vc))
    ++ List.replicate 224 0

/-- A TRAIN flit leaves. From CREDIT on it advertises the free slots: no credit for them is still to be returned (R350, R353). -/
def State.sendTrain (s : State) (k : Nat) : State :=
  let f : Flit := ⟨2, 15, 0, 0, false, false, false, s.trainBody k⟩
  s.modPort k (fun p => { p.send f with doneSent := p.doneSent || p.tstate == 5, ret := if 4 ≤ p.tstate then [] else p.ret })

/-- An attempt begins in LOCK. -/
def State.beginAttempt (s : State) (k n : Nat) : State :=
  (s.modPort k (fun p => { p with attempt := n, tstate := 1, good := 0, doneSent := false, trainAt := s.time.clk })).sendTrain k

/-- A port may train: it is used, its map allows it, and the image is loaded (R26, R341, R351). -/
def State.trainable (s : State) (k : Nat) : Bool := s.cfg.cfgDone && !s.inv.portsBad.contains k

/-- DOWN to TRAINING. -/
def State.beginTraining (s : State) (k : Nat) : State :=
  if s.trainable k then (s.enterPort k { s.port k with state := .training }).beginAttempt k 1 else s

/-- UP to RETRAINING. -/
def State.retrain (s : State) (k reason : Nat) : State :=
  let p := s.port k
  (s.enterPort k { p with state := .retraining, reason := reason, retrains := min 255 (p.retrains + 1) }).beginAttempt k 1

/-! ## A port goes DOWN (R354) -/

/-- The wagon of a packet is settled: its command ends, a speculative tile is dropped. `gone` says that it never left. -/
def State.settleWagon (s : State) (k w : Nat) (st detail : Byte) (gone : Bool) : State :=
  match s.wagon? w with
  | none => s
  | some x =>
    let s1 := if gone then s.dropWagon w else s.modWagon w (fun x => { x with timedOut := true })
    let s2 :=
      if x.discard ∨ x.timedOut then s1
      else if x.req.kind = .read ∧ x.req.spec then s1.dropTile x
      else s1.failCmd x.req.slot st detail x.req.stage { status := st, unit := uPort, where_ := k, addr := x.req.line.addr }
    s2.settleDual x.req.slot

/-- The command of a frame is ended. -/
def State.settleSlot (s : State) (k slot : Nat) (st detail : Byte) : State :=
  s.failCmd slot st detail 0 { status := st, unit := uPort, where_ := k }

/-- A packet is dropped and logged (R354, R359). -/
def State.dropPacket (s : State) (k : Nat) (p : Packet) (st : Byte) : State :=
  (s.logPort k st p.dst.toNat 0).bump (cntPort k 5) 1

/-- A packet that had not left is settled. -/
def State.settleUnsent (s : State) (k : Nat) (t : TxPkt) : State :=
  match t.wagon, t.slot with
  | some w, _ => s.settleWagon k w stLinkDown 0 true
  | none, some slot => s.settleSlot k slot stLinkDown 0
  | none, none =>
    if t.from_.isSome ∧ (t.p.kind = 1 ∨ t.p.kind = 2 ∨ t.p.kind = 3) then s.errRsp t.p stLinkDown
    else if t.p.linkLocal then s else s.dropPacket k t.p stLinkDown

/-- A packet in the replay buffer is dropped. -/
def State.settleReplay (s : State) (k : Nat) (e : ReplayEnt) : State :=
  match e.wagon, e.slot with
  | some w, _ => s.settleWagon k w stTimeout 0x01 false
  | none, some slot => s.settleSlot k slot stTimeout 0x01
  | none, none => s

/-- Slots of the whole packets at the front of a receive stream. -/
def wholeSlots : Nat → List Byte → Nat
  | 0, _ => 0
  | fuel + 1, b =>
    if b.length < 32 then 0
    else
      let n := (headPacket b).1
      if b.length < 32 * n then 0 else n + wholeSlots fuel (b.drop (32 * n))

/-- The receive stream cut to its whole packets, which are still delivered; the rest of a packet that has not come whole never comes. -/
def Port.keepWhole (p : Port) : Port :=
  let n := wholeSlots (p.rxSlots.length / 32) p.rxSlots
  { p with rxSlots := p.rxSlots.take (32 * n), rxRpl := p.rxRpl.take n, rxAt := p.rxAt.take n }

/-- A port goes DOWN, and its traffic is settled. -/
def State.portDown (s : State) (k reason : Nat) : State :=
  let p := s.port k
  let fresh := { p.keepWhole with state := .down, reason := reason, replay := [], inReplay := [], runs := 0, queues := [], ret := []
                                  credits := [], nakDue := false, nakGone := false, tstate := 0, good := 0 }
  let s1 := s.enterPort k fresh
  let s2 := p.inReplay.foldl (fun s e => s.settleReplay k e) s1
  (p.queues.flatMap (·.2)).foldl (fun s t => (s.giveBack t).settleUnsent k t) s2

/-- An attempt has failed (R351): DOWN from TRAINING; from RETRAINING the next attempt, or DOWN after the third. -/
def State.attemptFailed (s : State) (k reason : Nat) : State :=
  let p := s.port k
  if p.state = .retraining ∧ p.attempt < 3 then s.beginAttempt k (p.attempt + 1) else s.portDown k reason

/-! ## Entering UP -/

/-- The exchange number of the TIME request that a flit carries: such a packet stands first in its flit. -/
def Flit.timeReq (f : Flit) : Option Nat :=
  let q := packetOf (f.body.take 32) []
  if q.kind = 0xA ∧ q.arg.toNat % 256 = 1 then some q.tag.toNat else none

/-- Resend every unacknowledged flit (R346); they take their time on the link, and a TIME request among them yields no sample (R363). -/
def Port.replayAll (p : Port) (now : Dword) : Port :=
  p.replay.foldl (fun (q : Port) e => q.send { e.2 with rpl := true })
    { p with replay := p.replay.map (fun (e : Dword × Flit) => (now, e.2))
             busyTo := max p.busyTo (100 * now.toNat) + flitTime p.replay.length
             reqAt := (p.replay.filterMap (fun (e : Dword × Flit) => e.2.timeReq)).foldl (fun t n => Tab.set none t n none) p.reqAt }

/-- Resend every unacknowledged flit of a port; each is a DATA flit sent (R469). -/
def State.replaySend (s : State) (k : Nat) (p : Port) : State :=
  (s.setPort k (p.replayAll s.time.clk)).bump (cntPort k 0) p.replay.length

/-- Slots of unacknowledged packets of a channel. -/
def Port.unackedSlots (p : Port) (vc : Nat) : Nat :=
  p.inReplay.foldl (fun a e => if e.vc = vc then a + e.slots else a) 0

/-- R352 succeeds: the port is UP; from TRAINING its numbering starts anew, from RETRAINING it replays. -/
def State.portUp (s : State) (k peerNode : Nat) : State :=
  let p := s.port k
  let again := p.state == .retraining
  let credits := (List.range 8).foldl (fun t vc => Tab.set 0 t vc (Tab.get 0 p.adv vc - p.unackedSlots vc)) []
  let peerPort := if k % 2 = 0 then k + 1 else k - 1
  let p1 : Port := { p with state := .up, served := true, credits := credits, retAt := s.time.clk, runs := 0, peerNode := peerNode
                            peerPort := peerPort, tstate := 0, good := 0, attempt := 0 }
  if again then ((s.enterPort k p1).replaySend k p1).pump k
  else
    (s.enterPort k { p1 with txSeq := 0, rxNext := 0, ackV := false, nakDue := false, nakGone := false, replay := [], inReplay := [] }).pump k

/-! ## A TRAIN flit arrives -/

/-- The identity that a TRAIN body carries meets R352 step 2. -/
def State.identOk (s : State) (k : Nat) (b : List Byte) : Bool :=
  let n := s.cfg.node
  let a := k / 2
  let step := if k % 2 = 0 then 1 else n.size a - 1
  let coord (x : Nat) : Nat := u8At b (4 + x)
  u8At b 1 == (if k % 2 = 0 then k + 1 else k - 1)
    && (List.range 4).all (fun x => coord x == (if x = a then (n.own x + step) % n.size x else n.own x))
    && (List.range 4).all (fun x => u8At b (8 + x) + 1 == n.size x)

/-- The lane that the peer found failed moves to the spare (R341, R353). `none` when the direction has two failed lanes: the spare carries
another lane, or has failed itself while it carries one. The map never changes in service: at a port that has been UP since the cold start, a
newly failed lane fails the attempt (R27; DEDUCED, log 94). A byte above 8 names no lane. -/
def Port.moveLane (p : Port) (lane : Nat) : Option Port :=
  if 8 < lane ∨ (p.spareTx ∧ p.txLane = lane) then some p
  else if p.spareTx then none
  else if lane = 8 then some p
  else if p.served then none
  else some { p with spareTx := true, txLane := lane }

/-- A TRAIN flit is one of the eight that a state needs. -/
def Port.counts (p : Port) (b : List Byte) : Bool := decide (p.tstate ≤ u8At b 0) && decide (u8At b 0 ≤ 5)

/-- The advertised counts of a TRAIN body. -/
def advOf (b : List Byte) : Tab Nat := (List.range 8).foldl (fun t vc => Tab.set 0 t vc (u16At b (16 + 2 * vc))) []

/-- A TRAIN flit that counts: after eight in a row the end moves on. -/
def State.trainStep (s : State) (k : Nat) (b : List Byte) : State :=
  let p := s.port k
  let p1 := { p with adv := if 4 ≤ u8At b 0 then advOf b else p.adv, good := p.good + 1 }
  if p1.good < 8 then (s.setPort k p1).sendTrain k
  else if p1.tstate < 5 then (s.setPort k { p1 with tstate := p1.tstate + 1, good := 0 }).sendTrain k
  else if p1.doneSent then (s.setPort k p1).portUp k (u16At b 2)
  else (s.setPort k { p1 with good := 7 }).sendTrain k

/-- A TRAIN flit in TRAINING or RETRAINING. -/
def State.trainFlit (s : State) (k : Nat) (b : List Byte) : State :=
  let p := s.port k
  if !p.counts b then (s.setPort k { p with good := 0 }).sendTrain k
  else if 2 ≤ p.tstate ∧ !s.identOk k b then s.attemptFailed k 2
  else if 3 ≤ u8At b 0 then
    match p.moveLane (u8At b 12) with
    | some p1 => (s.setPort k p1).trainStep k b
    | none => (s.logLane k).attemptFailed k 1
  else s.trainStep k b

/-! ## FLIT_RX (R344–R346) -/

/-- An acknowledgement covers flits of the replay buffer. -/
def Port.acked (p : Port) (a : BitVec 12) : Port :=
  if p.replay.any (fun e => e.2.seq == a) then
    let left := (p.replay.dropWhile (fun e => e.2.seq != a)).drop 1
    let gone := (p.replay.takeWhile (fun e => e.2.seq != a)).map (fun (e : Dword × Flit) => e.2.seq) ++ [a]
    { p with replay := left, runs := 0, inReplay := p.inReplay.filter (fun e => !gone.contains e.seq) }
  else p

/-- A replay, or RETRAINING after eight without progress (R346). -/
def State.replayPort (s : State) (k : Nat) : State :=
  let p := s.port k
  if p.replay = [] then s
  else if 8 ≤ p.runs then (s.logLink k).retrain k 4
  else s.replaySend k { p with runs := p.runs + 1, replays := min 0xFFFFFFFF (p.replays + 1) }

/-- A discarded flit sets NAK, unless one has gone since the last flit accepted in order (R345). -/
def Port.noteBad (p : Port) : Port := { p with nakDue := p.nakDue || !p.nakGone }

/-- An UP port answers what it has received: what may leave, or an IDLE flit that carries ACK. -/
def State.answerFlit (s : State) (k : Nat) : State :=
  let n := (s.port k).sent.length
  let s1 := s.pump k
  let p := s1.port k
  if p.state = .up ∧ p.sent.length = n then s1.setPort k (p.send idleFlit) else s1

/-- A DATA flit whose SEQ is an earlier one: a duplicate (R345, R465). -/
def Port.earlier (p : Port) (f : Flit) : Bool := decide ((p.rxNext - 1 - f.seq).toNat < 2048)

/-- A DATA flit at an UP port that is no duplicate. -/
def Port.takeData (p : Port) (now : Dword) (f : Flit) : Port :=
  if f.seq = p.rxNext then
    { p with rxNext := p.rxNext + 1, ackV := true, nakDue := false, nakGone := false, rxSlots := p.rxSlots ++ f.body
             rxRpl := p.rxRpl ++ List.replicate 8 f.rpl, rxAt := p.rxAt ++ List.replicate 8 now }
  else p.noteBad

/-- ACK and NAK of a flit (R345, R346). -/
def State.takeAck (s : State) (k : Nat) (f : Flit) : State :=
  let p := s.port k
  let p1 := if f.ackV then p.acked f.ack else p
  let s1 := s.setPort k p1
  if f.nak ∧ p1.state = .up then s1.replayPort k else s1

def flitOp (k : Nat) (bytes : List Byte) (s : State) : State :=
  let p := s.port k
  if p.state = .off then s
  else
    match parseFlit bytes with
    | none =>
      let p1 := { p with crcErr := min 0xFFFFFFFF (p.crcErr + 1) }
      if p.state = .up then (s.setPort k p1.noteBad).answerFlit k else s.setPort k { p1 with good := 0 }
    | some f =>
      if f.ftype = 2 then
        match p.state with
        | .down => if s.trainable k then (s.beginTraining k).trainFlit k f.body else s
        | .up => (((s.takeAck k f).logPort k stOk 0 0x01).retrain k 7).trainFlit k f.body
        | _ => (s.takeAck k f).trainFlit k f.body
      else if p.state = .up ∧ f.ftype = 1 ∧ p.earlier f then (s.bump (cntPort k 1) 1).answerFlit k
      else if p.state = .up then
        let s1 := s.takeAck k f
        if f.ftype = 1 ∧ (s1.port k).state = .up then ((s1.modPort k (fun p => p.takeData (s.portTime k) f)).bump (cntPort k 1) 1).answerFlit k
        else s1.pump k
      else s

/-! ## The other rows of a port -/

/-- A write of FAB_PCTRL (R351): only the management core may make it. -/
def pctrlOp (mst : Master) (k op : Nat) (s : State) : State :=
  if mst ≠ .m then s.logReg mst (0x701008 + 0x100 * k)
  else
    let st := (s.port k).state
    if op = 1 then
      match st with
      | .down => s.beginTraining k
      | .up => s.retrain k 0
      | _ => s
    else if op = 2 then (if st = .off then s else s.portDown k 6)
    else s

/-- REPLAY_TIMEOUT (R346). -/
def replayTimeoutOp (k : Nat) (s : State) : State :=
  let p := s.port k
  match p.state, p.replay with
  | .up, e :: _ => if e.1.toNat + s.cfg.replayNs ≤ s.time.clk.toNat then (s.logLink k).replayPort k else s
  | _, _ => s

/-- TRAIN_TIMEOUT (R351). -/
def trainTimeoutOp (k : Nat) (s : State) : State :=
  let p := s.port k
  if (p.state = .training ∨ p.state = .retraining) ∧ p.trainAt.toNat + 2000000 ≤ s.time.clk.toNat then
    (s.logLink k).attemptFailed k 3
  else s

/-- LANE_LOCK_LOSS (R27, R351). -/
def laneLossOp (k : Nat) (s : State) : State := if (s.port k).state = .up then (s.logLane k).retrain k 1 else s

/-- CREDIT_RETURN_TIMER (R350). -/
def creditTimerOp (k : Nat) (s : State) : State :=
  let p := s.port k
  if p.state = .up ∧ p.ret ≠ [] ∧ p.retAt.toNat + 64 ≤ s.time.clk.toNat then
    let w (a : Nat) : Nat := (List.range 4).foldl (fun x i => x + putAt (Tab.get 0 p.ret (a + i)) (16 * i)) 0
    let c := { s.mkPacket s.cfg.node.node 9 (w 0) 0 [] with arg2 := BitVec.ofNat 64 (w 4) }
    (s.setPort k { p with ret := [], retAt := s.time.clk }).enqueue k 8 ⟨c, none, none, none, s.time.clk⟩
  else s

/-- CREDIT_STALL (R350). -/
def creditStallOp (k vc : Nat) (s : State) : State :=
  let p := s.port k
  match p.queue vc with
  | t :: _ =>
    if p.state = .up ∧ vc < 8 ∧ p.credit vc < t.p.len + 1 ∧ t.since.toNat + 1000000 ≤ s.time.clk.toNat then
      (s.logLink k).retrain k 5
    else s
  | [] => s

/-- The last windows of a class that have ended by `now` and opened in the last `waited` ns, by their start times. -/
def missedIn (period : Nat) (es : List DepEnt) (now waited cls : Nat) : List Nat :=
  es.filterMap (fun e =>
    let ago := (now + period - (e.offset + e.length) % max 1 period) % max 1 period + e.length
    if e.cls = cls ∧ ago ≤ waited ∧ ago ≤ now then some (now - ago) else none)

/-- The windows of a packet's class that have opened and ended since it is the first of its channel: it missed them (R368; log 120). -/
def State.missedBy (s : State) (k : Nat) (t : TxPkt) : List Nat :=
  missedIn (s.ttPort k).periodNs ((List.range (s.ttPort k).nent).map (s.depEnt k)) (s.portTime k).toNat (s.time.clk - t.since).toNat t.p.depClass.toNat

/-- A missed departure of a port is traced (R473), and logged while a supply warning slows the cores (R456). -/
def State.missedAt (s : State) (k start : Nat) : State :=
  let s1 := s.trace false ⟨0x08, 0x18 + k, 0, 0, 0, s.time.now, BitVec.ofNat 64 start, 0⟩
  if s.slowed then s1.logPort k stOk start 0 else s1

/-- The departures that the first packet of a BULK channel of a port has missed, each reported once. -/
def State.noteMissed (s : State) (k vc : Nat) : State :=
  let p := s.port k
  match s.cfg.profile, p.queue vc with
  | .express, t :: _ =>
    let l := (s.missedBy k t).filter (fun x => decide (Tab.get 0 p.missed vc ≤ x))
    l.foldl (fun s x => s.missedAt k x)
      (s.setPort k { p with missed := Tab.set 0 p.missed vc (l.foldl (fun a x => max a (x + 1)) (Tab.get 0 p.missed vc)) })
  | _, _ => s

/-- TRAIN. -/
def execTrain (mst : Master) (port : Nat) (s : State) : Host.Outcome State Fault Refusal := regRow (.train mst port) mst s (pctrlOp mst port 1)
/-- DISABLE. -/
def execDisable (mst : Master) (port : Nat) (s : State) : Host.Outcome State Fault Refusal := regRow (.disable mst port) mst s (pctrlOp mst port 2)
/-- FLIT_RX. -/
def execFlitRx (port : Nat) (bytes : List Byte) (s : State) : Host.Outcome State Fault Refusal := .next (flitOp port bytes s)
/-- REPLAY_TIMEOUT. -/
def execReplayTimeout (port : Nat) (s : State) : Host.Outcome State Fault Refusal := .next (replayTimeoutOp port s)
/-- TRAIN_TIMEOUT. -/
def execTrainTimeout (port : Nat) (s : State) : Host.Outcome State Fault Refusal := .next (trainTimeoutOp port s)
/-- LANE_LOCK_LOSS. -/
def execLaneLockLoss (port : Nat) (s : State) : Host.Outcome State Fault Refusal := .next (laneLossOp port s)
/-- CREDIT_RETURN_TIMER. -/
def execCreditReturnTimer (port : Nat) (s : State) : Host.Outcome State Fault Refusal := .next (creditTimerOp port s)
/-- CREDIT_STALL. -/
def execCreditStall (port vc : Nat) (s : State) : Host.Outcome State Fault Refusal := .next (creditStallOp port vc s)
/-- DEPARTURE_WINDOW (R368): the packets that may leave now leave; departures that BULK packets have missed are reported. -/
def departureOp (k : Nat) (s : State) : State := ((s.noteMissed k 4).noteMissed k 5).pump k

/-- DEPARTURE_WINDOW. -/
def execDepartureWindow (port : Nat) (s : State) : Host.Outcome State Fault Refusal := .next (departureOp port s)

end Sys2Proof.Machine
end

