-- ==== Sys2Proof/Machine/TimeSync.lean ====
section
/-!
DEFINITION. Fabric time (13_rudom_and_timetable.md, R361–R365): the tick, the time exchange of a follower, holdover, the
REF_SYNC edges of an anchor, and the rows TIME_EXCHANGE_TIMER, TIME_REQ, TIME_RSP, TIME_SAMPLE_TIMEOUT,
HOLDOVER_TIMEOUT, REF_SYNC_EDGE and TT_ARM.
-/
namespace Sys2Proof.Machine

def State.setTime (s : State) (t : TimeSt) : State := { s with time := t }

/-! ## The tick (R361) -/

/-- What the slewed tick of a thousand adds to its 4 ns, and the time with that much less left to slew. In holdover the
counter keeps the mean slew of its last 1.024 ms, the last 256 slewed ticks (R365). -/
def TimeSt.slewTick (t : TimeSt) : Int × TimeSt :=
  if t.holdover then
    let a := t.holdAcc + t.holdSum
    let d : Int := if 256 ≤ a then 1 else if a ≤ -256 then -1 else 0
    (d, { t with holdAcc := a - 256 * d })
  else
    let d : Int := if 0 < t.slew then 1 else if t.slew < 0 then -1 else 0
    (d, { t with slew := t.slew - d })

/-- One tick of the 250 MHz counter. `frozen` stops the command clock, `held` the admission clock. -/
def TimeSt.tick (t : TimeSt) (frozen held : Bool) : TimeSt :=
  let last := t.phase == 999
  let r := if last then t.slewTick else (0, t)
  let n : Nat := (4 + r.1).toNat
  let t1 := r.2
  let clk := t.clk + BitVec.ofNat 64 n
  let slews := if r.1 = 0 then t1.slews else t1.slews ++ [(clk, r.1)]
  { t1 with
    now := t.now + BitVec.ofNat 64 n
    clk := clk
    cmdClk := if frozen then t.cmdClk else t.cmdClk + BitVec.ofNat 64 n
    admClk := if frozen || held then t.admClk else t.admClk + BitVec.ofNat 64 n
    phase := if last then 0 else t.phase + 1
    slews := slews.filter (fun e => decide (clk.toNat ≤ e.1.toNat + 1024000)) }

/-- Fabric time is moved on in one step (R362, R363). -/
def TimeSt.jump (t : TimeSt) (v : Dword) : TimeSt := { t with now := v }

/-! ## The follower (R363–R365) -/

/-- This device follows another one's time (R362, R363). -/
def State.follower (s : State) : Bool := s.cfg.cfgDone && s.cfg.ttRole == 0

/-- The number of the port that a follower uses for time: while no port serves, the one that it tries, UP_PORT or ALT_PORT in turn (R365). -/
def State.timeTry (s : State) : Nat :=
  if s.time.holdover then (if s.time.tryAlt then s.cfg.ttAlt else s.cfg.ttUp) else s.time.srcPort

/-- The port that a follower uses for time, if there is one. -/
def State.timePort (s : State) : Option Nat := if s.follower ∧ s.timeTry < 8 then some s.timeTry else none

/-- A TIME packet of this device (R364). -/
def State.timePacket (s : State) (arg tag : Nat) (t : Dword) (t3 : Dword) : Packet :=
  { s.mkPacket s.cfg.node.node 0xA t.toNat tag [] with arg := BitVec.ofNat 32 arg, arg2 := t3 }

/-- A link-local packet waits for the next flit that can carry it. -/
def State.sendLocal (s : State) (k : Nat) (p : Packet) : State := s.enqueue k 8 ⟨p, none, none, none, s.time.clk⟩

/-- TIME_EXCHANGE_TIMER. -/
def timeExchangeOp (s : State) : State :=
  match s.timePort with
  | none => s
  | some k =>
    let t := s.time
    if (s.port k).state = .up ∧ t.lastReq.toNat + 16000 ≤ t.clk.toNat then
      let reqs := t.reqs.filter (fun r => r.1 != t.nextTag) ++ [(t.nextTag, s.portTime k)]
      (s.setTime { t with reqs := reqs, nextTag := (t.nextTag + 1) % 512, lastReq := t.clk }).sendLocal k
        (s.timePacket 1 t.nextTag (s.portTime k) 0)
    else s

/-- TIME_REQ, taken in at t2: answered once, at an UP port. -/
def timeReqAt (k : Nat) (p : Packet) (t2 : Dword) (s : State) : State :=
  if (s.port k).state = .up then
    let hops := if s.cfg.ttRole = 1 then 0 else s.time.hops
    let arg := 2 + flagAt s.time.timeOk 8 + putAt (hops % 256) 16
    s.sendLocal k (s.timePacket arg p.tag.toNat t2 (s.portTime k))
  else s

def timeReqOp (k : Nat) (p : Packet) (s : State) : State := timeReqAt k p (s.portTime k) s

/-- Twice the sum of the offsets held, 128 times the estimate of 64 samples. -/
def TimeSt.sum2 (t : TimeSt) : Int := t.samples.foldl (· + ·) 0

/-- Add the estimate in one step: the samples held lose what was added. -/
def TimeSt.stepBy (t : TimeSt) (est : Int) : TimeSt :=
  { t.jump (t.now + BitVec.ofInt 64 est) with samples := t.samples.map (fun x => x - 2 * est), slew := 0 }

/-- Act on the estimate of 64 valid samples (R363); the flag says that a step is logged. TIME_OK follows the upstream device's with every
sample. -/
def TimeSt.act (t : TimeSt) (upOk : Bool) : TimeSt × Bool :=
  if t.samples.length < 64 then ({ t with timeOk := t.locked && upOk }, false)
  else
    let est := Int.tdiv t.sum2 128
    let first := !t.stepped && decide (0 < t.sum2)
    let large := t.stepped && decide (128 * 1000 < t.sum2)
    let t1 := if first || large then t.stepBy est else { t with slew := est }
    let left := t1.sum2
    let locked := decide (-128 ≤ left) && decide (left ≤ 128)
    ({ t1 with stepped := true, locked := locked, timeOk := locked && upOk, offset := Int.tdiv left 128 }, large)

/-- TIME_RSP (R363), taken in at t4: `replayed` says that its flit was a replay. A sample whose request left in a replay is discarded too. -/
def timeRspAt (k : Nat) (replayed : Bool) (p : Packet) (t4 : Dword) (s : State) : State :=
  match s.timePort, s.time.reqs.find? (fun r => r.1 == p.tag.toNat) with
  | some u, some _ =>
    if u ≠ k then s
    else
      let sent := Tab.get none (s.port k).reqAt p.tag.toNat
      let t1 := sent.getD 0
      let t := { s.time with reqs := s.time.reqs.filter (fun r => r.1 != p.tag.toNat) }
      let i (x : Dword) : Int := (x.toNat : Int)
      let out := i p.addr - i t1
      let back := i t4 - i p.arg2
      -- twice the offset, twice the delay
      let off2 := out - back
      let delay2 := out + back
      if replayed ∨ sent = none ∨ 2000 < delay2 then s.setTime t
      else
        let n := t.samples.length
        let samples := (if 64 ≤ n then t.samples.drop 1 else t.samples) ++ [off2]
        let hops := min 255 (field p.arg.toNat 23 16 + 1)
        let r := ({ t with samples := samples, lastOk := t.clk, holdover := false, srcPort := k, hops := hops } : TimeSt).act
          (bitAt p.arg.toNat 8)
        let s1 := s.setTime r.1
        if r.2 then s1.logPort k stOk 0 0 else s1
  | _, _ => s

def timeRspOp (k : Nat) (replayed : Bool) (p : Packet) (s : State) : State := timeRspAt k replayed p (s.portTime k) s

/-- No port serves: the counter keeps the mean slew of its last 1.024 ms. UP_PORT is tried first. -/
def TimeSt.enterHoldover (t : TimeSt) : TimeSt :=
  { t with holdover := true, tryAlt := false, lastOk := t.clk, srcPort := 15, holdFrom := t.clk, holdSum := t.slews.foldl (fun (a : Int) e => a + e.2) 0
           holdAcc := 0, reqs := [], samples := [], expired := false }

/-- The follower moves to ALT_PORT, and starts its estimate again without the first-step rule. -/
def TimeSt.moveTo (t : TimeSt) (k : Nat) : TimeSt :=
  { t with srcPort := k, samples := [], reqs := [], stepped := true, lastOk := t.clk }

/-- While no port serves, the port tried gave no valid sample for 1 ms: the other is tried, ALT_PORT when it is UP (R365; the turns are a
DESIGN CHOICE, log 96). -/
def TimeSt.tryNext (t : TimeSt) (altUp : Bool) : TimeSt :=
  { t with tryAlt := !t.tryAlt && altUp, lastOk := t.clk, reqs := [], stepped := t.stepped || (!t.tryAlt && altUp) }

/-- ALT_PORT is another port than UP_PORT, and is UP. -/
def State.altUp (s : State) : Bool := s.cfg.ttAlt != s.cfg.ttUp && decide (s.cfg.ttAlt < 8) && (s.port s.cfg.ttAlt).state == .up

/-- TIME_SAMPLE_TIMEOUT. -/
def timeSampleOp (s : State) : State :=
  if !s.follower ∨ s.time.clk.toNat < s.time.lastOk.toNat + 1000000 then s
  else
    let k := s.timeTry
    let alt := s.cfg.ttAlt
    let s1 := s.logLink k
    if s1.time.holdover then s1.setTime (s1.time.tryNext s1.altUp)
    else if k ≠ alt ∧ alt < 8 ∧ (s1.port alt).state = .up then s1.setTime (s1.time.moveTo alt)
    else s1.setTime s1.time.enterHoldover

/-- HOLDOVER_TIMEOUT: after 10 ms the time is not good, and no estimate is left that could be locked (log 96); the expiry is logged (R371). -/
def holdoverOp (s : State) : State :=
  let t := s.time
  if t.holdover ∧ !t.expired ∧ t.holdFrom.toNat + 10000000 ≤ t.clk.toNat then
    (s.setTime { t with timeOk := false, locked := false, expired := true }).logLink s.timeTry
  else s

/-! ## The anchor (R362) -/

/-- The error of an edge at fabric time e: its distance from the nearest multiple of 10⁹. -/
def edgeError (e : Nat) : Int :=
  let r := e % 1000000000
  if r < 500000000 then (r : Int) else (r : Int) - 1000000000

/-- An event of fabric time is logged. -/
def State.logTime (s : State) (st : Byte) (addr : Nat) : State := s.logErr { status := st, unit := uPort, addr := addr }

/-- The ns from the last tick to the edge that the sampler captures, its latency compensated: where the edge lies in the tick, within the
capture error (R492; free values, log 39). -/
def TimeSt.edgeAt (t : TimeSt) : Int := ((Config.captureAt t.clk.toNat).val : Int) + (Config.captureError t.clk.toNat).val - 2

/-- A REF_SYNC edge d ns after the last tick: an armed load makes the edge's time TT_NEXT, unless time would decrease (R361). -/
def refSyncAt (d : Int) (s : State) : State :=
  let t := s.time
  let edge : Int := t.now.toNat + d
  if !s.cfg.cfgDone ∨ s.cfg.ttRole ≠ 1 then s
  else if t.armed then
    if (t.next.toNat : Int) < edge then (s.setTime { t with armed := false }).logTime stRange t.next.toNat
    else
      s.setTime { t.jump (BitVec.ofInt 64 (t.next.toNat - d)) with
        armed := false, loaded := true, badEdges := 0, locked := true, timeOk := true, slew := 0 }
  else if !t.loaded then s
  else
    let e := edgeError edge.toNat
    if -1000 ≤ e ∧ e ≤ 1000 then s.setTime { t with slew := -e, badEdges := 0 }
    else
      let n := t.badEdges + 1
      (s.setTime { t with badEdges := n, timeOk := t.timeOk && decide (n < 3) }).logTime stOk edge.toNat

/-- REF_SYNC_EDGE. -/
def refSyncOp (s : State) : State := refSyncAt s.time.edgeAt s

/-- A write of TT_CTRL with ARM. -/
def ttArmOp (mst : Master) (s : State) : State :=
  if mst ≠ .m then s.logReg mst 0x700820
  else if s.cfg.ttRole = 1 then s.setTime { s.time with armed := true }
  else s.logReg mst 0x700820

/-! ## Rows -/

/-- TIME_EXCHANGE_TIMER. -/
def execTimeExchangeTimer (s : State) : Host.Outcome State Fault Refusal := .next (timeExchangeOp s)
/-- TIME_REQ. -/
def execTimeReq (port : Nat) (p : Packet) (s : State) : Host.Outcome State Fault Refusal := .next (timeReqOp port p s)
/-- TIME_RSP. -/
def execTimeRsp (port : Nat) (p : Packet) (s : State) : Host.Outcome State Fault Refusal := .next (timeRspOp port false p s)
/-- TIME_SAMPLE_TIMEOUT. -/
def execTimeSampleTimeout (s : State) : Host.Outcome State Fault Refusal := .next (timeSampleOp s)
/-- HOLDOVER_TIMEOUT. -/
def execHoldoverTimeout (s : State) : Host.Outcome State Fault Refusal := .next (holdoverOp s)
/-- REF_SYNC_EDGE. -/
def execRefSyncEdge (s : State) : Host.Outcome State Fault Refusal := .next (refSyncOp s)
/-- TT_ARM. -/
def execTtArm (mst : Master) (s : State) : Host.Outcome State Fault Refusal := regRow (.ttArm mst) mst s (ttArmOp mst)

end Sys2Proof.Machine
end

