-- ==== Sys2Proof/Machine/Yard.lean ====
section
/-!
DEFINITION. The Yard (14_collectives_and_mapping.md): the schedule of REDUCE and GATHER (R381, R388), the arithmetic of a chunk and its
encodings (R382–R386), frames and credits (R376, R377), the rows REDUCE, GATHER and PERMUTE, and the rows of Yard frames,
time-outs and cancels (R394, R395).
-/
namespace Sys2Proof.Machine

/-! ## The schedule (R381, R388) -/

/-- The first unit of half h of a bucket of n elements, and its units. -/
def halfUnits (n h : Nat) : Nat × Nat :=
  let q := ceilDiv n 64
  let q0 := ceilDiv q 2
  if h = 0 then (0, q0) else (q0, q - q0)

/-- The elements of chunk c of half h: the first, and the end. -/
def chunkRange (n na h c : Nat) : Nat × Nat :=
  let u := halfUnits n h
  (min n (64 * (u.1 + u.2 * c / na)), min n (64 * (u.1 + u.2 * (c + 1) / na)))

/-- The first byte of half h of a shard of n bytes, and its bytes (R388). -/
def shardHalf (n h : Nat) : Nat × Nat :=
  let a := ceilDiv n 128 * 64
  if h = 0 then (0, a) else (a, n - a)

/-- The chunk that the k-th receive of a phase brings to a member: `off` is 2 in the scatter phase, 1 in the gather
phase. -/
def recvIndex (own na h off k : Nat) : Nat := if h = 0 then (own + 2 * na - off - k) % na else (own + off + k) % na

/-- The neighbour to which half h travels, and the one from which it comes. -/
def nextMember (own na h : Nat) : Nat := if h = 0 then (own + 1) % na else (own + na - 1) % na
def prevMember (own na h : Nat) : Nat := nextMember own na (1 - h)

/-- What a member expects next from a direction: phase, chunk and hops. -/
structure YExp where
  phase : Nat
  chunk : Nat
  hop   : Nat
  deriving DecidableEq, Repr

/-- Receives of a direction. -/
def yardReceives (op : Nat) (p : YdPar) (na : Nat) : Nat := if op = 9 ∧ !p.rscatter then 2 * (na - 1) else na - 1

def yardExpect (op : Nat) (p : YdPar) (na own h k : Nat) : Option YExp :=
  if yardReceives op p na ≤ k then none
  else if op = 9 ∧ k < na - 1 then some ⟨0, recvIndex own na h 2 k, k⟩
  else
    let j := if op = 9 then k - (na - 1) else k
    some ⟨1, recvIndex own na h 1 j, j⟩

/-- Payload bytes of n elements in an encoding (R382–R384). -/
def chunkBytes (p : YdPar) (enc n : Nat) : Nat :=
  match enc with
  | 0 => fmtBytes p.fmtWire n
  | 1 => roundUp (10 * ceilDiv n 64) 64
  | _ => roundUp (8 * ceilDiv n (2 ^ p.kshift)) 64

/-- Payload bytes of a chunk, of half a shard. -/
def blockBytes (op : Nat) (p : YdPar) (na h chunk enc : Nat) : Nat :=
  if op = 9 then
    let e := chunkRange p.n na h chunk
    chunkBytes p enc (e.2 - e.1)
  else (shardHalf p.n h).2

/-- The encodings that a command takes (R385). -/
def encOk (op : Nat) (p : YdPar) (enc : Nat) : Bool :=
  if op = 9 then (if p.comp = 3 then enc == 1 || enc == 2 else enc == p.comp) else enc == 0

/-- A place in a direction's schedule: receives completed, bytes of the chunk in progress, its encoding. -/
structure YPos where
  k   : Nat
  off : Nat
  enc : Nat
  deriving DecidableEq, Repr

def YHalf.pos (h : YHalf) : YPos := ⟨h.k, h.buf.length, h.enc⟩

end Sys2Proof.Machine

namespace Sys2Proof

open Machine in
/-- ENC of MODE (R375). -/
def YardFrame.enc (f : YardFrame) : Nat := field f.mode.toNat 1 0

open Machine in
/-- PHASE of MODE. -/
def YardFrame.phase (f : YardFrame) : Nat := field f.mode.toNat 2 2

open Machine in
/-- DIR of MODE. -/
def YardFrame.dir (f : YardFrame) : Nat := field f.mode.toNat 3 3

end Sys2Proof

namespace Sys2Proof.Machine

/-- The chunk that a frame belongs to ends with it. -/
def YPos.ends (q : YPos) (op : Nat) (p : YdPar) (na : Nat) (f : YardFrame) : Bool :=
  decide (blockBytes op p na f.dir f.chunk.toNat f.enc ≤ q.off + f.payload.length)

def YPos.next (q : YPos) (op : Nat) (p : YdPar) (na : Nat) (f : YardFrame) : YPos :=
  if q.ends op p na f then ⟨q.k + 1, 0, 0⟩ else ⟨q.k, q.off + f.payload.length, f.enc⟩

/-- The frame is the one that the schedule expects next (R377). -/
def YPos.expects (q : YPos) (op : Nat) (p : YdPar) (na own : Nat) (f : YardFrame) : Bool :=
  match yardExpect op p na own f.dir q.k with
  | none => false
  | some x =>
    f.phase == x.phase && f.chunk.toNat == x.chunk && f.hop.toNat == x.hop && f.offset.toNat == q.off
      && encOk op p f.enc && (q.off == 0 || f.enc == q.enc) && f.sender == prevMember own na f.dir
      && f.payload.length == min frameMax (blockBytes op p na f.dir x.chunk f.enc - q.off)

/-! ## Encodings (R383–R385) -/

/-- The scale of a unit as BF16 bits (R383). -/
def unitScale (us : List Word) : Conv :=
  if us.all fFinite then
    Enc.bf16.conv .rne true (v32 (fdiv (us.foldl (fun a u => fadd a (u &&& 0x7FFFFFFF)) fzero) (fOfNat us.length)))
  else ⟨0x7FC0, false, false⟩

/-- The sign plane of a unit. -/
def signPlane (us : List Word) : List Byte :=
  toLe 8 ((List.range 64).foldl (fun a j => a + flagAt (bitAt (nth fzero us j).toNat 31) j) 0)

/-- The units of a chunk. -/
def unitsOf (us : List Word) : List (List Word) := chunks 64 (us.length + 1) us

def encOneBit (us : List Word) : List Byte :=
  pad64 ((unitsOf us).flatMap signPlane ++ (unitsOf us).flatMap (fun u => toLe 2 (unitScale u).bits))

def decOneBit (n : Nat) (b : List Byte) : List Word :=
  let scales := 8 * ceilDiv n 64
  (List.range n).map (fun i =>
    let s := Enc.bf16.decode (u16At b (scales + 2 * (i / 64)))
    if s.isNan then fnan
    else f32 s ||| (if bitAt (u8At b (i / 8)) (i % 8) then 0x80000000 else 0))

/-- Element j ranks above element i (R384). -/
def rankAbove (us : List Word) (j i : Nat) : Bool :=
  let u := nth fzero us j
  let w := nth fzero us i
  if fFinite u != fFinite w then !fFinite u
  else
    let a := if fFinite u then (u &&& 0x7FFFFFFF).toNat else 0
    let b := if fFinite w then (w &&& 0x7FFFFFFF).toNat else 0
    decide (b < a) || (a == b && decide (j < i))

/-- The k elements that top-k keeps, in ascending order. -/
def topKept (k : Nat) (us : List Word) : List Nat :=
  (List.range us.length).filter (fun i => decide (((List.range us.length).filter (fun j => rankAbove us j i)).length < k))

def topCount (p : YdPar) (n : Nat) : Nat := ceilDiv n (2 ^ p.kshift)

def encTopk (p : YdPar) (us : List Word) : List Byte :=
  pad64 ((topKept (topCount p us.length) us).flatMap (fun i => toLe 4 i ++ toLe 4 (nth fzero us i).toNat))

def decTopk (p : YdPar) (n : Nat) (b : List Byte) : List Word :=
  (List.range n).map (fun i =>
    match (List.range (topCount p n)).find? (fun e => u32At b (8 * e) == i) with
    | some e => w32At b (8 * e + 4)
    | none => fzero)

/-- The values of a chunk of n elements in a payload. -/
def decodeChunk (p : YdPar) (enc n : Nat) (b : List Byte) : List Word :=
  match enc with
  | 0 => (List.range n).map (readF32 p.fmtWire (nth 0 b))
  | 1 => decOneBit n b
  | _ => decTopk p n b

/-- The encoding that the first sender of a chunk chooses (R385). -/
def chooseEnc (p : YdPar) (us : List Word) : Nat :=
  if p.comp ≠ 3 then p.comp
  else if !us.all fFinite then 1
  else
    let d := decOneBit us.length (encOneBit us)
    let a := us.foldl (fun a u => fadd a (fmul u u)) fzero
    let b := (us.zip d).foldl (fun b x => fadd b (fmul (fsub x.1 x.2) (fsub x.1 x.2))) fzero
    if Ext.lt (v32 (fmul p.onebitMax a)) (v32 b) then 2 else 1

/-- A chunk that a member has treated: its encoding, payload, the values that the payload decodes to, the new error memory,
the counts. -/
structure YCode where
  enc     : Nat
  payload : List Byte
  vals    : List Word
  emem    : List Word
  health  : Health
  nonfin  : Nat

/-- R382 for a chunk: `come` holds the decoded incoming values and their encoding, none at the first sender. -/
def reduceChunk (p : YdPar) (come : Option (List Word × Nat)) (xs es : List Word) : YCode :=
  let ts := match come with
    | some d => (d.1.zip xs).map (fun (a : Word × Word) => join a.1 (v32 a.2))
    | none => xs
  if p.comp = 0 then
    let cs := ts.map (fun t => convElem p.fmtWire 0 (v32 t))
    let b := packElems (fmtBits p.fmtWire) (cs.map (·.bits))
    ⟨0, b, decodeChunk p 0 ts.length b, [], Health.ofConvs cs, 0⟩
  else
    let us := (ts.zip es).map (fun (a : Word × Word) => join a.1 (v32 a.2))
    let enc := match come with
      | some d => d.2
      | none => chooseEnc p us
    let b := if enc = 1 then encOneBit us else encTopk p us
    let d := decodeChunk p enc us.length b
    let h := if enc = 1 then Health.ofConvs ((unitsOf us).map unitScale) else Health.zero
    ⟨enc, b, d, (us.zip d).map (fun a => if fFinite a.1 then fsub a.1 a.2 else fzero), h,
     (us.filter (fun u => !fFinite u)).length⟩

/-! ## Outputs -/

/-- Output bytes of final values from element lo on (R386). -/
def State.reduceOut (_s : State) (c : Cmd) (p : YdPar) (lo : Nat) (vals : List Word) : List Byte × Health :=
  let g : Rng := ⟨c.seed, c.step, c.crec.rngId⟩
  let r := convRun p.fmtOut (vals.zipIdx.map (fun (v : Word × Nat) => (v32 (fmul v.1 p.scale), drawFor p.fmtOut g 8 (lo + v.2))))
  (packElems (fmtBits p.fmtOut) r.elems, r.health)

/-- What a member writes of a reduced chunk: OUT when it has the final values, EMEM. -/
def State.reduceWork (s : State) (c : Cmd) (p : YdPar) (lo : Nat) (final : Option (List Word)) (y : YCode) : WorkOut :=
  let o := match final with
    | some v => s.reduceOut c p lo v
    | none => ([], Health.zero)
  let outs := (if final.isSome then [(6, fmtBytes p.fmtOut lo, o.1)] else [])
    ++ (if p.comp = 0 then [] else [(7, 4 * lo, y.emem.flatMap (fun w => toLe 4 w.toNat))])
  { outs := outs.filter (fun e => !e.2.2.isEmpty), health := [(0, o.2.add y.health)], oc := [(.ydNonfin, y.nonfin)] }

/-- Write an output of a Yard command, and count it (R396, R469). -/
def State.yardEmit (s : State) (slot : Nat) (w : WorkOut) : State :=
  match s.cmd? slot with
  | none => s
  | some c =>
    if isError c.st then s
    else
      match s.outFault c 0 w with
      | some x => s.failDemand slot 0 c.op x
      | none =>
        let s1 := s.emit slot 0 ((c.stages.head?).getD Stage.none) w
        ((((s1.bump (cntYard 5) (getOc .ydNonfin w.oc)).bump (cntYard 7) w.total.sat).bump (cntYard 8) w.total.ftz)).pumpCmd slot

/-! ## Frames of a chunk -/

def State.modYard (s : State) (slot : Nat) (f : YardSt → YardSt) : State :=
  s.modCmd slot (fun c => { c with yard := c.yard.map f })

/-- The frames of a block that goes on in direction h. -/
def Cmd.blockFrames (c : Cmd) (y : YardSt) (h phase chunk hop enc gen : Nat) (b : List Byte) : List YOut :=
  let note := c.yardNote y.own h 4 0
  (List.range (max 1 (ceilDiv b.length frameMax))).map (fun i =>
    { dest := nextMember y.own y.size h, via := some (2 * y.axis + h), last := false
      f := { note with mode := note.mode + BitVec.ofNat 8 (enc + 4 * phase), chunk := BitVec.ofNat 16 chunk
                       hop := BitVec.ofNat 8 hop, gen := BitVec.ofNat 32 gen, offset := BitVec.ofNat 64 (frameMax * i)
                       payload := slice b (frameMax * i) (min frameMax (b.length - frameMax * i)) } })

/-- Queue a chunk for the next member, counted by its encoding (R396). -/
def State.queueBlock (s : State) (slot h phase chunk hop enc gen : Nat) (b : List Byte) : State :=
  match s.cmd? slot with
  | none => s
  | some c =>
    match c.yard with
    | none => s
    | some _ =>
      let s1 := s.modYard slot (fun y => { y with sendQ := y.sendQ ++ c.blockFrames y h phase chunk hop enc gen b })
      let s2 := if enc = 1 then (s1.count slot .ydOnebit 1).bump (cntYard 3) 1
        else if enc = 2 then (s1.count slot .ydTopk 1).bump (cntYard 4) 1 else s1
      s2

/-- Elements of a stream of FP32 or BF16 as FP32 (R45). -/
def State.yardIn (s : State) (c : Cmd) (f : Nat) (w : Word) (lo hi : Nat) : List Word :=
  (upFrom lo (hi - lo)).map (readF32 w (s.streamRd c 0 f))

/-- A member treats a chunk of a half: the first sender's own, or one that has come (R381, R382). `go` says that the
chunk goes on; otherwise this member owns it. -/
def State.treatChunk (s : State) (slot h chunk hop : Nat) (come : Option (List Byte × Nat)) (go : Bool) : State :=
  match s.cmd? slot with
  | none => s
  | some c =>
    match c.yard with
    | none => s
    | some y =>
      let p := ydPar c.pb
      let e := chunkRange p.n y.size h chunk
      let n := e.2 - e.1
      let es := if p.comp = 0 then [] else s.yardIn c 7 0 e.1 e.2
      let r := reduceChunk p (come.map (fun x => (decodeChunk p x.2 n x.1, x.2))) (s.yardIn c 5 p.fmtIn e.1 e.2) es
      let w := s.reduceWork c p e.1 (if go then none else some r.vals) r
      let s1 := (s.bump (cntYard 0) n).yardEmit slot w
      if go then s1.queueBlock slot h 0 chunk hop r.enc 0 r.payload
      else if p.rscatter ∨ y.size ≤ 1 then s1
      else s1.queueBlock slot h 1 chunk 0 r.enc 0 r.payload

/-- A final value has come in the gather phase: it is written, and goes on unless this is its last member. -/
def State.takeFinal (s : State) (slot h chunk hop enc : Nat) (b : List Byte) : State :=
  match s.cmd? slot with
  | none => s
  | some c =>
    match c.yard with
    | none => s
    | some y =>
      let p := ydPar c.pb
      let e := chunkRange p.n y.size h chunk
      let n := e.2 - e.1
      let o := s.reduceOut c p e.1 (decodeChunk p enc n b)
      let outs := if n = 0 then [] else [(6, fmtBytes p.fmtOut e.1, o.1)]
      let s1 := (s.bump (cntYard 0) n).yardEmit slot { outs := outs, health := [(0, o.2)] }
      if hop + 2 < y.size then s1.queueBlock slot h 1 chunk (hop + 1) enc 0 b else s1

/-- Half a shard has come (R388). -/
def State.takeShard (s : State) (slot h chunk hop gen : Nat) (b : List Byte) : State :=
  match s.cmd? slot with
  | none => s
  | some c =>
    match c.yard with
    | none => s
    | some y =>
      let p := ydPar c.pb
      let outs := if b.isEmpty then [] else [(6, chunk * p.n + (shardHalf p.n h).1, b)]
      let s1 := s.yardEmit slot { outs := outs }
      if hop + 2 < y.size then s1.queueBlock slot h 1 chunk (hop + 1) 0 gen b else s1

/-- A generation breaks R389. -/
def YardSt.stale (y : YardSt) (p : YdPar) (gen : Nat) : Bool := p.wgen != 0 && y.gens.any (fun g => g != gen)

/-- End a GATHER whose generations differ. -/
def State.failStale (s : State) (slot : Nat) : State := s.failCmd slot stStaleGen 0 0 { status := stStaleGen, unit := uYard }

/-- The Yard takes up a frame of a chunk or shard. -/
def State.takeBlock (s : State) (slot : Nat) (c : Cmd) (y : YardSt) (f : YardFrame) : State :=
  let p := ydPar c.pb
  if c.op = 10 ∧ y.stale p f.gen.toNat then s.failStale slot
  else
    match y.halves.find? (fun h => h.dir == f.dir) with
    | none => s
    | some h =>
      let b := h.buf ++ f.payload
      let ends := h.pos.ends c.op p y.size f
      let h1 : YHalf := if ends then ⟨h.dir, h.k + 1, [], 0⟩ else ⟨h.dir, h.k, b, f.enc⟩
      let s1 := s.modYard slot (fun y => { y with halves := y.halves.map (fun (x : YHalf) => if x.dir = h.dir then h1 else x) })
      if !ends then s1
      else
        match yardExpect c.op p y.size y.own h.dir h.k with
        | none => s1
        | some x =>
          if c.op = 10 then s1.takeShard slot h.dir x.chunk x.hop f.gen.toNat b
          else if x.phase = 1 then s1.takeFinal slot h.dir x.chunk x.hop f.enc b
          else s1.treatChunk slot h.dir x.chunk (x.hop + 1) (some (b, f.enc)) (x.hop + 2 < y.size)

/-- The Yard takes up a landed frame; its staging slot is free again, and one credit returns (R376). -/
def State.takeFrame (s : State) (slot : Nat) (f : YardFrame) : State :=
  match s.cmd? slot with
  | none => s
  | some c =>
    match c.yard with
    | none => s
    | some y =>
      if isError c.st then s
      else if c.op = 11 then
        let s1 := s.yardEmit slot { outs := [(6, f.offset.toNat, f.payload)] }
        let s2 := (s1.count slot .ydRecv (f.payload.length / 64)).modYard slot (fun y => { y with recvd := y.recvd + f.payload.length })
        s2.grant slot f.sender 1
      else (s.takeBlock slot c y f).grant slot f.sender 1

/-! ## Sending against credits (R374, R376) -/

/-- The port by which a frame leaves: that of its direction, or of dimension order, as the port's routing table has it (R356, R358). -/
def State.outPort (s : State) (axis : Nat) (o : YOut) : Nat :=
  let dst := s.cfg.node.member axis o.dest
  let k := o.via.getD ((s.cfg.node.dimOrder dst).getD 0)
  match s.routeVia k dst with
  | .port j => j
  | _ => k

/-- The frames that a started Yard command might send out of a port now. -/
def State.sendable (s : State) (c : Cmd) (k : Nat) : Bool :=
  match c.yard with
  | some y => c.phase == .started && !isError c.st && y.begun
      && y.sendQ.any (fun o => Tab.get 0 y.credit o.dest != 0 && s.outPort y.axis o == k)
  | none => false

/-- How far a slot stands behind the one that a port served last. -/
def turn (last slot : Nat) : Nat := (slot + 4096 - last - 1) % 4096

/-- It is a command's turn on a port: the frame before has left, and no command that could send stands before it (R374). -/
def State.yardTurn (s : State) (slot k : Nat) : Bool :=
  let last := Tab.get 4095 s.yard.served k
  !((s.port k).queues.flatMap (·.2)).any (fun t => t.p.kind == 7 && t.slot.isSome)
    && !s.cmdList.any (fun e => e.1 != slot && decide (e.1 < 4096) && decide (turn last e.1 < turn last slot) && s.sendable e.2 k)

/-- Send the queued frames whose members have given credit, one at a turn of their port; whether a port was down. -/
def State.yardSend (slot : Nat) : Nat → State → State × Bool
  | 0, s => (s, false)
  | fuel + 1, s =>
    match (s.cmd? slot).bind (·.yard) with
    | none => (s, false)
    | some y =>
      match y.sendQ.find? (fun o => Tab.get 0 y.credit o.dest != 0 && s.yardTurn slot (s.outPort y.axis o)) with
      | none => (s, false)
      | some o =>
        let k := s.outPort y.axis o
        let s0 := { s with yard := { s.yard with served := Tab.set 4095 s.yard.served k slot } }
        let s1 := s0.modYard slot (fun y => { y with
          sendQ := y.sendQ.erase o, credit := Tab.set 0 y.credit o.dest (Tab.get 0 y.credit o.dest - 1), waitFrom := s.time.cmdClk })
        let r := s1.sendYard (some slot) o.via y.axis o.dest o.f
        let s2 := if o.last then r.1.count slot .ydSent 1 else r.1
        let u := State.yardSend slot fuel (s2.modCmd slot (fun c => { c with stallBy := s.stallDue }))
        (u.1, u.2 || r.2)

/-- Bytes that a PERMUTE still expects; receives that a schedule still expects. -/
def YardSt.expecting (y : YardSt) (op : Nat) (p : YdPar) : Bool :=
  if op = 11 then decide (y.recvd < p.recvBytes) else y.halves.any (fun h => decide (h.k < yardReceives op p y.size))

/-- The ports that a command needs (R395): both of its axis while it has frames to receive, and those by which it sends; none where no frame
crosses the axis. Which port a PERMUTE receives by is not stated: both (DESIGN CHOICE, log 108). -/
def State.yardPorts (s : State) (c : Cmd) (y : YardSt) : List Nat :=
  if y.size ≤ 1 ∨ (c.op ≠ 11 ∧ y.halves.isEmpty) then []
  else if c.op ≠ 11 ∨ y.expecting c.op (ydPar c.pb) then axisPorts y.axis
  else
    ((((c.stages.head?).getD Stage.none).sends.filter (fun e => e.dest != y.own)).map (fun e =>
      2 * y.axis + s.cfg.node.dirTo y.axis e.dest)).eraseDups

/-- A port that a Yard command needs is down (R395). -/
def State.yardDown (s : State) (c : Cmd) (y : YardSt) : Bool :=
  (s.yardPorts c y).any (fun k => (s.port k).state == .down || (s.port k).state == .off)

def State.yardLinkDown (s : State) (slot : Nat) : State := s.failCmd slot stLinkDown 0 0 { status := stLinkDown, unit := uYard }

/-- Packets of a command have not been acknowledged by the next port. -/
def State.packetsOut (s : State) (slot : Nat) : Bool :=
  s.fab.ports.any (fun e => e.2.queues.any (fun q => q.2.any (fun t => t.slot == some slot))
    || e.2.inReplay.any (fun x => x.slot == some slot))

/-- Everything has been sent and received. -/
def State.yardOver (s : State) (slot : Nat) (c : Cmd) (y : YardSt) : Bool :=
  y.sendQ.isEmpty && y.landed.isEmpty && !y.expecting c.op (ydPar c.pb) && (c.op != 11 || !s.packetsOut slot)

/-- The end of the work: a GATHER reports the common generation (R389). -/
def State.yardFinish (s : State) (slot : Nat) (c : Cmd) (y : YardSt) : State :=
  let p := ydPar c.pb
  let g := y.gens.headD 0
  if c.op = 10 then
    let s1 := s.count slot .ydGen g
    let w : List RetireWord := if p.genOut = 0 then [] else [⟨p.genOut, toLe 4 g, false⟩]
    (s1.modCmd slot (fun c => { c with atRetire := c.atRetire ++ w })).worked slot
  else s.worked slot

/-- A started Yard command goes on: landed frames are taken up, queued frames leave, and the work ends. -/
def State.yardGo (s : State) (slot : Nat) : State :=
  match s.cmd? slot with
  | none => s
  | some c =>
    match c.yard with
    | none => s
    | some y =>
      if s.trc.dump.busy ∨ c.phase ≠ .started ∨ isError c.st ∨ !y.begun then s
      else if s.yardDown c y then s.yardLinkDown slot
      else
        let s1 := s.modYard slot (fun y => { y with landed := [] })
        let s2 := y.landed.foldl (fun (s : State) f => s.takeFrame slot f) s1
        match (s2.cmd? slot).bind (·.yard) with
        | none => s2
        | some y2 =>
          let r := State.yardSend slot y2.sendQ.length s2
          if r.2 then r.1.yardLinkDown slot
          else
            match r.1.cmd? slot with
            | none => r.1
            | some c3 =>
              match c3.yard with
              | none => r.1
              | some y3 => if !isError c3.st && r.1.yardOver slot c3 y3 then r.1.yardFinish slot c3 y3 else r.1

/-! ## The rows of the work -/

/-- The inputs of a Yard command. -/
def Cmd.yardDemand (c : Cmd) (st : Stage) : Demand :=
  let p := ydPar c.pb
  if c.op = 9 then
    ⟨[(5, 0, fmtBytes p.fmtIn p.n)] ++ (if p.comp = 0 then [] else [(7, 0, 4 * p.n)]), [], none⟩
  else if c.op = 10 then ⟨[(5, 0, p.n)], [], none⟩
  else ⟨st.sends.map (fun e => (5, e.src, e.bytes)), [], none⟩

/-- The first chunks of a REDUCE (R381). -/
def State.beginReduce (s : State) (slot : Nat) (y : YardSt) (p : YdPar) : State :=
  if p.n = 0 then s
  else if y.size ≤ 1 then (s.treatChunk slot 0 0 0 none false).treatChunk slot 1 0 0 none false
  else (s.treatChunk slot 0 (prevMember y.own y.size 0) 0 none true).treatChunk slot 1 (prevMember y.own y.size 1) 0 none true

/-- The member's own shard (R388, R389). -/
def State.beginGather (s : State) (slot : Nat) (c : Cmd) (y : YardSt) (p : YdPar) : State :=
  let g := y.gens.headD 0
  if y.stale p g then s.failStale slot
  else
    let b := (List.range p.n).map (s.streamRd c 0 5)
    let outs := if p.n = 0 then [] else [(6, y.own * p.n, b)]
    let s1 := s.yardEmit slot { outs := outs }
    if y.size ≤ 1 then s1
    else
      let half (h : Nat) : List Byte := slice b (shardHalf p.n h).1 (shardHalf p.n h).2
      (s1.queueBlock slot 0 1 y.own 0 0 g (half 0)).queueBlock slot 1 1 y.own 0 0 g (half 1)

/-- The frames of a send entry (R392). -/
def State.entryFrames (s : State) (c : Cmd) (y : YardSt) (e : SendEnt) : List YOut :=
  let n := ceilDiv e.bytes frameMax
  let note := c.yardNote y.own (s.cfg.node.dirTo y.axis e.dest) 4 0
  (List.range n).map (fun i =>
    let m := min frameMax (e.bytes - frameMax * i)
    { dest := e.dest, via := none, last := i + 1 == n
      f := { note with offset := BitVec.ofNat 64 (e.dst + frameMax * i)
                       payload := (upFrom (e.src + frameMax * i) m).map (s.streamRd c 0 5) } })

/-- The send entries of a PERMUTE: those to this member are copied at once (R392). -/
def State.beginPermute (s : State) (slot : Nat) (c : Cmd) (y : YardSt) (st : Stage) : State :=
  st.sends.foldl (fun (s : State) e =>
    if e.dest = y.own then
      (s.yardEmit slot { outs := [(6, e.dst, (upFrom e.src e.bytes).map (s.streamRd c 0 5))] }).count slot .ydSent 1
    else s.modYard slot (fun y => { y with sendQ := y.sendQ ++ s.entryFrames c y e })) s

/-- A Yard row: a started command reads its inputs and prepares its first frames, and then goes on. -/
def yardOp (op slot : Nat) (s : State) : State :=
  let s := s.settleMigs
  match s.workable slot op false with
  | none => s
  | some c =>
    match c.yard, c.stages with
    | some y, st :: _ =>
      if y.begun then s.yardGo slot
      else
        let g := s.gather slot c 0 (c.yardDemand st)
        if !g.2 then g.1
        else
          let p := ydPar c.pb
          let s1 := g.1.modYard slot (fun y => { y with begun := true })
          let s2 := if op = 9 then s1.beginReduce slot y p
            else if op = 10 then s1.beginGather slot c y p else s1.beginPermute slot c y st
          s2.yardGo slot
    | _, _ => s

/-! ## Frames received (R376, R377) -/

/-- A discarded frame counts in YD_BAD and is logged (R377). -/
def State.yardBad (s : State) (slot : Option Nat) (axis : Nat) (f : YardFrame) : State :=
  let a : LogArg := { status := stRange, unit := uYard, where_ := axis, addr := f.stream.toNat }
  let s1 := s.bump (cntYard 6) 1
  match slot with
  | some k => (s1.logCmd k a).count k .ydBad 1
  | none => s1.logErr a

/-- The epoch of the job that a stream names differs (R376). -/
def State.epochDiffers (s : State) (f : YardFrame) : Bool :=
  match s.jobOf (f.stream.toNat / 65536) with
  | some j => j.epoch != f.epoch
  | none => false

/-- OPEN. -/
def openOp (axis : Nat) (f : YardFrame) (s : State) : State :=
  let s := s.bump (cntYard 2) 1
  match s.yardTarget f with
  | some slot => s.answerOpen slot axis f
  | none =>
    if s.epochDiffers f then s.rejectOpen axis f stEpoch
    else if 256 ≤ s.yard.pend.length then s.rejectOpen axis f stResource
    else { s with yard := { s.yard with pend := s.yard.pend ++ [⟨axis, f, s.time.cmdClk⟩] } }

/-- The slot of the admitted command on an axis that a GRANT, REJECT or DATA frame belongs to. -/
def State.yardPeer (s : State) (axis : Nat) (f : YardFrame) : Option Nat :=
  match s.yardTarget f with
  | some slot => if ((s.cmd? slot).bind (·.yard)).map (·.axis) = some axis then some slot else none
  | none => none

/-- GRANT. -/
def grantOp (axis : Nat) (f : YardFrame) (s : State) : State :=
  let s := s.bump (cntYard 2) 1
  match s.yardPeer axis f with
  | some slot =>
    (s.modYard slot (fun y => { y with credit := Tab.set 0 y.credit f.sender (Tab.get 0 y.credit f.sender + f.argb.toNat)
                                       waitFrom := s.time.cmdClk })).yardGo slot
  | none => s.yardBad none axis f

/-- REJECT ends the command that sent the OPEN with the status in ARGB (R376). -/
def rejectOp (axis : Nat) (f : YardFrame) (s : State) : State :=
  let s := s.bump (cntYard 2) 1
  match s.yardPeer axis f with
  | some slot =>
    if isReturned f.argb then
      s.failCmd slot f.argb (if f.argb = stTimeout then 0x05 else 0) 0 { status := f.argb, unit := uYard, where_ := axis }
    else s.yardBad (some slot) axis f
  | none => s.yardBad none axis f

/-- Frames of a sender that lie in staging. -/
def YardSt.stagedOf (y : YardSt) (sender : Nat) : Nat := (y.landed.filter (fun g => g.sender == sender)).length

/-- The staging slot in which a frame lands (R377): two for each sender. -/
def YardSt.stageSlot (y : YardSt) (op : Nat) (f : YardFrame) : Nat :=
  let i := if op = 11 then (if f.sender < y.own then f.sender else f.sender - 1) else f.dir
  2 * i + y.stagedOf f.sender

/-- The place in its schedule at which the next frame of a direction lands. -/
def YardSt.landPos (y : YardSt) (op : Nat) (p : YdPar) (dir : Nat) : Option YPos :=
  (y.halves.find? (fun h => h.dir == dir)).map (fun h =>
    (y.landed.filter (fun g => g.dir == dir)).foldl (fun q g => q.next op p y.size g) h.pos)

/-- The direction in which dimension order brings a frame from a sender (R356). -/
def dirFrom (size own sender : Nat) : Nat := if 2 * ((own + size - sender) % size) ≤ size then 0 else 1

/-- A DATA frame is one that a command takes (R377). -/
def YardSt.takes (y : YardSt) (op : Nat) (p : YdPar) (f : YardFrame) : Bool :=
  decide (y.stagedOf f.sender < 2) &&
  (if op = 11 then f.chunk == 0 && f.hop == 0 && f.enc == 0 && f.phase == 0 && f.sender != y.own && decide (f.sender < y.size)
     && f.dir == dirFrom y.size y.own f.sender
   else match y.landPos op p f.dir with
     | some q => q.expects op p y.size y.own f
     | none => false)

/-- A DATA frame of a PERMUTE leaves OUT, or the total of the bytes to be received (R392). -/
def Cmd.permuteOver (c : Cmd) (y : YardSt) (f : YardFrame) : Bool :=
  let e := ((c.desc 0 6).bind Desc.extent).getD 0
  let got := y.landed.foldl (fun a g => a + g.payload.length) y.recvd
  decide (e < f.offset.toNat + f.payload.length) || decide ((ydPar c.pb).recvBytes < got + f.payload.length)

/-- DATA: a frame that the schedule expects lands in staging; others are discarded. -/
def dataOp (axis : Nat) (f : YardFrame) (s : State) : State :=
  let s := s.bump (cntYard 2) 1
  match s.yardPeer axis f with
  | none => s.yardBad none axis f
  | some slot =>
    match s.cmd? slot with
    | none => s
    | some c =>
      match c.yard with
      | none => s
      | some y =>
        let p := ydPar c.pb
        if isError c.st ∨ c.phase = .worked then s.yardBad (some slot) axis f
        else if f.shapeHash ≠ yardHash c.op c.pb then
          s.failCmd slot stFormat 0 0 { status := stFormat, unit := uYard, where_ := axis }
        else if !y.takes c.op p f then s.yardBad (some slot) axis f
        else if c.op = 11 ∧ c.permuteOver y f then
          s.failCmd slot stFormat 0 0 { status := stFormat, unit := uYard, where_ := axis }
        else
          let s1 := s.landVa none c.ctx (p.stage + frameMax * y.stageSlot c.op f) f.payload
          (s1.modCmd slot (fun c => { c with
            yard := c.yard.map (fun y => { y with landed := y.landed ++ [f], waitFrom := s.time.cmdClk })
            stallBy := if c.started then s.stallDue else c.stallBy })).yardGo slot

/-! ## Time-outs and cancels (R376, R394, R395) -/

/-- COLL_MS in ns. -/
def State.collNs (s : State) : Nat := s.cfg.collMs * 1000000

/-- PENDING_OPEN_TIMEOUT. -/
def pendTimeoutOp (entry : Nat) (s : State) : State :=
  if s.trc.dump.busy then s
  else
    match s.yard.pend[entry]? with
    | none => s
    | some e =>
      if e.at_.toNat + s.collNs ≤ s.time.cmdClk.toNat then
        let pend := s.yard.pend.take entry ++ s.yard.pend.drop (entry + 1)
        ({ s with yard := { s.yard with pend := pend } }).rejectOpen e.axis e.f stTimeout
      else s

/-- COLLECTIVE_TIMEOUT. -/
def collTimeoutOp (slot : Nat) (s : State) : State :=
  if s.trc.dump.busy then s
  else
    match s.cmd? slot with
    | none => s
    | some c =>
      match c.yard with
      | none => s
      | some y =>
        if c.phase = .started ∧ !isError c.st ∧ y.begun ∧ (!y.sendQ.isEmpty ∨ y.expecting c.op (ydPar c.pb))
            ∧ y.waitFrom.toNat + s.collNs ≤ s.time.cmdClk.toNat then
          s.failCmd slot stTimeout 0x05 0 { status := stTimeout, unit := uYard, where_ := y.axis }
        else s

/-- The slot of the Yard command with a stream tag. -/
def State.yardByTag (s : State) (tag : Word) : Option Nat :=
  (s.cmdList.find? (fun e => decide (e.1 < 4096) && e.2.isYard && e.2.stream == tag.toNat)).map (·.1)

/-- YARD_CANCEL: the command ends, and its own cancels carry the news on (R395). -/
def yardCancelOp (port : Nat) (tag : Word) (s : State) : State :=
  match s.yardByTag tag with
  | none => s
  | some slot => s.failCmd slot stAborted 0 0 { status := stAborted, unit := uPort, where_ := port, addr := tag.toNat }

/-- Yard commands of the job with an epoch before that of a PERMUTE (R394). -/
def State.draining (s : State) (c : Cmd) : Bool :=
  let p := ydPar c.pb
  s.cmdList.any (fun e => decide (e.1 < 4096) && e.2.isYard && (ydPar e.2.pb).job == p.job
    && serialAfter 16 (ydPar e.2.pb).epoch.toNat p.epoch.toNat)

/-- DRAIN_TIMEOUT. -/
def drainTimeoutOp (slot : Nat) (s : State) : State :=
  if s.trc.dump.busy then s
  else
    match s.cmd? slot with
    | none => s
    | some c =>
      if c.op = 11 ∧ !c.started ∧ !isError c.st ∧ s.draining c ∧ c.admitAt.toNat + s.collNs ≤ s.time.cmdClk.toNat then
        s.failCmd slot stTimeout 0x05 0 { status := stTimeout, unit := uYard }
      else s

/-- REDUCE. -/
def execReduce (slot : Nat) (s : State) : Host.Outcome State Fault Refusal := .next (yardOp 9 slot s)
/-- GATHER. -/
def execGather (slot : Nat) (s : State) : Host.Outcome State Fault Refusal := .next (yardOp 10 slot s)
/-- PERMUTE. -/
def execPermute (slot : Nat) (s : State) : Host.Outcome State Fault Refusal := .next (yardOp 11 slot s)
/-- OPEN. -/
def execOpenFrame (axis : Nat) (f : YardFrame) (s : State) : Host.Outcome State Fault Refusal := .next (heldByDump (.openFrame axis f) (openOp axis f) s)
/-- GRANT. -/
def execGrantFrame (axis : Nat) (f : YardFrame) (s : State) : Host.Outcome State Fault Refusal := .next (heldByDump (.grantFrame axis f) (grantOp axis f) s)
/-- REJECT. -/
def execRejectFrame (axis : Nat) (f : YardFrame) (s : State) : Host.Outcome State Fault Refusal := .next (heldByDump (.rejectFrame axis f) (rejectOp axis f) s)
/-- DATA. -/
def execDataFrame (axis : Nat) (f : YardFrame) (s : State) : Host.Outcome State Fault Refusal := .next (heldByDump (.dataFrame axis f) (dataOp axis f) s)
/-- PENDING_OPEN_TIMEOUT. -/
def execPendingOpenTimeout (entry : Nat) (s : State) : Host.Outcome State Fault Refusal := .next (pendTimeoutOp entry s)
/-- COLLECTIVE_TIMEOUT. -/
def execCollectiveTimeout (slot : Nat) (s : State) : Host.Outcome State Fault Refusal := .next (collTimeoutOp slot s)
/-- YARD_CANCEL. -/
def execYardCancel (port : Nat) (tag : Word) (s : State) : Host.Outcome State Fault Refusal := .next (heldByDump (.yardCancel port tag) (yardCancelOp port tag) s)
/-- DRAIN_TIMEOUT. -/
def execDrainTimeout (slot : Nat) (s : State) : Host.Outcome State Fault Refusal := .next (drainTimeoutOp slot s)

end Sys2Proof.Machine
end

