-- ==== Sys2Proof/Machine/Packets.lean ====
section
/-!
DEFINITION. Packets that a port has received (13_rudom_and_timetable.md, R347–R360): routing and delivery, peer requests
and responses, the reassembly of BULK frames, and the rows PACKET_RX, RD_REQ, WR, WR_MASK, RD_RSP, WR_ACK, ERR_RSP and
CREDIT.
-/
namespace Sys2Proof.Machine

/-- A packet is discarded and logged (R347, R349). -/
def State.discardPacket (s : State) (k : Nat) (p : Packet) : State := s.logPort k stRange p.dst.toNat 0

/-! ## Peer requests (R360) -/

/-- An enabled export window lets a node read or write a line. -/
def State.exported (s : State) (src pa : Nat) (wr : Bool) : Bool :=
  (List.range 16).any (fun n =>
    let w := Tab.get ExpWin.zero s.cfg.exp n
    w.en && (if wr then w.wrt else w.rd) && decide (w.nodeLo ≤ src) && decide (src ≤ w.nodeHi)
      && decide (w.baseGib * 2 ^ 30 ≤ pa) && decide (pa + 512 ≤ (w.baseGib + w.sizeGib) * 2 ^ 30))

/-- A peer request for a line is served: the table store is out of its reach (R500). -/
def State.peerOk (s : State) (p : Packet) (wr : Bool) : Bool :=
  let pa := p.addr.toNat
  pa % 512 == 0 && s.hbmExists pa && !s.inTstore pa && s.exported p.src.toNat pa wr

/-- A packet that needs a path which is not awake waits (R454); during a hang dump new packets are held, and responses, which complete the
wagons in flight, are not (R480). -/
def State.mustWait (s : State) (p : Packet) : Bool :=
  (s.trc.dump.busy && (p.kind == 1 || p.kind == 2 || p.kind == 3 || p.kind == 7 || p.kind == 8))
    || s.asleep && (p.kind == 1 || p.kind == 2 || p.kind == 3
    || (p.kind == 7 && ((s.ringByTag p.arg).isSome || (s.yardByTag p.arg).isSome)))

/-- A request that must wait stays in this device's own stream. -/
def State.orWait (s : State) (p : Packet) (f : State → State) : State :=
  if s.mustWait p then { s with fab := { s.fab with loop := s.fab.loop ++ [p] } } else f s

/-- RD_REQ served or refused. -/
def rdReqOp (p : Packet) (s : State) : State :=
  let pa := p.addr.toNat
  if !s.peerOk p false then s.errRsp p stXlate
  else
    let r := s.readCodes pa .clean
    let s1 := r.1.bump (cntStack (s.stackOf pa) 1) 1
    if r.2 = .uncorrectable then ((s1.logNew (s.lineArg stEcc pa)).1).errRsp p stEcc
    else s1.respond (s1.mkPacket p.src.toNat 4 pa p.tag.toNat (s.mem.read (.hbm pa) 512))

/-- The bytes of a line that a WR, a WR_MASK names. -/
def wrBytesOf (p : Packet) : List (Nat × Byte) :=
  if p.kind = 2 then (slice p.data 0 512).zipIdx.map (fun (x : Byte × Nat) => (x.2, x.1))
  else
    (((slice p.data 64 512).zipIdx).filter (fun (x : Byte × Nat) => bitAt (u8At p.data (x.2 / 8)) (x.2 % 8))).map
      (fun (x : Byte × Nat) => (x.2, x.1))

/-- WR and WR_MASK served or refused: a served write is watched (R274). -/
def wrReqOp (p : Packet) (s : State) : State :=
  let pa := p.addr.toNat
  if !s.peerOk p true then s.errRsp p stXlate
  else
    let s1 := (s.landLine none (.hbm pa) (wrBytesOf p)).bump (cntStack (s.stackOf pa) 2) 1
    s1.respond (s1.mkPacket p.src.toNat 5 pa p.tag.toNat [])

/-! ## Peer responses (R349, R354, R360) -/

/-- A wagon that waits for the response of a peer. -/
def Wagon.peerOf (w : Wagon) : Option (Nat × Nat) :=
  match w.req.line with
  | .peer n pa => some (n, pa)
  | _ => none

/-- The wagon that a response names: by TAG, and among wagons of one tag by ADDR. -/
def State.answered (s : State) (p : Packet) (ok : Wagon → Bool) : Option Wagon :=
  let ws := s.cmds.wagons.filter (fun w => w.peerOf.isSome && !w.served && w.tag == p.tag.toNat && ok w)
  match ws.find? (fun w => (w.peerOf.map (·.2)) == some p.addr.toNat) with
  | some w => some w
  | none => ws.head?

/-- RD_RSP: the line comes back to its wagon. -/
def rdRspOp (k : Nat) (p : Packet) (s : State) : State :=
  match s.answered p (fun w => w.req.kind == .read && w.peerOf == some (p.src.toNat, p.addr.toNat)) with
  | some w => s.modWagon w.id (fun x => { x with served := true, data := slice p.data 0 512 })
  | none => s.discardPacket k p

/-- WR_ACK: the write of the wagon is accepted; it is watched, as every write wagon is (R274, R287). -/
def wrAckOp (k : Nat) (p : Packet) (s : State) : State :=
  match s.answered p (fun w => w.req.kind != .read && (w.peerOf.map (·.1)) == some p.src.toNat) with
  | some w => (s.watchBytes (some w.req.slot) w.req.line w.req.bytes).modWagon w.id (fun x => { x with served := true })
  | none => s.discardPacket k p

/-- A speculative tile whose line a peer refuses stays unfetched: a suppressed fault of its core (R270, R272, R469). -/
def State.dropSpec (s : State) (x : Wagon) (st : Byte) : State :=
  let s1 := s.dropTile x
  if st = stXlate then
    let s2 := s1.modAcc x.req.slot (fun a => { a with specFault := a.specFault + 1 })
    match s.wagonCore x.req with
    | some k => s2.bump (cntCore k 8) 1
    | none => s2
  else s1

/-- ERR_RSP: the requesting command ends with its STATUS. -/
def errRspOp (k : Nat) (p : Packet) (s : State) : State :=
  if !isReturned p.status then s.discardPacket k p
  else
    match s.answered p (fun _ => true) with
    | none => s.discardPacket k p
    | some x =>
      let s1 := s.modWagon x.id (fun x => { x with served := true, arrived := true })
      if x.discard ∨ x.timedOut then s1
      else if x.req.kind = .read ∧ x.req.spec then s1.dropSpec x p.status
      else if x.req.field = loadField ∧ (p.status = stEcc ∨ p.status = stXlate) then
        s1.loadLost x.req.slot (s.wagonCore x.req) (s.placeArg x.req.line x.port p.status)
      else
        (s1.failMig x p.status).failCmd x.req.slot p.status 0 x.req.stage
          { status := p.status, unit := uPort, where_ := k, addr := x.req.line.addr }

/-! ## CREDIT (R350) -/

def creditOp (k : Nat) (p : Packet) (s : State) : State :=
  let add (t : Tab Nat) (vc : Nat) : Tab Nat :=
    let w := if vc < 4 then p.addr.toNat else p.arg2.toNat
    Tab.set 0 t vc (Tab.get 0 t vc + field w (16 * (vc % 4) + 15) (16 * (vc % 4)))
  (s.modPort k (fun q => { q with credits := (List.range 8).foldl add q.credits })).pump k

/-! ## BULK frames (R137, R349, R375) -/

def State.setFrame (s : State) (k src : Nat) (tag : Word) (b : Option (List Byte)) : State :=
  let fs := s.fab.frames.filter (fun f => !(f.port == k && f.src == src && f.tag == tag))
  let fs := match b with
    | some g => fs ++ [⟨k, src, tag, g⟩]
    | none => fs
  { s with fab := { s.fab with frames := fs } }

/-- The axis on which another node lies in this device's line. -/
def NodeCfg.axisOf (n : NodeCfg) (src : Nat) : Option Nat :=
  match (List.range 4).filter (fun a => n.coord src a != n.own a) with
  | [a] => some a
  | _ => none

/-- A whole ring frame. -/
def State.ringFrame (s : State) (slot : Nat) (f : RingFrame) : State :=
  if f.ftype = 3 then ringCreditOp slot f s
  else if f.ftype = 1 ∨ f.ftype = 2 then ringChunkOp slot f s
  else s.ringBad (some slot) f

/-- A whole Yard frame. -/
def State.yardFrame (s : State) (axis : Nat) (f : YardFrame) : State :=
  match f.ftype.toNat with
  | 1 => openOp axis f s
  | 2 => grantOp axis f s
  | 3 => rejectOp axis f s
  | 4 => dataOp axis f s
  | _ => s.yardBad none axis f

/-- The payload that the header of a frame names. -/
def State.frameLen (s : State) (tag : Word) (b : List Byte) : Nat :=
  if (s.ringByTag tag).isSome then ringPayload b else yardPayload b

/-- A frame is whole. -/
def State.frameDone (s : State) (k : Nat) (p : Packet) (b : List Byte) : State :=
  match s.ringByTag p.arg with
  | some slot => s.ringFrame slot (parseRingFrame b)
  | none =>
    match s.cfg.node.axisOf p.src.toNat with
    | some a => s.yardFrame a (parseYardFrame (s.cfg.node.coord p.src.toNat a) p.depClass b)
    | none => s.discardPacket k p

/-- A BULK packet joins its frame. -/
def bulkOp (k : Nat) (p : Packet) (s : State) : State :=
  let src := p.src.toNat
  let off := p.arg2.toNat
  let got := ((s.fab.frames.find? (fun f => f.port == k && f.src == src && f.tag == p.arg)).map (·.got)).getD []
  if off ≠ 0 ∧ (off ≠ got.length ∨ got = []) then (s.setFrame k src p.arg none).discardPacket k p
  else
    let b := if off = 0 then p.data else got ++ p.data
    let n := s.frameLen p.arg b
    if frameMax < n then (s.setFrame k src p.arg none).discardPacket k p
    else if b.length < 32 + n then s.setFrame k src p.arg (some b)
    else (s.setFrame k src p.arg none).frameDone k p b

/-- A CTRL packet. -/
def ctrlOp (k : Nat) (p : Packet) (s : State) : State :=
  match p.arg.toNat % 256 with
  | 1 =>
    let tag : Word := BitVec.ofNat 32 (p.arg2.toNat % 2 ^ 32)
    if (s.ringByTag tag).isSome then ringCancelOp k tag s else yardCancelOp k tag s
  | 2 => s
  | _ => s.discardPacket k p

/-! ## PACKET_RX -/

/-- A packet whose DST is this device. -/
def State.deliver (s : State) (k : Nat) (p : Packet) : State :=
  match p.kind.toNat with
  | 1 => rdReqOp p s
  | 2 => wrReqOp p s
  | 3 => wrReqOp p s
  | 4 => rdRspOp k p s
  | 5 => wrAckOp k p s
  | 6 => errRspOp k p s
  | 7 => bulkOp k p s
  | 8 => ctrlOp k p s
  | _ => s

/-- A packet taken from a receive stream: its header slot, the packet, replayed, when it arrived, the stream without it. -/
structure RxPkt where
  head : List Byte
  p    : Packet
  rpl  : Bool
  at_  : Dword
  rest : List Byte
  restRpl : List Bool
  restAt : List Dword

/-- The first whole packet of a receive stream that need not wait (R347, R454). NULL slots are passed over. -/
def State.nextRx (s : State) : Nat → List Byte → List Bool → List Dword → Option RxPkt
  | 0, _, _, _ => none
  | fuel + 1, b, fl, ts =>
    if b.length < 32 then none
    else if zeroAt b 0 32 then s.nextRx fuel (b.drop 32) (fl.drop 1) (ts.drop 1)
    else
      let n := (headPacket b).1
      if b.length < 32 * n then none
      else
        let p := packetOf (b.take 32) (slice b 32 (32 * (n - 1)))
        if !headerBad (b.take 32) && s.mustWait p then
          (s.nextRx fuel (b.drop (32 * n)) (fl.drop n) (ts.drop n)).map (fun r =>
            { r with rest := b.take (32 * n) ++ r.rest, restRpl := fl.take n ++ r.restRpl, restAt := ts.take n ++ r.restAt })
        else some ⟨b.take 32, p, fl.headD false, ts.headD 0, b.drop (32 * n), fl.drop n, ts.drop n⟩

/-- A link-local packet is consumed by its port. -/
def State.takeLocal (s : State) (k : Nat) (rpl : Bool) (at_ : Dword) (p : Packet) : State :=
  if p.kind = 9 then creditOp k p s
  else
    match p.arg.toNat % 256 with
    | 1 => timeReqAt k p at_ s
    | 2 => timeRspAt k rpl p at_ s
    | _ => s.discardPacket k p

/-- A packet that is not link-local is delivered, forwarded or dropped (R354–R359). -/
def State.takePacket (s : State) (k : Nat) (p : Packet) : State :=
  let back (s : State) : State := s.giveBack ⟨p, none, none, some (k, p.vc), 0⟩
  if s.cfg.node.count ≤ p.dst.toNat then (back s).dropPacket k p stRange
  else if p.dst.toNat = s.cfg.node.node then (back s).deliver k p
  else
    let r := s.sendPacket p none none (some (k, p.vc))
    match r.2 with
    | .sent => r.1
    | .lost => back r.1
    | .down =>
      if p.kind = 1 ∨ p.kind = 2 ∨ p.kind = 3 then (back r.1).errRsp p stLinkDown else (back r.1).dropPacket k p stLinkDown

/-- The first packet of this device's own stream that need not wait. -/
def State.takeLoop (s : State) : Option (Packet × List Packet) :=
  match s.fab.loop.findIdx? (fun p => !s.mustWait p) with
  | some i => (s.fab.loop[i]?).map (fun p => (p, s.fab.loop.eraseIdx i))
  | none => none

/-- PACKET_RX: the first packet that this device has addressed to itself, or else the first of the port's receive
stream. -/
def packetRxOp (k : Nat) (s : State) : State :=
  match s.takeLoop with
  | some (p, rest) => ({ s with fab := { s.fab with loop := rest } }).deliver k p
  | none =>
    let q := s.port k
    match s.nextRx (q.rxSlots.length / 32) q.rxSlots q.rxRpl q.rxAt with
    | none => s
    | some r =>
      let s1 := s.setPort k { q with rxSlots := r.rest, rxRpl := r.restRpl, rxAt := r.restAt }
      if headerBad r.head || (r.p.linkLocal && r.p.src.toNat != q.peerNode) then
        (s1.logPort k stRange 0 0).modPort k (fun q =>
          if r.p.linkLocal then q else { q with ret := Tab.set 0 q.ret r.p.vc (Tab.get 0 q.ret r.p.vc + r.p.len + 1) })
      else if r.p.linkLocal then s1.takeLocal k r.rpl r.at_ r.p
      else s1.takePacket k r.p

/-! ## Rows -/

/-- PACKET_RX. -/
def execPacketRx (port : Nat) (s : State) : Host.Outcome State Fault Refusal := .next (packetRxOp port s)
/-- RD_REQ: the packet's KIND is that of the row. -/
def execRdReq (_port : Nat) (p : Packet) (s : State) : Host.Outcome State Fault Refusal := .next (s.orWait { p with kind := 1 } (rdReqOp { p with kind := 1 }))
/-- WR. -/
def execWr (_port : Nat) (p : Packet) (s : State) : Host.Outcome State Fault Refusal :=
  .next (s.orWait { p with kind := 2 } (wrReqOp { p with kind := 2 }))
/-- WR_MASK. -/
def execWrMask (_port : Nat) (p : Packet) (s : State) : Host.Outcome State Fault Refusal :=
  .next (s.orWait { p with kind := 3 } (wrReqOp { p with kind := 3 }))
/-- RD_RSP. -/
def execRdRsp (port : Nat) (p : Packet) (s : State) : Host.Outcome State Fault Refusal := .next (rdRspOp port p s)
/-- WR_ACK. -/
def execWrAck (port : Nat) (p : Packet) (s : State) : Host.Outcome State Fault Refusal := .next (wrAckOp port p s)
/-- ERR_RSP. -/
def execErrRsp (port : Nat) (p : Packet) (s : State) : Host.Outcome State Fault Refusal := .next (errRspOp port p s)
/-- CREDIT. -/
def execCredit (port : Nat) (p : Packet) (s : State) : Host.Outcome State Fault Refusal := .next (creditOp port p s)

end Sys2Proof.Machine
end

