-- ==== Sys2Proof/Machine/Start.lean ====
section
/-!
DEFINITION. CMD_START (R305): the start of an admitted command, with the waits on UPD and LEASES (R390), the drain of a
PERMUTE (R394), the OPENs of a Yard command (R376), and the start of a load phase that waits for T_START (R250).
-/
namespace Sys2Proof.Machine

/-! ## Leases (R390) -/

/-- What R390 decides at a start: start now, or wait; `true` when an UPDATE has set UPD, or a GATHER takes a lease. -/
inductive LeaseGo where
  | go (take : Bool)
  | wait (setUpd : Bool)
  deriving DecidableEq, Repr

/-- The lease entry of a command, with its key. -/
def State.leaseOf (s : State) (c : Cmd) : Option (Nat × Lease) :=
  (c.leaseVa.bind (fun va => s.hbmWordAt c.ctx va)).bind (fun pa =>
    (s.leaseKey pa).bind (fun k => (Tab.get none s.yard.leases k).map (fun l => (k, l))))

/-- What the entry of a command lets it do. -/
def State.leaseGo (s : State) (c : Cmd) : LeaseGo :=
  match s.leaseOf c with
  | none => .go false
  | some (_, l) =>
    if c.op = 0x0C then (if l.leases = 0 then .go true else .wait true)
    else if bitAt (u32At c.pb 0x08) 10 then (if l.upd ∨ 0xFFFF ≤ l.leases then .wait false else .go true)
    else .go false

/-- A command waits on its lease entry: an UPDATE has set UPD; the wait runs against WAIT_MS. -/
def State.leaseWait (s : State) (slot : Nat) (c : Cmd) (setUpd : Bool) : State :=
  let s1 := match s.leaseOf c with
    | some (k, l) => if setUpd then s.setLease k (some { l with upd := true }) else s
    | none => s
  let now := s.time.cmdClk
  s1.setCmd slot (some { c with leased := c.leased || setUpd, leaseAt := some (c.leaseAt.getD now)
                                waitAt := if c.leaseAt.isSome then c.waitAt else now })

/-- The lease entry at the start of a command. -/
def State.leaseTake (s : State) (c : Cmd) (take : Bool) : State :=
  match s.leaseOf c with
  | some (k, l) =>
    if !take then s
    else if c.op = 0x0C then s.setLease k (some { l with upd := true })
    else s.setLease k (some { l with leases := l.leases + 1 })
  | none => s

/-! ## The start of a Yard command -/

/-- The members to which a Yard command sends (R381, R388, R392). -/
def Cmd.yardDests (c : Cmd) (y : YardSt) : List Nat :=
  if y.size ≤ 1 then []
  else if c.op = 11 then
    ((((c.stages.head?).getD Stage.none).sends.map (·.dest)).filter (fun d => d != y.own)).eraseDups
  else if y.halves.isEmpty then []
  else [nextMember y.own y.size 0, nextMember y.own y.size 1].eraseDups

/-- The generations that a GATHER reads at its start: its own, and the expected one (R389). -/
def State.startGens (s : State) (c : Cmd) : List Nat :=
  let p := ydPar c.pb
  let rd (va : Nat) : Nat := leNat (s.rdBytes c.ctx va 4)
  if c.op = 10 ∧ p.wgen ≠ 0 then rd p.wgen :: (if p.expect = 0 then [] else [rd p.expect]) else []

/-- The lease entry of a GATHER's word shows the generation read by its start. -/
def State.noteGen (s : State) (c : Cmd) : State :=
  let p := ydPar c.pb
  if c.op = 10 ∧ p.wgen ≠ 0 then
    match (s.hbmWordAt c.ctx p.wgen).bind s.leaseKey with
    | none => s
    | some k =>
      match Tab.get none s.yard.leases k with
      | some l => s.setLease k (some { l with gen := BitVec.ofNat 32 (leNat (s.rdBytes c.ctx p.wgen 4)) })
      | none => s
  else s

/-- DRAIN of the job of a PERMUTE ends with its start (R394). -/
def State.endDrain (s : State) (c : Cmd) : State :=
  if c.op = 11 then
    match s.jobKey (ydPar c.pb).job with
    | none => s
    | some k =>
      match Tab.get none s.yard.jobs k with
      | some j => { s with yard := { s.yard with jobs := Tab.set none s.yard.jobs k (some { j with drain := false }) } }
      | none => s
  else s

/-- OPEN goes to each member that the command will send to (R376). -/
def State.sendOpens (s : State) (slot : Nat) : State :=
  match s.cmd? slot with
  | none => s
  | some c =>
    match c.yard with
    | none => s
    | some y =>
      if s.yardDown c y then s.yardLinkDown slot
      else
        let ds := c.yardDests y
        let s1 := s.modYard slot (fun y => { y with opened := ds, waitFrom := s.time.cmdClk })
        ds.foldl (fun (s : State) d => (s.sendYard (some slot) none y.axis d (c.yardNote y.own (s.cfg.node.dirTo y.axis d) 1 0)).1) s1

/-- The expected generation of a GATHER cannot be read. -/
def State.expectFault (s : State) (c : Cmd) : Option Nat :=
  let p := ydPar c.pb
  if c.op = 10 ∧ p.expect ≠ 0 then s.rangeFault c.ctx p.expect 4 false else none

/-! ## CMD_START -/

/-- A start departure is missed: traced (R473), and logged while a supply warning slows the cores (R456). -/
def State.missedStart (s : State) (c : Cmd) : State :=
  let s1 := s.traceCmd c 0x08 c.crec.tStart.toNat 0
  if s.slowed then s1.logErr (c.ofCmd { status := stOk, unit := uSeq, addr := c.crec.tStart.toNat } (s.ctxHostCode c.ctx)) else s1

/-- A command starts: its streams run ahead of their consumers, its tokens are used, its watchdog runs, and it is traced (R305, R316, R473). -/
def State.start (s : State) (slot : Nat) (c : Cmd) (take : Bool) : State :=
  let now := s.time.cmdClk
  let s1 := ((s.leaseTake c take).noteGen c).endDrain c
  let late := s.cfg.profile == .express && c.crec.startEn && decide (c.crec.tStart.toNat + 1000 < s.time.now.toNat)
  let us (t : Dword) : Nat := (now - t).toNat / 1000
  let c1 := { c with phase := .started, startAt := now, stallBy := s.stallDue, held := [], leased := c.leased || take
                     leaseAt := none, yard := c.yard.map (fun y => { y with gens := s.startGens c }) }
  let s2 := (s1.setCmd slot (some c1)).traceCmd c 0x02 0 slot
  let s3 := if late then s2.missedStart c else s2
  let s4 := if c.op = 10 then s3.count slot .ydWaitUs ((c.leaseAt.map us).getD 0)
    else if c.op = 11 then s3.count slot .ydDrainUs (us c.admitAt) else s3
  match s.expectFault c with
  | some a => s4.failCmd slot stXlate 0 0 { status := stXlate, unit := uYard, addr := a }
  | none => (s4.sendOpens slot).runAhead slot false

/-- The sequencers start commands: no hang dump freezes the device, and no idle state has stopped the dies (R452, R480). -/
def State.mayStart (s : State) (c : Cmd) : Bool :=
  let x := (s.ctx c.ctx).state
  !s.trc.dump.busy && !s.asleep && (x == .on || x == .restoring) && s.departed c && !isError c.st

/-- CMD_START. -/
def startOp (slot : Nat) (s : State) : State :=
  match s.cmd? slot with
  | none => s
  | some c =>
    if !s.mayStart c ∨ 4096 ≤ slot then s
    else if c.beforeMain then
      match c.dual with
      | some d => if d.phase = .load ∧ d.entered ∧ c.phase = .admitted then s.beginLoad slot else s
      | none => s
    else if c.phase ≠ .ready ∨ (c.op = 11 ∧ s.draining c) then s
    else
      match s.leaseGo c with
      | .wait u => s.leaseWait slot c u
      | .go take => s.start slot c take

/-- CMD_START. -/
def execCmdStart (slot : Nat) (s : State) : Host.Outcome State Fault Refusal := .next (startOp slot s)

end Sys2Proof.Machine
end

