-- ==== Sys2Proof/Machine/Sha3.lean ====
section
/-!
DEFINITION. SHA3-512 (FIPS 202), the digest of 16_boot_and_trust.md (R425, R426, R437, R441). PRESUMED: the spec names
FIPS 202 and does not print it (log 10).
-/
namespace Sys2Proof.Machine

/-- Rotate a lane left. -/
def rotl64 (x : Dword) (n : Nat) : Dword := x.rotateLeft n

/-- Lane (x, y) of a state of 25 lanes. -/
def lane (a : List Dword) (x y : Nat) : Dword := nth 0 a (5 * (y % 5) + x % 5)

/-- Build a state lane by lane. -/
def lanes (f : Nat → Nat → Dword) : List Dword := (List.range 25).map (fun i => f (i % 5) (i / 5))

/-- Rotation offsets of the step ρ, in the order of lanes. -/
def rhoOffsets : List Nat :=
  [0, 1, 62, 28, 27, 36, 44, 6, 55, 20, 3, 10, 43, 25, 39] ++ [41, 45, 15, 21, 8, 18, 2, 61, 56, 14]

/-- Round constants of the step ι. -/
def iotaConsts : List Dword :=
  [0x0000000000000001, 0x0000000000008082, 0x800000000000808A, 0x8000000080008000, 0x000000000000808B, 0x0000000080000001]
    ++ [0x8000000080008081, 0x8000000000008009, 0x000000000000008A, 0x0000000000000088, 0x0000000080008009, 0x000000008000000A]
    ++ [0x000000008000808B, 0x800000000000008B, 0x8000000000008089, 0x8000000000008003, 0x8000000000008002, 0x8000000000000080]
    ++ [0x000000000000800A, 0x800000008000000A, 0x8000000080008081, 0x8000000000008080, 0x0000000080000001, 0x8000000080008008]

/-- One round of Keccak-f[1600]. -/
def keccakRound (a : List Dword) (rc : Dword) : List Dword :=
  let c := (List.range 5).map (fun x => (List.range 5).foldl (fun v y => v ^^^ lane a x y) 0)
  let d (x : Nat) : Dword := nth 0 c ((x + 4) % 5) ^^^ rotl64 (nth 0 c ((x + 1) % 5)) 1
  let t := lanes (fun x y => lane a x y ^^^ d x)
  -- ρ and π: lane (x, y) comes from lane (x + 3y, x)
  let b := lanes (fun x y =>
    let u := (x + 3 * y) % 5
    rotl64 (lane t u x) (nth 0 rhoOffsets (5 * x + u)))
  let e := lanes (fun x y => lane b x y ^^^ (~~~ (lane b (x + 1) y) &&& lane b (x + 2) y))
  match e with
  | [] => []
  | v :: r => (v ^^^ rc) :: r

def keccakF (a : List Dword) : List Dword := iotaConsts.foldl keccakRound a

/-- Absorb blocks of 72 bytes. -/
def absorb : Nat → List Byte → List Dword → List Dword
  | 0, _, a => a
  | n + 1, m, a =>
    let blk := m.take 72
    absorb n (m.drop 72) (keccakF (a.zipIdx.map (fun (p : Dword × Nat) =>
      if p.2 < 9 then p.1 ^^^ BitVec.ofNat 64 (u64At blk (8 * p.2)) else p.1)))

/-- The padding of SHA-3: 0x06, zeros, 0x80, to whole blocks. -/
def sha3Pad (m : List Byte) : List Byte :=
  let n := 72 - m.length % 72
  m ++ (if n = 1 then [0x86] else 0x06 :: (List.replicate (n - 2) 0 ++ [0x80]))

/-- SHA3-512: 64 bytes. -/
def sha3 (m : List Byte) : List Byte :=
  let p := sha3Pad m
  (absorb (p.length / 72) p (List.replicate 25 0)).take 8 |>.flatMap (fun v => toLe 8 v.toNat)

end Sys2Proof.Machine
end

