-- ==== Sys2Proof/Machine/Bist.lean ====
section
/-!
DEFINITION. Repairs and self-test (01_dies_and_step_path.md R15–R28, 16_boot_and_trust.md R435, R436, R445, R446): the repair
record and the inventory that a boot finds.
-/
namespace Sys2Proof.Machine

/-! ## Repair entries (R436) -/

/-- A repair entry. -/
structure RepEnt where
  kind   : Nat
  place  : Nat
  unit   : Nat
  detail : Nat
  deriving DecidableEq, Repr

def parseRep (b : List Byte) : RepEnt := ⟨u8At b 0, u8At b 1, u16At b 2, u32At b 4⟩

/-- An entry meets R436. -/
def repOk (b : List Byte) : Bool :=
  let e := parseRep b
  zeroAt b 8 8 && (e.kind == 5 || e.detail == 0) &&
    match e.kind with
    | 1 => decide (e.place ≤ 1) && decide (e.unit ≤ 143)
    | 2 => decide (e.place ≤ 1) && decide (e.unit < 144 * 33)
    | 3 => e.place == 0 && decide (e.unit ≤ 67)
    | 4 => decide (e.place ≤ 7) && decide (e.unit / 2 ≤ 8)
    | 5 => decide (e.place ≤ 7) && decide (e.unit ≤ 63)
    | 6 => decide (e.place ≤ 7) && decide (e.unit ≤ 63)
    | 7 => decide (e.place ≤ 7) && e.unit == 0
    | _ => false

/-- A failed unit as the first eight bytes of its repair entry, DETAIL zero. -/
def repWord (kind place unit : Nat) : Nat := kind + putAt place 8 + putAt unit 16

/-- A failed HBM row as its repair entry. -/
def rowWord (st pc row : Nat) : Nat := repWord 5 st pc + putAt row 32

/-- The units that self-test found failed, as repair entries (R27). -/
def foundWords (r : BistResult) : List Nat :=
  r.sites.map (fun (x : Nat × Nat) => repWord 1 x.1 x.2)
    ++ r.routers.map (fun (x : Nat × Nat) => repWord 1 x.1 x.2)
    ++ r.platBanks.map (fun (x : Nat × Nat × Nat) => repWord 2 x.1 (x.2.1 * 33 + x.2.2))
    ++ r.depotBanks.map (fun b => repWord 3 0 b)
    ++ r.lanes.map (fun (x : Nat × Nat × Nat) => repWord 4 x.1 (x.2.1 + 2 * x.2.2))
    ++ r.rows.map (fun (x : Nat × Nat × Nat) => rowWord x.1 x.2.1 x.2.2)
    ++ r.pcs.map (fun (x : Nat × Nat) => repWord 6 x.1 x.2)
    ++ r.engines.map (fun e => repWord 7 e 0)

/-! ## The inventory -/

/-- What a boot starts from: the failed units of the repair record and of self-test, as the first eight bytes of repair entries. -/
abbrev Faults := List Nat

def Faults.has (f : Faults) (kind place unit : Nat) : Bool := f.contains (repWord kind place unit)

/-- Failed physical banks of the Platform at a site. -/
def Faults.badBanks (f : Faults) (die site : Nat) : List Nat := (List.range 33).filter (fun b => f.has 2 die (site * 33 + b))

/-- A site fails itself, or by two failed Platform banks (R26). -/
def Faults.badSite (f : Faults) (die site : Nat) : Bool := f.has 1 die site || decide (2 ≤ (f.badBanks die site).length)

/-- The sites enabled on a die: the lowest 136 that work (DESIGN CHOICE, log 13). -/
def Faults.dieSites (f : Faults) (die : Nat) : List Nat := ((List.range 144).filter (fun i => !f.badSite die i)).take 136

/-- Spare sites in use: failed sites among the first 136 that a working one of the last 8 replaces. -/
def Faults.spares (f : Faults) (die : Nat) : Nat := ((f.dieSites die).filter (fun i => decide (136 ≤ i))).length

/-- The failed lanes of a direction of a port. -/
def Faults.badLanes (f : Faults) (port dir : Nat) : List Nat := (List.range 9).filter (fun l => f.has 4 port (dir + 2 * l))

/-- A compute die works (R445): its network, sequencer and bridge pass, its clocks have locked, 32 sites are enabled. -/
def dieWorks (f : Faults) (r : BistResult) (pll : List Nat) (die : Nat) : Bool :=
  (if die = 0 then r.dieOk.1 else r.dieOk.2) && !pll.contains (1 + die) && !pll.contains (3 + die)
    && decide (32 ≤ (f.dieSites die).length)

/-- A stack answers: it is there, its clock has locked, its die works (R23, R445). -/
def stackWorks (f : Faults) (r : BistResult) (pll : List Nat) (st : Nat) : Bool :=
  !r.stacksBad.contains st && !pll.contains (6 + st) && dieWorks f r pll (st / 4)

/-- The rows that a controller replaces at boot: those of the record and those that self-test found, as (stack, pseudo-channel, row). -/
def Faults.rows (f : Faults) : List (Nat × Nat × Nat) :=
  (f.filter (fun w => w % 256 == 5)).map (fun w => (field w 15 8, field w 31 16, w / 2 ^ 32))

/-- The pseudo-channels out of service. -/
def mapOutOf (f : Faults) (r : BistResult) (pll : List Nat) : List Nat :=
  (List.range 512).filter (fun x => f.has 6 (x / 64) (x % 64) || !stackWorks f r pll (x / 64))

/-! ## Routes of a die network (R15) -/

/-- The sites next to a site i = 12y + x, along x first. -/
def nextSites (i : Nat) : List Nat :=
  (if i % 12 < 11 then [i + 1] else []) ++ (if 0 < i % 12 then [i - 1] else []) ++ (if i < 132 then [i + 12] else [])
    ++ (if 12 ≤ i then [i - 12] else [])

/-- The sites from a to b along x and then along y, a left out. -/
def xyPath (a b : Nat) : List Nat :=
  let ax := a % 12
  let ay := a / 12
  let bx := b % 12
  let by_ := b / 12
  let xs := if ax ≤ bx then (List.range (bx - ax)).map (fun d => 12 * ay + ax + 1 + d)
    else (List.range (ax - bx)).map (fun d => 12 * ay + ax - 1 - d)
  let ys := if ay ≤ by_ then (List.range (by_ - ay)).map (fun d => 12 * (ay + 1 + d) + bx)
    else (List.range (ay - by_)).map (fun d => 12 * (ay - 1 - d) + bx)
  xs ++ ys

/-- The sites at each distance from the sites of the last layer, off the bad ones: layers of a search that grows from b. -/
def siteLayers (bad : List Nat) : Nat → List Nat → List Nat → List (List Nat)
  | 0, _, _ => []
  | fuel + 1, seen, layer =>
    let new := ((layer.flatMap nextSites).filter (fun i => !seen.contains i && !bad.contains i)).eraseDups
    if new = [] then [] else new :: siteLayers bad fuel (seen ++ new) new

/-- A walk from a site that goes down one layer at each step: at each the first of the next sites, along x first (DESIGN CHOICE, log 93). -/
def descend : Nat → List (List Nat) → List Nat
  | _, [] => []
  | i, l :: t =>
    match (nextSites i).find? (fun j => l.contains j) with
    | some j => j :: descend j t
    | none => []

/-- The detour from a to b: the shortest path off the sites in `bad`, a left out; none where there is no such path. -/
def detour (bad : List Nat) (a b : Nat) : Option (List Nat) :=
  let layers := [b] :: siteLayers bad 143 [b] [b]
  match layers.findIdx? (fun l => l.contains a) with
  | some n => some (descend a (layers.take n).reverse)
  | none => none

/-- The route of a packet on a die from site a to site b, the sites after a (R15): along x and then y, or the shortest detour when that
meets a site whose router failed self-test. It follows from the inventory, which a boot fixes. -/
def Inventory.dieRoute (v : Inventory) (die a b : Nat) : Option (List Nat) :=
  let bad := (v.routerBad.filter (fun c => c / 144 == die)).map (fun c => c % 144)
  if (xyPath a b).any (fun i => bad.contains i) then (if bad.contains b then Option.none else detour bad a b) else some (xyPath a b)

/-- What the edge ports of a die serve (R15). -/
inductive EdgeUnit where
  | complex (i : Nat)
  | bridgeDie
  | bridgeHub
  | sequencer
  deriving DecidableEq, Repr

/-- The sites whose routers carry the edge port group of a unit (R15). -/
def edgeSites (die : Nat) (u : EdgeUnit) : List Nat :=
  let outer := if die = 0 then 0 else 11
  match u with
  | .complex 0 => [2, 3, 4, 5].map (fun y => 12 * y + outer)
  | .complex 1 => [6, 7, 8, 9].map (fun y => 12 * y + outer)
  | .complex 2 => [2, 3, 4, 5].map (fun x => 132 + x)
  | .complex _ => [6, 7, 8, 9].map (fun x => 132 + x)
  | .bridgeDie => (List.range 12).map (fun y => 12 * y + (11 - outer))
  | .bridgeHub => [3, 4, 5, 6, 7, 8]
  | .sequencer => [outer]

/-- The groups of host lanes within a port that the split creates (R398, R446): groups of four lanes, from lane 0. -/
def portGroups (split : Nat) : List Nat := if split = 3 then [0] else [0, 1, 2, 3]

/-- The working inventory after self-test; `split` is HP_BIF. -/
def selfTest (f : Faults) (r : BistResult) (pll : List Nat) (split : Nat) : Inventory :=
  let works (d : Nat) : Bool := dieWorks f r pll d
  let sites := (List.range 2).flatMap (fun d => if works d then (f.dieSites d).map (fun i => 144 * d + i) else [])
  let out := mapOutOf f r pll
  let depotBad := ((List.range 68).filter (fun b => f.has 3 0 b))
  let good64 := depotBad.filter (fun b => decide (b < 64))
  let groups := if pll.contains 22 then [] else r.hostGroups
  let stackOk := (List.range 8).filter (fun st =>
    stackWorks f r pll st && (List.range 64).any (fun i => !out.contains (64 * st + i)))
  { sites := sites
    spare0 := if works 0 then f.spares 0 else 0
    spare1 := if works 1 then f.spares 1 else 0
    pbankSpared := sites.filter (fun c => (f.badBanks (c / 144) (c % 144)).any (fun b => decide (b < 32)))
    dbankSpared := min good64.length (4 - (depotBad.length - good64.length))
    banks := min 64 (68 - depotBad.length)
    lanes := (List.range 8).flatMap (fun p => (List.range 2).flatMap (fun d =>
      match f.badLanes p d with
      | [l] => [(p, d, l)]
      | _ => []))
    portsBad := (List.range 8).filter (fun p =>
      pll.contains (14 + p) || decide (2 ≤ (f.badLanes p 0).length) || decide (2 ≤ (f.badLanes p 1).length))
    mapOut := out
    stackOk := stackOk
    routerBad := r.routers.map (fun (x : Nat × Nat) => 144 * x.1 + x.2)
    engineBad := (List.range 8).filter (fun st => f.has 7 st 0 || !stackWorks f r pll st)
    rowRepairs := f.rows.filter (fun x => !out.contains (64 * x.1 + x.2.1))
    hostGroups := groups
    pllFailed := pll
    floorOk := r.hubOk && !pll.contains 5 && !pll.contains 23 && groups.any (fun g => (portGroups split).contains g)
      && (List.range 2).any (fun d => works d && stackOk.any (fun st => st / 4 == d)) }

end Sys2Proof.Machine
end

