-- ==== Sys2Proof/Machine/HostPort.lean ====
section
/-!
DEFINITION. Host functions (15_cxl_and_mailboxes.md): links and resets (R398, R399, R413), the HDM range (R404–R406),
snoops (R400) and the latency tolerance (R414).
-/
namespace Sys2Proof.Machine

def State.modHost (s : State) (k : Nat) (f : HostFn → HostFn) : State := s.setHost k (f (s.hostFn k))

/-- The link of a host function is up. -/
def HostFn.linkUp (h : HostFn) : Bool := h.width != 0

/-! ## Reset of a host function (R413) -/

/-- Every context of the range of host function k is reset. -/
def State.resetCtxs (s : State) (k : Nat) : State :=
  ((s.ctxs.map (·.1)).filter (fun c => s.ctxOfHost k c)).foldl (fun (s : State) c => s.beginReset c false) s

/-- Every context of the range is reset; during a hang dump's freeze, at its end (R480), held as the function's reset. -/
def State.resetRange (s : State) (k : Nat) : State := if s.trc.dump.busy then s.holdBack (.flr k) else s.resetCtxs k

/-- A word of `HostFn.pci` that FLR leaves: the AER masks, which are sticky, and the HDM decoder (R413, PCI Express). -/
def pciSticky (key : Nat) : Bool := (decide (0x100 ≤ key) && decide (key < 0x150)) || decide (0x10000 ≤ key)

/-- The configuration space of a function is reset: its writable words, MSI-X (log 42), the DOE mailbox and its
attestation state. -/
def HostFn.clearCfg (h : HostFn) : HostFn :=
  { h with pci := h.pci.filter (fun e => pciSticky e.1), msixTab := [], msixPend := [], doe := none, negotiated := false, ltrValue := 0, ltrScale := 0, ltrReq := true }

/-- The link goes down: the HDM decoder and Memory_Active are cleared, with every word of the configuration space. -/
def HostFn.dropLink (h : HostFn) : HostFn :=
  { h with pci := [], width := 0, speed := 0, cxl := false, decBase := 0, decSize := 0, committed := false, decErr := false, memActive := false }

/-- A host function is reset, logged once (R462). A warm reset in progress absorbs the reset, but for what happens to the link. -/
def State.resetHost (s : State) (k : Nat) (link : Bool) : State :=
  let s1 := s.modHost k (fun h => if link then h.clearCfg.dropLink else h.clearCfg)
  if s.pwr.warming then s1 else
  let s2 := s1.logErr { status := stOk, unit := uHost, host := k, where_ := k }
  (s2.releaseLocks (k + 1)).resetRange k

/-- HP_PERST_N of port k falls: the level of the pin, and the reset of a port that exists; the pin of an absent port is ignored (R494). -/
def perstAssertOp (k : Nat) (s : State) : State :=
  let h := s.hostFn k
  if 4 ≤ k ∨ h.perst then s
  else (if h.present then s.resetHost k true else s).modHost k (fun h => { h with perst := true })

def perstReleaseOp (k : Nat) (s : State) : State :=
  let h := s.hostFn k
  if k < 4 ∧ h.perst then s.setHost k { h with perst := false } else s

def linkDownOp (k : Nat) (s : State) : State := if k < 4 ∧ (s.hostFn k).linkUp then s.resetHost k true else s

def flrOp (k : Nat) (s : State) : State := if k < 4 ∧ (s.hostFn k).linkUp then s.resetHost k false else s

/-! ## Links (R398, R399) -/

/-- The lanes of host port k under a split. -/
def splitLanes (split k : Nat) : Nat :=
  match split with
  | 0 => if k = 0 then 16 else 0
  | 1 => if k < 2 then 8 else 0
  | 2 => if k < 4 then 4 else 0
  | _ => if k = 0 then 4 else 0

/-- The groups of four host lanes that form host port k under a split (R398). -/
def hostLaneGroups (split k : Nat) : List Nat := (List.range (splitLanes split k / 4)).map (fun i => splitLanes split k / 4 * k + i)

/-- The working lanes of host port k: a group that self-test found failed takes its four away (R399, R446). -/
def State.hostLanes (s : State) (k : Nat) : Nat :=
  4 * ((hostLaneGroups (s.boot.straps % 4) k).filter (fun g => s.inv.hostGroups.contains g)).length

/-- The lanes of a WIDTH code. -/
def widthLanes (w : Nat) : Nat :=
  match w with
  | 1 => 1
  | 2 => 2
  | 3 => 4
  | 4 => 8
  | 5 => 16
  | _ => 0

/-- HOST_LINK_UP: after the boot, out of PERST#, with a width within the port's working lanes and a speed; CXL mode runs at 8, 16 or
32 GT/s. -/
def linkUpOp (k width speed : Nat) (cxl : Bool) (s : State) : State :=
  let h := s.hostFn k
  let lanes := s.hostLanes k
  if k < 4 ∧ s.cfg.cfgDone ∧ h.present ∧ !h.perst ∧ !h.linkUp ∧ 1 ≤ width ∧ width ≤ 5 ∧ widthLanes width ≤ lanes
      ∧ 1 ≤ speed ∧ speed ≤ 5 ∧ (3 ≤ speed ∨ !cxl) then
    s.setHost k { h with width := width, speed := speed, cxl := cxl, memActive := cxl }
  else s

/-! ## The HDM range (R404–R406) -/

/-- HDM_DECODER_COMMIT: the size of Range 1, one way, multiples of 256 MiB. -/
def decoderOp (k base size ways : Nat) (s : State) : State :=
  let h := s.hostFn k
  let p := s.hostCfg k
  let range := if s.cfg.cfgDone then (p.h0Size + p.h1Size) * 2 ^ 30 else 0
  if k < 4 ∧ h.linkUp ∧ h.cxl then
    if range < size ∨ ways ≠ 1 ∨ base % 2 ^ 28 ≠ 0 ∨ size % 2 ^ 28 ≠ 0 then
      s.setHost k { h with committed := false, decErr := true }
    else s.setHost k { h with decBase := base, decSize := size, committed := true, decErr := false }
  else s

/-- The HBM address of a host address in the committed decoder (R405). -/
def State.hdmAddr (s : State) (k a : Nat) : Option Nat :=
  let h := s.hostFn k
  let p := s.hostCfg k
  if h.committed ∧ h.linkUp ∧ h.cxl ∧ h.decBase ≤ a ∧ a < h.decBase + h.decSize then
    let d := a - h.decBase
    some (if d < p.h0Size * 2 ^ 30 then p.h0Base * 2 ^ 30 + d else 2 ^ 38 + p.h1Base * 2 ^ 30 + (d - p.h0Size * 2 ^ 30))
  else none

/-- The answer of a CXL.mem read: data. -/
def State.memData (s : State) (k : Nat) (b : List Byte) : State := s.modHost k (fun h => { h with rdData := b })

/-- The answer of a CXL.mem write: Cmp (R406). -/
def State.cmp (s : State) (k : Nat) : State := s.modHost k (fun h => { h with cmps := h.cmps + 1 })

/-- A CXL.mem read of 64 bytes of HBM. -/
def memRead (k pa : Nat) (s : State) : State :=
  let zeros : List Byte := List.replicate 64 0
  if !s.hbmExists pa then (s.logErr { status := stRange, unit := uHost, host := k, where_ := k, addr := pa }).memData k zeros
  else
    let r := s.readCodes pa .clean
    if r.2 = .uncorrectable then ((r.1.logNew { s.lineArg stEcc pa with host := k, addr := pa }).1).memData k zeros
    else r.1.memData k (s.mem.read (.hbm pa) 64)

/-- A CXL.mem write of bytes within 64 bytes of HBM; a write of a hole is dropped, and completes. Host writes are not watched (R274, R409). -/
def memWrite (k pa : Nat) (bytes : List Byte) (s : State) : State :=
  if !s.hbmExists pa then (s.logErr { status := stRange, unit := uHost, host := k, where_ := k, addr := pa }).cmp k
  else ({ s with mem := s.mem.write (.hbm pa) (bytes.take (64 - pa % 64)) } : State).cmp k

/-- HDM_READ: the 64-byte line of a CXL.mem read; in an idle state it is accepted and waits (R454). -/
def hdmReadOp (k a : Nat) (s : State) : State :=
  match s.hdmAddr k (a / 64 * 64) with
  | none => s
  | some pa => if s.asleep then s.wait (.hdmRead k pa) else memRead k pa s

/-- HDM_WRITE: bytes of a CXL.mem write; in an idle state it is accepted and waits (R454). -/
def hdmWriteOp (k a : Nat) (bytes : List Byte) (s : State) : State :=
  match s.hdmAddr k a with
  | none => s
  | some pa => if s.asleep then s.wait (.hdmWrite k pa bytes) else memWrite k pa bytes s

/-- H2D_SNOOP: a function in CXL mode answers RspIHitI (R400). -/
def snoopOp (k : Nat) (s : State) : State :=
  if k < 4 ∧ (s.hostFn k).cxl then s.modHost k (fun h => { h with snoop := true }) else s

/-! ## Latency tolerance (R414) -/

/-- The multiplier of a SCALE code. -/
def ltrMult (c : Nat) : Nat := if c ≤ 5 then 2 ^ (5 * c) else 0

/-- The effective tolerance in ns; `none` when it is unbounded. -/
def State.tolerance (s : State) : Option Nat :=
  (List.range 4).foldl (fun (a : Option Nat) k =>
    let h := s.hostFn k
    if h.linkUp && h.ltrReq then
      let v := h.ltrValue * ltrMult h.ltrScale
      some (match a with
        | some x => min x v
        | none => v)
    else a) none

/-- A write of PWR_LTR by the host function that owns it (log 11). -/
def ltrWrite (mst : Master) (v : Word) (s : State) : State :=
  match mst.host? with
  | none => s.logReg mst 0x400100
  | some k =>
    if 6 ≤ field v.toNat 12 10 then s.logReg mst 0x400100
    else s.modHost k (fun h => { h with ltrValue := field v.toNat 9 0, ltrScale := field v.toNat 12 10, ltrReq := bitAt v.toNat 15 })

/-! ## Rows -/

/-- PERST_ASSERT. -/
def execPerstAssert (k : Nat) (s : State) : Host.Outcome State Fault Refusal := .next (perstAssertOp k s)
/-- PERST_RELEASE: the port may train again. -/
def execPerstRelease (k : Nat) (s : State) : Host.Outcome State Fault Refusal := .next (perstReleaseOp k s)
/-- HOST_LINK_DOWN. -/
def execHostLinkDown (k : Nat) (s : State) : Host.Outcome State Fault Refusal := .next (linkDownOp k s)
/-- FLR. -/
def execFlr (k : Nat) (s : State) : Host.Outcome State Fault Refusal := .next (flrOp k s)
/-- HOST_LINK_UP. -/
def execHostLinkUp (k width speed : Nat) (cxl : Bool) (s : State) : Host.Outcome State Fault Refusal :=
  .next (linkUpOp k width speed cxl s)
/-- HDM_DECODER_COMMIT. -/
def execHdmDecoderCommit (k base size ways : Nat) (s : State) : Host.Outcome State Fault Refusal :=
  .next (decoderOp k base size ways s)
/-- HDM_READ. -/
def execHdmRead (k addr : Nat) (s : State) : Host.Outcome State Fault Refusal :=
  .next (hdmReadOp k addr s)
/-- HDM_WRITE. -/
def execHdmWrite (k addr : Nat) (bytes : List Byte) (s : State) : Host.Outcome State Fault Refusal :=
  .next (hdmWriteOp k addr bytes s)
/-- H2D_SNOOP. -/
def execH2dSnoop (k _addr : Nat) (s : State) : Host.Outcome State Fault Refusal := .next (snoopOp k s)

end Sys2Proof.Machine
end

