-- ==== Sys2Proof/Machine/Image.lean ====
section
/-!
DEFINITION. The configuration image (16_boot_and_trust.md, R423–R432): its header, its signatures, its configuration
records, and the configuration that they make.
-/
namespace Sys2Proof.Machine

/-- An image: its bytes by offset and length. -/
abbrev Img := Nat → Nat → List Byte

/-- The image in a slot of the flash (R423). -/
def BootSt.img (b : BootSt) (slot : Nat) : Img := fun o n =>
  (List.range n).map (fun i => Tab.get 0 b.flash (slot * (b.flashSize / 2) + o + i))

/-- An image that lies in memory. -/
def listImg (l : List Byte) : Img := fun o n => slice l o n

/-- Why an image fails: FAIL_CODE, FAIL_SECT, FAIL_REC. -/
structure Fail where
  code : Nat
  sect : Nat
  rec_ : Nat
  deriving DecidableEq, Repr

/-! ## The header (R424, R425) -/

def imgU (img : Img) (o n : Nat) : Nat := leNat (img o n)

/-- MAGIC and HVER. -/
def headOk (img : Img) : Bool := imgU img 0 4 == 0x4C445831 && imgU img 4 2 == 1

def imgNsect (img : Img) : Nat := imgU img 6 2
def imgSeq (img : Img) : Word := BitVec.ofNat 32 (imgU img 8 4)
def imgSvn (img : Img) : Word := BitVec.ofNat 32 (imgU img 0xC 4)

/-- Directory entry i, 80 bytes. -/
def dirEnt (img : Img) (i : Nat) : List Byte := img (0x20 + 80 * i) 80

def dirEnts (img : Img) : List (List Byte) := (List.range (imgNsect img)).map (dirEnt img)

def entType (e : List Byte) : Nat := u16At e 0
def entSigner (e : List Byte) : Nat := u16At e 2
def entOff (e : List Byte) : Nat := u32At e 4
def entLen (e : List Byte) : Nat := u32At e 8
def entHash (e : List Byte) : List Byte := slice e 0x10 64

/-- The signer of a section type. -/
def signerOf (t : Nat) : Option Nat :=
  match t with
  | 0x0001 => some 0
  | 0x0003 => some 2
  | 0x0010 => some 1
  | 0x0011 => some 1
  | 0x0012 => some 1
  | _ => none

/-- An entry that the checks of a staged image skip: the self-signed one, which Henesh fills in (R443). -/
def entSkipped (skipSelf : Bool) (e : List Byte) : Bool := skipSelf && entSigner e == 2

/-- An entry alone meets R425. -/
def entOk (imageBytes : Nat) (e : List Byte) : Bool :=
  signerOf (entType e) == some (entSigner e) && entOff e % 4096 == 0 && decide (0x6000 ≤ entOff e)
    && decide (entOff e + entLen e ≤ imageBytes) && zeroAt e 0xC 4 && (entType e != 1 || decide (entLen e ≤ 2 ^ 22))

/-- Two sections overlap. -/
def entClash (a b : List Byte) : Bool :=
  decide (entOff a < entOff b + entLen b) && decide (entOff b < entOff a + entLen a)

/-- Unassigned bytes of the header. -/
def headGaps (img : Img) : Bool :=
  zeroAt (img 0x18 8) 0 8 && zeroAt (img 0x3073 0xD) 0 0xD && zeroAt (img 0x4293 0x6D) 0 0x6D
    && zeroAt (img 0x5513 0xAED) 0 0xAED

/-- Entry i meets R425 beside the entries before it. -/
def entFits (es : List (List Byte)) (bytes : Nat) (skipSelf : Bool) (x : List Byte × Nat) : Bool :=
  (if entSkipped skipSelf x.1 then signerOf (entType x.1) == some 2 else entOk bytes x.1)
    && (es.take x.2).all (fun f => entType f != entType x.1
        && (entSkipped skipSelf f || entSkipped skipSelf x.1 || !entClash f x.1))

/-- Check 1 of R426: the header and the directory; `half` is half the flash size. A staged image's self-signed entry is skipped. -/
def headFail (img : Img) (half : Nat) (skipSelf : Bool) : Option Fail :=
  let n := imgNsect img
  let bytes := imgU img 0x10 8
  if !headOk img ∨ n < 1 ∨ 32 < n ∨ half < bytes ∨ 2 ^ 27 < bytes ∨ !headGaps img
      ∨ (upFrom n (32 - n)).any (fun i => !zeroAt (dirEnt img i) 0 80) then some ⟨0x02, 0, 0⟩
  else
    let es := dirEnts img
    match es.zipIdx.find? (fun (x : List Byte × Nat) => !entFits es bytes skipSelf x) with
    | some x => some ⟨0x02, x.2, 0⟩
    | none => if [1, 3, 0x10, 0x11, 0x12].all (fun t => es.any (fun e => entType e == t)) then none else some ⟨0x02, 0, 0⟩

/-- The entry of a section type, and its directory index. -/
def findSection (img : Img) (t : Nat) : Option (List Byte × Nat) :=
  (dirEnts img).zipIdx.find? (fun (x : List Byte × Nat) => entType x.1 == t)

/-- The bytes of a section. -/
def sectionOf (img : Img) (t : Nat) : List Byte :=
  match findSection img t with
  | some (e, _) => img (entOff e) (entLen e)
  | none => []

/-! ## Signatures (R426) -/

def rootPk (img : Img) : List Byte := img 0x0A20 2592
def ownerPk (img : Img) : List Byte := img 0x1440 2592

/-- ML-DSA-87 over the SHA3-512 digest of a byte string. -/
def sigOk (pk msg sig : List Byte) : Bool := Config.mldsaVerify pk (sha3 msg) sig

def entriesBy (img : Img) (p : Nat → Bool) : List Byte := ((dirEnts img).filter (fun e => p (entSigner e))).flatten

def ownerCertMsg (img : Img) : List Byte := [0x4F, 0x43] ++ ownerPk img
def vendorMsg (img : Img) : List Byte := [0x56] ++ img 0 6 ++ img 0xC 4 ++ entriesBy img (fun s => s == 0)
def ownerMsg (img : Img) : List Byte := [0x4F] ++ img 0 0x20 ++ entriesBy img (fun s => decide (s ≤ 1)) ++ img 0x3080 4627

/-- Checks 2–5. -/
def signFail (img : Img) : Option Fail :=
  if sha3 (rootPk img) ≠ Config.rootDigest then some ⟨0x03, 0, 0⟩
  else if !sigOk (rootPk img) (ownerCertMsg img) (img 0x1E60 4627) then some ⟨0x04, 0, 0⟩
  else if !sigOk (rootPk img) (vendorMsg img) (img 0x3080 4627) then some ⟨0x05, 0, 0⟩
  else if !sigOk (ownerPk img) (ownerMsg img) (img 0x4300 4627) then some ⟨0x06, 0, 0⟩
  else none

/-- Check 6, the rollback check (R427). -/
def rollFail (img : Img) (counter : Option Word) : Option Fail :=
  match counter with
  | some v => if (imgSvn img).toNat < v.toNat then some ⟨0x08, 0, 0⟩ else none
  | none => none

/-- Check 7: every section's digest; an update skips the self-signed entry (R443). -/
def hashFail (img : Img) (skipSelf : Bool) : Option Fail :=
  ((dirEnts img).zipIdx.find? (fun (x : List Byte × Nat) =>
    !entSkipped skipSelf x.1 && sha3 (img (entOff x.1) (entLen x.1)) != entHash x.1)).map (fun x => ⟨0x07, x.2, 0⟩)

/-- The checks of R426 in their order. -/
def imageFail (img : Img) (half : Nat) (counter : Option Word) (skipSelf : Bool) : Option Fail :=
  ((((headFail img half skipSelf).or (signFail img)).or (rollFail img counter)).or (hashFail img skipSelf))

/-! ## The repair record (R435) -/

/-- Bytes before the signature of the REPAIR section. -/
def repairEnd (r : List Byte) : Nat := 0x50 + u32At r 0x48 + u32At r 0x4C + 16 * u32At r 4

def repairEntries (r : List Byte) : List (List Byte) :=
  (List.range (u32At r 4)).map (fun i => slice r (0x50 + u32At r 0x48 + u32At r 0x4C + 16 * i) 16)

/-- The PUF's helper data. -/
def helperData (r : List Byte) : List Byte := slice r 0x50 (u32At r 0x48)

def deviceCert (r : List Byte) : List Byte := slice r (0x50 + u32At r 0x48) (u32At r 0x4C)

/-- REPAIR_OK: signature, DEVID_HASH against the derived key, every entry. -/
def repairValid (img : Img) (r devPk : List Byte) : Bool :=
  u32At r 0 == 0x4C445252 && decide (u32At r 4 ≤ 4096) && decide (1 ≤ u32At r 0x48) && decide (u32At r 0x48 ≤ 8192)
    && decide (1 ≤ u32At r 0x4C) && decide (u32At r 0x4C ≤ 16384) && r.length == repairEnd r + 4627
    && sigOk (rootPk img) (slice r 0 (repairEnd r)) (slice r (repairEnd r) 4627)
    && slice r 8 64 == sha3 devPk && (repairEntries r).all repOk

/-! ## Configuration records (R429, R430) -/

/-- The registers that records may set. -/
inductive CfgReg where
  | policy | node | ttCfg | linkCfg | yardCfg
  | ttPort (k : Nat) | ttDep (k n : Nat) | expA (n : Nat) | expB (n : Nat)
  | ctxPart | sigPart | memPart | tstore | depot | scrub | wagonCap
  | share (c : Nat) | mbxBind (n : Nat)
  deriving DecidableEq, Repr

/-- The register at a BAR0 offset. -/
def cfgRegAt (off : Nat) : Option CfgReg :=
  match off with
  | 0xA00010 => some .policy
  | 0x700000 => some .node
  | 0x700808 => some .ttCfg
  | 0x700008 => some .linkCfg
  | 0x700010 => some .yardCfg
  | 0x000080 => some .ctxPart
  | 0x300000 => some .sigPart
  | 0x800020 => some .memPart
  | 0x800028 => some .tstore
  | 0x800040 => some .depot
  | 0x800048 => some .scrub
  | 0x800200 => some .wagonCap
  | _ =>
    if 0x701000 ≤ off ∧ off < 0x701800 ∧ off % 0x100 = 0x20 then some (.ttPort ((off - 0x701000) / 0x100))
    else if 0x702000 ≤ off ∧ off < 0x712000 ∧ off % 8 = 0 then
      some (.ttDep ((off - 0x702000) / 0x2000) ((off - 0x702000) % 0x2000 / 8))
    else if 0x700400 ≤ off ∧ off < 0x700500 ∧ off % 16 = 0 then some (.expA ((off - 0x700400) / 16))
    else if 0x700400 ≤ off ∧ off < 0x700500 ∧ off % 16 = 8 then some (.expB ((off - 0x700400) / 16))
    else if 0x100000 ≤ off ∧ off < 0x200000 ∧ off % 0x100 = 0x28 then some (.share ((off - 0x100000) / 0x100))
    else if 0x208000 ≤ off ∧ off < 0x208100 ∧ off % 4 = 0 then some (.mbxBind ((off - 0x208000) / 4))
    else none

/-- The section that may set a register, its TARGET kind (host function or management view), its width. -/
def CfgReg.rule (r : CfgReg) (target : Nat) : Option (Nat × Nat) :=
  let mgmt (sect width : Nat) : Option (Nat × Nat) := if target = 0xF then some (sect, width) else none
  let host (sect width : Nat) : Option (Nat × Nat) := if target ≤ 3 then some (sect, width) else none
  match r with
  | .policy => mgmt 0x10 4
  | .node => mgmt 0x10 8
  | .ttCfg => mgmt 0x10 4
  | .linkCfg => mgmt 0x10 4
  | .yardCfg => mgmt 0x10 4
  | .ttPort _ => mgmt 0x10 8
  | .ttDep _ _ => mgmt 0x10 8
  | .expA _ => mgmt 0x10 8
  | .expB _ => mgmt 0x10 8
  | .ctxPart => host 0x11 4
  | .sigPart => host 0x11 8
  | .memPart => host 0x11 8
  | .tstore => if target ≤ 3 ∨ target = 0xF then some (0x11, 8) else none
  | .depot => mgmt 0x11 8
  | .scrub => mgmt 0x11 4
  | .wagonCap => mgmt 0x11 4
  | .share _ => mgmt 0x11 8
  | .mbxBind _ => mgmt 0x12 4

/-- A configuration record. -/
structure CfgRec where
  off    : Nat
  target : Nat
  width  : Nat
  resv   : Nat
  value  : Nat
  deriving DecidableEq, Repr

def parseCfgRec (b : List Byte) : CfgRec := ⟨u32At b 0, u8At b 4, u8At b 5, u16At b 6, u64At b 8⟩

/-- The fields of a register that a record may set, as (msb, lsb) pairs. -/
def CfgReg.fields (r : CfgReg) (target : Nat) : List (Nat × Nat) :=
  match r with
  | .policy => [(13, 0)]
  | .node => [(55, 16)]
  | .ttCfg => [(8, 0)]
  | .linkCfg => [(10, 0)]
  | .yardCfg => [(9, 0)]
  | .ttPort _ => [(29, 0), (47, 32), (58, 48)]
  | .ttDep _ _ => [(63, 0)]
  | .expA _ => [(2, 0), (47, 16)]
  | .expB _ => [(18, 0)]
  | .ctxPart => [(24, 0)]
  | .sigPart => [(32, 0)]
  | .memPart => [(49, 0)]
  | .tstore => if target = 0xF then [(37, 32)] else [(15, 0)]
  | .depot => [(6, 0)]
  | .scrub => [(7, 0)]
  | .wagonCap => [(15, 0)]
  | .share _ => [(44, 32), (63, 48)]
  | .mbxBind _ => [(8, 0), (31, 16)]

/-- The bits outside the fields are zero. -/
def onlyFields (v : Nat) (fs : List (Nat × Nat)) : Bool := v == fs.foldl (fun a f => a + putAt (field v f.1 f.2) f.2) 0

def inRange (x lo hi : Nat) : Bool := decide (lo ≤ x) && decide (x ≤ hi)

/-- Each field lies within the range of its chapter. -/
def CfgReg.inRange (r : CfgReg) (v : Nat) : Bool :=
  let portOk (p : Nat) : Bool := decide (p ≤ 7) || p == 15
  match r with
  | .policy => field v 13 12 != 3
  | .ttCfg => portOk (field v 4 1) && portOk (field v 8 5)
  | .linkCfg => Machine.inRange v 200 2000
  | .yardCfg => Machine.inRange v 1 1000
  | .ttPort _ => Machine.inRange (field v 29 0) 1000 1000000000 && Machine.inRange (field v 47 32) 64 65535 && decide (field v 58 48 ≤ 1024)
  | .ttDep _ _ => v == 0 || decide (1 ≤ field v 55 32)
  | .expB _ => decide (field v 18 9 ≤ 512)
  | .ctxPart => decide (field v 24 12 ≤ 4096)
  | .sigPart => decide (field v 32 16 ≤ 65536)
  | .memPart => decide (field v 17 9 ≤ 256) && decide (field v 35 27 ≤ 256) && decide (field v 49 43 ≤ 64)
  | .tstore => decide (field v 15 0 ≤ 16383)
  | .depot => decide (v ≤ 64)
  | .wagonCap => v == 0 || Machine.inRange v 64 40960
  | .share _ => decide (field v 44 32 ≤ 4096)
  | _ => true

/-- A record alone (R430): its FAIL_CODE, if it fails. -/
def CfgRec.fail (r : CfgRec) (sect : Nat) : Option Nat :=
  match cfgRegAt r.off with
  | none => some 0x09
  | some g =>
    match g.rule r.target with
    | none => some 0x09
    | some (s, w) =>
      if s ≠ sect ∨ w ≠ r.width then some 0x09
      else if r.resv ≠ 0 ∨ (r.width = 4 ∧ 2 ^ 32 ≤ r.value) ∨ !onlyFields r.value (g.fields r.target) ∨ !g.inRange r.value then
        some 0x0A
      else none

/-- A record with the section and index it stands at. -/
structure PlacedRec where
  sect  : Nat
  dir   : Nat
  index : Nat
  r     : CfgRec
  deriving DecidableEq, Repr

/-- The records of one section. -/
def recsOf (img : Img) (sect : Nat) : List PlacedRec :=
  let b := sectionOf img sect
  let dir := ((findSection img sect).map (·.2)).getD 0
  (List.range (ceilDiv b.length 16)).map (fun i => ⟨sect, dir, i, parseCfgRec (slice b (16 * i) 16)⟩)

/-- Every record, in section order. -/
def allRecs (img : Img) : List PlacedRec := recsOf img 0x10 ++ recsOf img 0x11 ++ recsOf img 0x12

/-- The first record that fails alone, or repeats an earlier one; a section that is no whole number of records fails at its
last. -/
def recFail : List PlacedRec → List (Nat × Nat) → Option Fail
  | [], _ => none
  | p :: t, seen =>
    match p.r.fail p.sect with
    | some c => some ⟨c, p.dir, p.index⟩
    | none =>
      if seen.contains (p.r.off, p.r.target) then some ⟨0x0B, p.dir, p.index⟩
      else recFail t ((p.r.off, p.r.target) :: seen)

def oddSection (img : Img) : Option Fail :=
  [0x10, 0x11, 0x12].findSome? (fun t =>
    let n := (sectionOf img t).length
    if n % 16 = 0 then none else some ⟨0x0A, ((findSection img t).map (·.2)).getD 0, n / 16⟩)

/-! ## Applying records -/

def Cfg.modHost (c : Cfg) (k : Nat) (f : HostCfg → HostCfg) : Cfg := { c with hosts := Tab.modify HostCfg.zero c.hosts k f }

/-- Set a register of the image. -/
def CfgReg.apply (g : CfgReg) (t v : Nat) (c : Cfg) : Cfg :=
  match g with
  | .policy => { c with updHosts := BitVec.ofNat 4 v, portUse := BitVec.ofNat 8 (v / 16)
                        profile := match field v 13 12 with
                          | 1 => .freight
                          | 2 => .sleeper
                          | _ => .express }
  | .node =>
    let n : NodeCfg := ⟨0, field v 20 16, field v 25 21, field v 30 26, field v 35 31, field v 40 36, field v 45 41, field v 50 46, field v 55 51⟩
    { c with node := { n with node := ((n.cs * (n.ntM1 + 1) + n.ct) * (n.npM1 + 1) + n.cp) * (n.ndM1 + 1) + n.cd } }
  | .ttCfg => { c with ttRole := field v 0 0, ttUp := field v 4 1, ttAlt := field v 8 5 }
  | .linkCfg => { c with replayNs := v }
  | .yardCfg => { c with collMs := v }
  | .ttPort k => { c with ttPort := Tab.set TtPort.zero c.ttPort k ⟨field v 29 0, field v 47 32, field v 58 48⟩ }
  | .ttDep k n => { c with dep := Tab.set DepEnt.zero c.dep (1024 * k + n) ⟨field v 31 0, field v 55 32, field v 63 56⟩ }
  | .expA n => { c with exp := Tab.modify ExpWin.zero c.exp n (fun w => { w with
      en := bitAt v 0, rd := bitAt v 1, wrt := bitAt v 2, nodeLo := field v 31 16, nodeHi := field v 47 32 }) }
  | .expB n => { c with exp := Tab.modify ExpWin.zero c.exp n (fun w => { w with baseGib := field v 8 0, sizeGib := field v 18 9 }) }
  | .ctxPart => c.modHost t (fun h => { h with ctxFirst := field v 11 0, ctxCount := field v 24 12 })
  | .sigPart => c.modHost t (fun h => { h with sigFirst := field v 15 0, sigCount := field v 32 16 })
  | .memPart => c.modHost t (fun h => { h with h0Base := field v 8 0, h0Size := field v 17 9, h1Base := field v 26 18
                                               h1Size := field v 35 27, dBase := field v 42 36, dSize := field v 49 43 })
  | .tstore => if t = 0xF then { c with resGib := field v 37 32 } else c.modHost t (fun h => { h with tstoreMib := field v 15 0 })
  | .depot => { c with scratchUnits := v }
  | .scrub => { c with scrubHours := v }
  | .wagonCap => { c with wagonCap := v }
  | .share x => { c with quota := Tab.set (0, 0) c.quota x (field v 44 32, field v 63 48) }
  | .mbxBind n => { c with mbxBind := Tab.set MbxBind.zero c.mbxBind n ⟨field v 3 0, field v 7 4, bitAt v 8, field v 31 16⟩ }

/-- The host functions that a strap creates. -/
def strapHosts (split : Nat) : List Nat := (List.range 4).filter (fun k => splitLanes split k != 0)

/-- The table-store values that an image with no record of MEM_TSTORE takes (R432). -/
def Cfg.tstoreDefault (c : Cfg) (split : Nat) (recs : List PlacedRec) : Cfg :=
  if recs.any (fun p => cfgRegAt p.r.off == some .tstore) then c
  else
    let hs := strapHosts split
    hs.foldl (fun (c : Cfg) k => c.modHost k (fun h => { h with tstoreMib := 1024 / hs.length })) { c with resGib := 1 }

/-- The configuration that records make (R432). -/
def makeCfg (split : Nat) (recs : List PlacedRec) : Cfg :=
  let c := recs.foldl (fun (c : Cfg) p =>
    match cfgRegAt p.r.off with
    | some g => g.apply p.r.target p.r.value c
    | none => c) Cfg.reset
  c.tstoreDefault split recs

/-! ## The cross-check (R431) -/

def rangesClash (a n b m : Nat) : Bool := n != 0 && m != 0 && decide (a < b + m) && decide (b < a + n)

/-- No two host functions share any of a range. -/
def Cfg.apart (c : Cfg) (f : HostCfg → Nat × Nat) : Bool :=
  let h (k : Nat) : Nat × Nat := f (Tab.get HostCfg.zero c.hosts k)
  (List.range 4).all (fun i => (List.range i).all (fun j => !rangesClash (h i).1 (h i).2 (h j).1 (h j).2))

/-- The departure table of a port meets R367. -/
def Cfg.depOk (c : Cfg) (k : Nat) : Bool :=
  let t := Tab.get TtPort.zero c.ttPort k
  let e (n : Nat) : DepEnt := Tab.get DepEnt.zero c.dep (1024 * k + n)
  (List.range t.nent).all (fun n =>
    let low := if n = 0 then t.guardNs else (e (n - 1)).offset + (e (n - 1)).length + t.guardNs
    decide (low ≤ (e n).offset) && decide (1 ≤ (e n).length) && decide (1 ≤ (e n).cls)
      && decide ((e n).offset + (e n).length ≤ t.periodNs))
    && c.dep.all (fun x => x.1 / 1024 != k || decide (x.1 % 1024 < t.nent))

/-- A mailbox binding meets R416. -/
def Cfg.bindOk (c : Cfg) (b : MbxBind) : Bool :=
  let seq (x : Nat) : Bool := x == 9 || x == 0xA
  let side (x : Nat) : Bool := decide (1 ≤ x && x ≤ 4) || x == 8 || seq x || x == 0xF
  let other := if seq b.sideA then b.sideB else b.sideA
  let sigOk := if seq b.sideA || seq b.sideB then
      (if 1 ≤ other ∧ other ≤ 4 then
        let h := Tab.get HostCfg.zero c.hosts (other - 1)
        decide (h.sigFirst ≤ b.sig) && decide (b.sig < h.sigFirst + h.sigCount)
       else true)
    else b.sig == 0
  !b.en || (side b.sideA && side b.sideB && b.sideA != b.sideB && !(seq b.sideA && seq b.sideB) && sigOk)

/-- Sizes and coordinates meet R355. -/
def NodeCfg.ok (n : NodeCfg) : Bool :=
  (List.range 4).all (fun a => decide (n.own a < n.size a)) && decide (n.count ≤ 65536)

/-- The whole configuration meets R431, against an inventory. -/
def Cfg.crossOk (c : Cfg) (inv : Inventory) (split : Nat) (recs : List PlacedRec) : Bool :=
  let p (half : Nat) : Nat := 256 - (inv.mapOut.filter (fun k => k / 256 == half)).length
  let s := min c.scratchUnits inv.banks
  let hs := (List.range 4).map (fun k => Tab.get HostCfg.zero c.hosts k)
  let has (g : CfgReg) (t : Nat) : Bool := recs.any (fun x => cfgRegAt x.r.off == some g && x.r.target == t)
  c.apart (fun h => (h.ctxFirst, h.ctxCount)) && hs.all (fun h => decide (h.ctxFirst + h.ctxCount ≤ 4096))
    && c.apart (fun h => (h.sigFirst, h.sigCount)) && hs.all (fun h => decide (h.sigFirst + h.sigCount ≤ 65536))
    && c.apart (fun h => (h.h0Base, h.h0Size)) && c.apart (fun h => (h.h1Base, h.h1Size)) && c.apart (fun h => (h.dBase, h.dSize))
    && hs.all (fun h => decide (h.h0Base + h.h0Size + c.resGib ≤ p 0) || h.h0Size == 0)
    && hs.all (fun h => decide (h.h1Base + h.h1Size ≤ p 1) || h.h1Size == 0)
    && hs.all (fun h => decide (h.dBase + h.dSize ≤ s) || h.dSize == 0)
    && decide (hs.foldl (fun a h => a + h.tstoreMib) 0 ≤ c.resGib * 1024)
    && c.node.ok
    && (List.range 8).all (fun k => c.portUse.getLsbD k
        || ((Tab.get TtPort.zero c.ttPort k).nent == 0 && c.ttUp != k && c.ttAlt != k))
    && (c.ttUp != c.ttAlt || c.ttUp == 15) && (c.ttRole != 1 || c.ttUp == 15)
    && (List.range 8).all c.depOk && (List.range 64).all (fun n => c.bindOk (Tab.get MbxBind.zero c.mbxBind n))
    && recs.all (fun x => match cfgRegAt x.r.off with
        | some (.share n) => hs.any (fun h => decide (h.ctxFirst ≤ n) && decide (n < h.ctxFirst + h.ctxCount))
        | _ => true)
    && (strapHosts split).all (fun k => has .ctxPart k)

/-- The failure of the cross-check: FAIL_REC names one of the records, and FAIL_SECT its section (R433); which one is a free value (log 114). -/
def crossFail (recs : List PlacedRec) : Fail :=
  match recs[Config.crossRec (recs.map (fun p => (p.r.off, p.r.value))) % max 1 recs.length]? with
  | some p => ⟨0x0C, p.dir, p.index⟩
  | none => ⟨0x0C, 0, 0⟩

/-- The records of an image against R429–R431: why they fail, or the configuration they make. -/
def loadCfg (img : Img) (inv : Inventory) (split : Nat) : Fail ⊕ Cfg :=
  let recs := allRecs img
  match (oddSection img).or (recFail recs []) with
  | some f => .inl f
  | none =>
    let c := makeCfg split recs
    if c.crossOk inv split recs then .inr c else .inl (crossFail recs)

end Sys2Proof.Machine
end

