-- ==== Sys2Proof/Machine/Sha256.lean ====
section
/-!
DEFINITION. SHA-256 (FIPS 180-4) and HMAC-SHA-256 (FIPS 198-1), with which the authenticated counter of the flash answers
(16_boot_and_trust.md R427).
-/
namespace Sys2Proof.Machine

/-- The round constants of SHA-256. -/
def sha256K : List Word :=
  [0x428A2F98, 0x71374491, 0xB5C0FBCF, 0xE9B5DBA5, 0x3956C25B, 0x59F111F1, 0x923F82A4, 0xAB1C5ED5]
  ++ [0xD807AA98, 0x12835B01, 0x243185BE, 0x550C7DC3, 0x72BE5D74, 0x80DEB1FE, 0x9BDC06A7, 0xC19BF174]
  ++ [0xE49B69C1, 0xEFBE4786, 0x0FC19DC6, 0x240CA1CC, 0x2DE92C6F, 0x4A7484AA, 0x5CB0A9DC, 0x76F988DA]
  ++ [0x983E5152, 0xA831C66D, 0xB00327C8, 0xBF597FC7, 0xC6E00BF3, 0xD5A79147, 0x06CA6351, 0x14292967]
  ++ [0x27B70A85, 0x2E1B2138, 0x4D2C6DFC, 0x53380D13, 0x650A7354, 0x766A0ABB, 0x81C2C92E, 0x92722C85]
  ++ [0xA2BFE8A1, 0xA81A664B, 0xC24B8B70, 0xC76C51A3, 0xD192E819, 0xD6990624, 0xF40E3585, 0x106AA070]
  ++ [0x19A4C116, 0x1E376C08, 0x2748774C, 0x34B0BCB5, 0x391C0CB3, 0x4ED8AA4A, 0x5B9CCA4F, 0x682E6FF3]
  ++ [0x748F82EE, 0x78A5636F, 0x84C87814, 0x8CC70208, 0x90BEFFFA, 0xA4506CEB, 0xBEF9A3F7, 0xC67178F2]

/-- The chaining value before the first block. -/
def sha256Init : List Word := [0x6A09E667, 0xBB67AE85, 0x3C6EF372, 0xA54FF53A, 0x510E527F, 0x9B05688C, 0x1F83D9AB, 0x5BE0CD19]

/-- A word of four bytes, the first the most significant. -/
def beWord (l : List Byte) : Word := BitVec.ofNat 32 (l.foldl (fun a b => 256 * a + b.toNat) 0)

/-- The bytes of a word, the most significant first. -/
def beBytes (n : Nat) (v : Nat) : List Byte := (List.range n).map (fun i => BitVec.ofNat 8 (v / 2 ^ (8 * (n - 1 - i))))

/-- The message schedule, newest word first. -/
def sha256Sched : Nat → List Word → List Word
  | 0, w => w
  | n + 1, w =>
    let x (i : Nat) : Word := w.getD i 0
    let s0 := (x 14).rotateRight 7 ^^^ (x 14).rotateRight 18 ^^^ (x 14 >>> 3)
    let s1 := (x 1).rotateRight 17 ^^^ (x 1).rotateRight 19 ^^^ (x 1 >>> 10)
    sha256Sched n ((x 15 + s0 + x 6 + s1) :: w)

/-- One round on the eight working words. -/
def sha256Round (v : List Word) (k w : Word) : List Word :=
  let x (i : Nat) : Word := v.getD i 0
  let e := x 4
  let a := x 0
  let t1 := x 7 + (e.rotateRight 6 ^^^ e.rotateRight 11 ^^^ e.rotateRight 25) + ((e &&& x 5) ^^^ (~~~e &&& x 6)) + k + w
  let t2 := (a.rotateRight 2 ^^^ a.rotateRight 13 ^^^ a.rotateRight 22) + ((a &&& x 1) ^^^ (a &&& x 2) ^^^ (x 1 &&& x 2))
  [t1 + t2, a, x 1, x 2, x 3 + t1, e, x 5, x 6]

/-- A block of 64 bytes. -/
def sha256Block (h : List Word) (b : List Byte) : List Word :=
  let w0 := (List.range 16).map (fun i => beWord ((b.drop (4 * i)).take 4))
  let w := (sha256Sched 48 w0.reverse).reverse
  let v := (sha256K.zip w).foldl (fun v x => sha256Round v x.1 x.2) h
  List.zipWith (fun a b => a + b) h v

/-- The padding of a message of n bytes. -/
def sha256Pad (n : Nat) : List Byte := [0x80] ++ List.replicate ((119 - n % 64) % 64) 0 ++ beBytes 8 (8 * n)

/-- SHA-256. -/
def sha256 (m : List Byte) : List Byte :=
  let p := m ++ sha256Pad m.length
  ((List.range (p.length / 64)).foldl (fun h i => sha256Block h ((p.drop (64 * i)).take 64)) sha256Init).flatMap (fun w => beBytes 4 w.toNat)

/-- HMAC-SHA-256. -/
def hmac256 (key m : List Byte) : List Byte :=
  let k0 := if 64 < key.length then sha256 key else key
  let k := k0 ++ List.replicate (64 - k0.length) 0
  sha256 (k.map (fun b => b ^^^ 0x5C) ++ sha256 (k.map (fun b => b ^^^ 0x36) ++ m))

end Sys2Proof.Machine
end

