-- ==== Sys2Proof/Machine/Boot.lean ====
section
/-!
DEFINITION. Cold reset and boot (16_boot_and_trust.md R422–R447, 17_power_clocks_supply.md R449, R460–R463, R494): the
reset pin, the boot phases, the configuration load, and the rows POWER_UP, SYS_RST_N_ASSERT, SYS_RST_N_RELEASE, ROM, FLASH,
VERIFY, FW, BIST, CONFIG, CONFIG_LOAD_TIMEOUT and PLL_LOCK_TIMEOUT.
-/
namespace Sys2Proof.Machine

def State.setBoot (s : State) (b : BootSt) : State := { s with boot := b }

/-! ## Cold reset (R460) -/

/-- The state that a cold reset leaves, held in reset: what lies outside the device stays (the command queue, the flash,
host memory, the PERST# pins), and RST_CAUSE. -/
def State.cold (s : State) (cause : Nat) : State :=
  let r := State.reset
  let hosts : Tab HostFn := (List.range 4).foldl (fun t k =>
    Tab.set HostFn.reset t k { HostFn.reset with perst := (s.hostFn k).perst }) []
  { r with
    pending := s.pending
    stepping := s.stepping
    boot := { r.boot with flash := s.boot.flash, flashSize := s.boot.flashSize, fctr := s.boot.fctr }
    mem := { r.mem with host := s.mem.host }
    hosts := hosts
    pwr := { r.pwr with rstCause := cause, inReset := true } }

/-- SYS_RST_N low for a time: a pulse below 1 µs is ignored. During a thermal trip the device stays in the trip. -/
def rstAssertOp (ns : Nat) (s : State) : State :=
  if ns < 1000 then s
  else if s.pwr.trip then { s with pwr := { s.pwr with inReset := true } }
  else s.cold 1

/-- The straps are sampled, and the host ports that the split creates exist (R398). -/
def State.strap (s : State) (split sbAddr : Nat) : State :=
  let s1 := (List.range 4).foldl (fun (s : State) k => s.modHost k (fun h => { h with present := splitLanes split k != 0 })) s
  let s2 := s1.setBoot { s1.boot with straps := split, sbAddr := sbAddr, phase := 1 }
  let s3 := { s2 with pwr := { s2.pwr with inReset := false, trip := false } }
  let s4 := s3.logErr { status := stOk, unit := uPwr, detail := s3.pwr.rstCause }
  if split = 3 then s4.logErr { status := stRange, unit := uBoot, index := split } else s4

/-- SYS_RST_N released (R494): boot begins. A thermal trip ends only by a release after an assertion that counted, while every TJ is below
95 °C (R460). -/
def rstReleaseOp (split sbAddr : Nat) (s : State) : State :=
  if !s.pwr.inReset ∧ (s.boot.phase ≠ 0 ∨ s.pwr.trip) then s
  else if s.pwr.trip then
    if s.pwr.tjC0 < 95 ∧ s.pwr.tjC1 < 95 ∧ s.pwr.tjH < 95 then (s.cold 3).strap (split % 4) sbAddr
    else { s with pwr := { s.pwr with inReset := false } }
  else s.strap (split % 4) sbAddr

/-! ## Below the floor (R447) -/

def State.unserviceable (s : State) (f : Fail) (noImage : Bool) : State :=
  s.setBoot { s.boot with phase := 8, failCode := BitVec.ofNat 8 f.code, failSect := f.sect, failRec := f.rec_
                          devReady := false, serviceable := false, flashHiZ := noImage }

/-- A slot is rejected: the other slot is tried, if its header is valid and it has not been (R423, R433). The load time-out runs on (log 115). -/
def State.rejectSlot (s : State) (f : Fail) : State :=
  let b := s.boot
  let other := 1 - b.slot
  let tried := b.tried ++ [b.slot]
  let s1 := s.setBoot { b with failCode := BitVec.ofNat 8 f.code, failSect := f.sect, failRec := f.rec_, tried := tried }
  if !tried.contains other ∧ headOk (b.img other) then
    s1.setBoot { s1.boot with slot := other, phase := 3 }
  else s1.unserviceable f true

/-! ## Phases (R434) -/

/-- ROM. -/
def romOp (ok : Bool) (s : State) : State :=
  if s.boot.phase ≠ 1 then s
  else if ok ∧ !s.inv.pllFailed.contains 23 ∧ !s.inv.pllFailed.contains 5 then
    s.setBoot { s.boot with phase := 2, romOk := true, tLoad := s.time.clk }
  else s.unserviceable ⟨0x0E, 0, 0⟩ false

/-- A flash that R422 allows. -/
def flashSizeOk (n : Nat) : Bool := [24, 25, 26, 27, 28].any (fun e => n == 2 ^ e)

/-- The slot to try first (R423). -/
def chooseSlot (b : BootSt) : Option Nat :=
  match headOk (b.img 0), headOk (b.img 1) with
  | true, true => some (if serialAfter 32 (imgSeq (b.img 0)).toNat (imgSeq (b.img 1)).toNat then 1 else 0)
  | true, false => some 0
  | false, true => some 1
  | false, false => none

/-- FLASH: what has been placed in the flash since is there when it is probed. -/
def flashOp (placed : Option Placed) (probeOk : Bool) (s : State) : State :=
  if s.boot.phase ≠ 2 then s
  else
    let b := match placed with
      | some p => { s.boot with flashSize := p.size, flash := p.bytes.foldl (fun t e => Tab.set 0 t e.1 e.2) [], fctr := p.ctr }
      | none => s.boot
    let s1 := s.setBoot b
    if !probeOk ∨ !flashSizeOk b.flashSize then s1.unserviceable ⟨0x01, 0, 0⟩ true
    else
      match chooseSlot b with
      | none => s1.unserviceable ⟨0x02, 0, 0⟩ true
      | some k => s1.setBoot { b with slot := k, phase := 3 }

/-! ## Identity (R437–R439) -/

def ascii (t : String) : List Byte := t.toList.map (fun c => BitVec.ofNat 8 c.toNat)

/-- The values of R437 from a PUF key. -/
def udsOf (key : List Byte) : List Byte := sha3 (ascii "LDN-UDS" ++ key)
def devKeys (uds : List Byte) : List Byte × List Byte := Config.mldsaKeyGen ((sha3 (ascii "LDN-DEVID" ++ uds)).take 32)
def ctrKeyOf (uds : List Byte) : List Byte := (sha3 (ascii "LDN-CTR" ++ uds)).take 32
def aliasKeys (cdi : List Byte) : List Byte × List Byte := Config.mldsaKeyGen ((sha3 (ascii "LDN-ALIAS" ++ cdi)).take 32)

/-- Measurement 3: the entries with SIGNER = 1. -/
def ownerDigest (img : Img) : List Byte := sha3 (entriesBy img (fun x => x == 1))

/-- The HASH of a section. -/
def sectionHash (img : Img) (t : Nat) : List Byte := ((findSection img t).map (fun x => entHash x.1)).getD []

def cdiOf (img : Img) (uds : List Byte) : List Byte :=
  sha3 (uds ++ sha3 Config.bootRom ++ sectionHash img 1 ++ ownerDigest img ++ toLe 4 (imgSvn img).toNat)

/-- Measurements 1–3 (R441). -/
def romMeasures (img : Img) : List (List Byte) := [sha3 Config.bootRom, sectionHash img 1, ownerDigest img]

/-- What layer 0 derives from the power-up state of the PUF SRAM, 8 KiB, and the helper data, which is used whether or not the repair record
is valid (R435, R437); where no key can be recovered, nothing. -/
def BootSt.derive (b : BootSt) (img : Img) (puf : Option (List Byte)) : BootSt :=
  let r := sectionOf img 3
  match puf with
  | none => { b with idOk := false, repairOk := false, devCert := deviceCert r, cdi := [], aliasPk := [], aliasSk := []
                     aliasCert := [], ctrKey := [] }
  | some sram =>
    let key := toLe 32 (Config.pufKey (slice sram 0 8192) (helperData r)).toNat
    let uds := udsOf key
    let dev := devKeys uds
    let cdi := cdiOf img uds
    let al := aliasKeys cdi
    let tbs := Config.aliasTbs al.1 (romMeasures img)
    { b with idOk := slice r 8 64 == sha3 dev.1, repairOk := repairValid img r dev.1, devCert := deviceCert r, pufSram := slice sram 0 8192
             pufKey := key
             uds := uds, devSk := dev.2, ctrKey := ctrKeyOf uds, cdi := cdi, aliasPk := al.1, aliasSk := al.2
             aliasCert := tbs ++ Config.mldsaSign dev.2 (sha3 tbs) }

/-- The value of the counter's answer to a read (0) or an increment (1), where it authenticates under CTR_KEY (R427): the counter makes its own
code under the key that it holds. -/
def ctrAnswer (f : FlashCtr) (ctrKey : List Byte) (kind : Nat) (r : CtrResp) : Option Word :=
  match r with
  | .own =>
    if f.key = some ctrKey ∨ hmac256 (f.key.getD []) (Config.ctrMessage kind f.value) = hmac256 ctrKey (Config.ctrMessage kind f.value) then
      some f.value
    else none
  | .other v mac => if mac = hmac256 ctrKey (Config.ctrMessage kind v) then some v else none

/-- The counter as VERIFY finds it (R427, R439): a counter whose key is unset has been given CTR_KEY. Without identity it is left alone. -/
def BootSt.provision (b : BootSt) : Option FlashCtr :=
  if b.idOk then b.fctr.map (fun f => { f with key := some (f.key.getD b.ctrKey) }) else b.fctr

/-- The counter value in use (R427): none without a counter whose answer authenticates, or without identity. -/
def BootSt.counterOf (b : BootSt) (r : CtrResp) : Option Word :=
  if b.idOk then b.provision.bind (fun f => ctrAnswer f b.ctrKey 0 r) else none

/-- A counter is there, and its answer fails authentication. -/
def BootSt.ctrBad (b : BootSt) (r : CtrResp) : Bool := b.idOk && b.fctr.isSome && (b.counterOf r).isNone

/-- VERIFY (R426, R427, R437). -/
def verifyOp (puf : Option (List Byte)) (ctr : CtrResp) (s : State) : State :=
  if s.boot.phase ≠ 3 then s
  else
    let img := s.boot.img s.boot.slot
    let half := s.boot.flashSize / 2
    match (headFail img half false).or (signFail img) with
    | some f => s.rejectSlot f
    | none =>
      let b := s.boot.derive img (if s.boot.pufLocked then none else puf)
      let c := b.counterOf ctr
      let s1 := if b.ctrBad ctr then s.logErr { status := stFormat, unit := uBoot, addr := 0x08 } else s
      let s2 := s1.setBoot { b with fctr := b.provision, counter := c.getD 0, ctrPresent := c.isSome, ctrKeySet := c.isSome, rbProt := c.isSome }
      match (rollFail img c).or (hashFail img false) with
      | some f => s2.rejectSlot f
      | none =>
        let s3 := if b.repairOk then s2 else s2.logErr { status := stFormat, unit := uBoot, addr := 0x03 }
        s3.setBoot { s3.boot with svn := imgSvn img, slotSeq := imgSeq img, phase := 4 }

/-- FW: the secrets of layer 0 are erased before Henesh, loaded at the start of management-core memory, is entered at its byte 0 (R425, R438). -/
def fwOp (ok : Bool) (s : State) : State :=
  if s.boot.phase ≠ 4 then s
  else
    let s1 := s.setBoot { s.boot with pufKey := [], uds := [], devSk := [], pufLocked := true }
    if ok then s1.setBoot { s1.boot with phase := 5, bistAt := s.time.clk, mgmtMem := sectionOf (s.boot.img s.boot.slot) 1, mgmtEntry := some 0 }
    else s1.rejectSlot ⟨0, 0, 0⟩

/-- BIST (R27): the repairs of the record, when it is valid, and what self-test adds, each addition logged. The spec gives that entry no
status and no fields: STATUS is 0x00, as for a repaired event (DESIGN CHOICE, log 90). -/
def bistOp (r : BistResult) (s : State) : State :=
  if s.boot.phase ≠ 5 then s
  else
    let img := s.boot.img s.boot.slot
    let listed := if s.boot.repairOk then (repairEntries (sectionOf img 3)).map (fun e => u64At e 0) else []
    let added := ((foundWords r).filter (fun w => !listed.contains w)).eraseDups
    let s1 := added.foldl (fun (s : State) w => s.logErr { status := stOk, unit := uBoot, addr := w, where_ := field w 15 8
                                                           index := field w 31 16 }) s
    let inv := selfTest (listed ++ added) r s.inv.pllFailed s.boot.straps
    { s1 with inv := inv
              boot := { s1.boot with phase := 6, tLoad := s1.boot.tLoad + (s.time.clk - s1.boot.bistAt) } }

/-! ## The configuration takes effect (R432) -/

/-- A port that the image uses comes out of OFF, its spare lanes as self-test set them (R341, R351); a failed lane 8 is the spare itself. -/
def State.openPort (s : State) (k : Nat) : State :=
  let lane (d : Nat) : Option Nat := (s.inv.lanes.find? (fun l => l.1 == k && l.2.1 == d && decide (l.2.2 < 8))).map (fun l => l.2.2)
  let p : Port := { Port.reset with state := .down, spareTx := (lane 0).isSome, txLane := (lane 0).getD 15
                                    spareRx := (lane 1).isSome, rxLane := (lane 1).getD 15 }
  (s.enterPort k p).beginTraining k

/-- CFG_DONE: every RWL field is locked, the links start to train, and a follower takes its time from UP_PORT. -/
def State.finishBoot (s : State) (c : Cfg) : State :=
  let s1 := { s with
    cfg := { c with cfgDone := true }
    boot := { s.boot with phase := 7, devReady := true, serviceable := true, fallback := s.boot.tried != [] }
    time := { s.time with srcPort := if c.ttRole = 0 ∧ c.ttUp < 8 then c.ttUp else 15, lastOk := s.time.clk
                          lastReq := s.time.clk } }
  ((List.range 8).filter (fun k => c.portUse.getLsbD k)).foldl (fun (s : State) k => s.openPort k) s1

/-- CONFIG. -/
def configOp (s : State) : State :=
  if s.boot.phase ≠ 6 then s
  else
    match loadCfg (s.boot.img s.boot.slot) s.inv s.boot.straps with
    | .inl f => s.rejectSlot f
    | .inr c => if s.inv.floorOk then s.finishBoot c else s.unserviceable ⟨0x0E, 0, 0⟩ false

/-- CONFIG_LOAD_TIMEOUT (R433): 2 s from the entry to phase FLASH, phase BIST left out. -/
def loadTimeoutOp (s : State) : State :=
  let b := s.boot
  if s.time.clk.toNat < b.tLoad.toNat + 2000000000 then s
  else if b.phase = 2 then s.unserviceable ⟨0x0D, 0, 0⟩ true
  else if b.phase = 3 ∨ b.phase = 4 ∨ b.phase = 6 then s.rejectSlot ⟨0x0D, 0, 0⟩
  else s

/-- PLL_LOCK_TIMEOUT (R449): a domain that its phase starts, and that has not locked. -/
def pllOp (d : Nat) (s : State) : State :=
  let mark (s : State) : State := { s with inv := { s.inv with pllFailed := s.inv.pllFailed ++ [d] } }
  if s.inv.pllFailed.contains d then s
  else if d = 5 ∨ d = 23 then (if s.boot.phase = 1 then mark s else s)
  else if 14 ≤ d ∧ d ≤ 21 then
    let k := d - 14
    if s.boot.phase = 7 ∧ ((s.port k).state = .down ∨ (s.port k).state = .training) then
      let s1 := mark s
      let s2 := { s1 with inv := { s1.inv with portsBad := s1.inv.portsBad ++ [k] } }
      s2.enterPort k { s2.port k with state := .down, tstate := 0, good := 0 }
    else s
  else if 1 ≤ d ∧ d ≤ 24 ∧ s.boot.phase = 5 then mark s
  else s

/-! ## Rows -/

/-- POWER_UP: the always-on supply is valid, and the device is held in cold reset. -/
def execPowerUp (s : State) : Host.Outcome State Fault Refusal := .next (s.cold 0)
/-- SYS_RST_N_ASSERT. -/
def execSysRstNAssert (ns : Nat) (s : State) : Host.Outcome State Fault Refusal := .next (rstAssertOp ns s)
/-- SYS_RST_N_RELEASE. -/
def execSysRstNRelease (hpBif sbAddr : Nat) (s : State) : Host.Outcome State Fault Refusal := .next (rstReleaseOp hpBif sbAddr s)
/-- ROM. -/
def execRom (ok : Bool) (s : State) : Host.Outcome State Fault Refusal := .next (romOp ok s)
/-- FLASH. -/
def execFlash (placed : Option Placed) (probeOk : Bool) (s : State) : Host.Outcome State Fault Refusal :=
  .next (flashOp placed probeOk s)
/-- VERIFY. -/
def execVerify (puf : Option (List Byte)) (ctr : CtrResp) (s : State) : Host.Outcome State Fault Refusal :=
  .next (verifyOp puf ctr s)
/-- FW. -/
def execFw (ok : Bool) (s : State) : Host.Outcome State Fault Refusal := .next (fwOp ok s)
/-- BIST. -/
def execBist (r : BistResult) (s : State) : Host.Outcome State Fault Refusal := .next (bistOp r s)
/-- CONFIG. -/
def execConfig (s : State) : Host.Outcome State Fault Refusal := .next (configOp s)
/-- CONFIG_LOAD_TIMEOUT. -/
def execConfigLoadTimeout (s : State) : Host.Outcome State Fault Refusal := .next (loadTimeoutOp s)
/-- PLL_LOCK_TIMEOUT. -/
def execPllLockTimeout (domain : Nat) (s : State) : Host.Outcome State Fault Refusal := .next (pllOp domain s)

end Sys2Proof.Machine
end

