-- ==== Sys2Proof/Machine/Update.lean ====
section
/-!
DEFINITION. Firmware update (16_boot_and_trust.md R442–R444), attestation (R440, R441), and the registers of the boot that
they report: BOOT_STAT, GCTL_INVENTORY, GCTL_CORE_EN0–5.
-/
namespace Sys2Proof.Machine

/-! ## Registers of the boot -/

/-- BOOT_STAT. -/
def State.bootStat (s : State) : Nat :=
  let b := s.boot
  b.phase + putAt b.slot 4 + flagAt b.fallback 5 + flagAt b.repairOk 6 + flagAt b.idOk 7 + flagAt b.rbProt 8
    + flagAt b.serviceable 9 + putAt b.failCode.toNat 16 + putAt (b.failSect % 32) 24 + putAt (b.failRec % 65536) 32

/-- Enabled cores of a die. -/
def Inventory.cores (v : Inventory) (die : Nat) : Nat := (v.sites.filter (fun c => c / 144 == die)).length

/-- Ports that R28 counts as usable: those that self-test did not find bad. A port that PORT_USE leaves OFF counts as usable: the spec does
not say (DESIGN CHOICE, log 91). -/
def State.portsUsable (s : State) : Nat := 8 - s.inv.portsBad.length

/-- R28 is not met. -/
def State.degraded (s : State) : Bool :=
  let v := s.inv
  v.cores 0 != 136 || v.cores 1 != 136 || v.banks != 64 || !v.mapOut.isEmpty || v.stackOk.length != 8 || s.portsUsable != 8

/-- One bit for each number of a list. -/
def bitsOf (l : List Nat) : Nat := (l.eraseDups).foldl (fun a i => a + 2 ^ i) 0

/-- GCTL_INVENTORY. LANE_SPARED has the bit of a port with exactly one failed data lane in a direction, also where the other direction has
more and the port is never brought up: the spec does not say whether that spare is in use (DESIGN CHOICE, log 92). -/
def State.inventory (s : State) : Nat :=
  let v := s.inv
  v.cores 0 + putAt (v.cores 1) 8 + putAt v.spare0 16 + putAt v.spare1 20 + putAt v.pbankSpared.length 24
    + putAt v.dbankSpared 33 + putAt (bitsOf ((v.lanes.filter (fun (l : Nat × Nat × Nat) => decide (l.2.2 < 8))).map (fun (l : Nat × Nat × Nat) => l.1))) 36 + putAt v.mapOut.length 44
    + putAt (bitsOf v.stackOk) 54 + flagAt s.degraded 62

/-- GCTL_CORE_ENr. -/
def State.coreEn (s : State) (r : Nat) : Nat :=
  bitsOf ((s.inv.sites.filter (fun c => 3 * (c / 144) + c % 144 / 64 == r)).map (fun c => c % 144 % 64))

/-- The PROFILE code. -/
def Profile.code : Profile → Nat
  | .express => 0
  | .freight => 1
  | .sleeper => 2

/-! ## Requests of a host (R442) -/

/-- The channel that carries a request binds the host function and the management core; `some a` says whether M is side A. -/
def State.updChannel (s : State) (k ch : Nat) : Option Bool :=
  let b := s.mbxBind ch
  if s.boot.phase ≠ 7 ∨ !b.en then none
  else if b.sideA = 8 ∧ b.sideB = k + 1 then some true
  else if b.sideB = 8 ∧ b.sideA = k + 1 then some false
  else none

def StageState.code : StageState → Nat
  | .idle => 0
  | .busy => 1
  | .done => 2
  | .failed => 3

/-- A word of a channel. -/
def Chan.word (c : Chan) (w : Nat) : Word := Tab.get 0 c.msg w

/-- Henesh answers in MBX_MSG32–33 and rings bit 0 of its own half. -/
def State.updReply (s : State) (ch : Nat) (mIsA : Bool) (result : Byte) (tag : Nat) : State :=
  let u := s.boot.upd
  let c := s.chan ch
  let w : Word := BitVec.ofNat 32 (result.toNat + putAt u.state.code 8 + putAt tag 16)
  let msg := Tab.set 0 (Tab.set 0 c.msg 32 w) 33 (u.fail.setWidth 32)
  s.changeChan .m ch { c with msg := msg, db := c.db ||| (if mIsA then 0x00000001 else 0x00010000) }

/-- The doorbell bit that host function k rings on a channel whose side A is M, or is not (R419). -/
def hostBell (mIsA : Bool) : Word := if mIsA then 0x00010000 else 0x00000001

/-- A request of host function k on a channel, whose REQ is that of the row: `f` decides its RESULT and its effect. Only a request that has been
rung is served, once: Henesh clears the bit (DEDUCED, log 119). -/
def State.updRequest (s : State) (k ch req : Nat) (f : State → Byte × State) : State :=
  match s.updChannel k ch with
  | none => s
  | some a =>
    let w := ((s.chan ch).word 0).toNat
    if w % 256 ≠ req ∨ (s.chan ch).db &&& hostBell a = 0 then s
    else
      let s0 := s.changeChan .m ch { s.chan ch with db := (s.chan ch).db &&& ~~~hostBell a }
      let r := if s.cfg.updHosts.getLsbD k then f s0 else (stRange, s0)
      r.2.updReply ch a r.1 (field w 31 16)

/-- The HBM address of an offset in the HDM range of a host function (R405). -/
def State.dpaAddr (s : State) (k d : Nat) : Nat :=
  let p := s.hostCfg k
  if d < p.h0Size * 2 ^ 30 then p.h0Base * 2 ^ 30 + d else 2 ^ 38 + p.h1Base * 2 ^ 30 + (d - p.h0Size * 2 ^ 30)

/-- The staged image as Henesh reads it; `none` when it is unreadable. -/
def State.readStaged (s : State) (k dpa n : Nat) : Option (List Byte) :=
  let as := (List.range n).map (fun i => s.dpaAddr k (dpa + i))
  if as.all (fun pa => s.hbmExists pa && s.mem.eccAt (.hbm pa) != .uncorrectable) then some (as.map (fun pa => s.mem.get (.hbm pa)))
  else none

/-- Why a staged image fails steps 1 and 2 of R443. -/
def State.stageFail (s : State) (l : List Byte) : Option Nat :=
  let img := listImg l
  let ctr := if s.boot.ctrPresent then some s.boot.counter else none
  match imageFail img (s.boot.flashSize / 2) ctr true with
  | some f => some f.code
  | none =>
    match loadCfg img s.inv s.boot.straps with
    | .inl f => some f.code
    | .inr _ => if serialAfter 32 s.boot.slotSeq.toNat (imgSeq img).toNat then none else some 0x0F

/-- The other slot erased, then written with bytes. -/
def BootSt.writeSlot (b : BootSt) (slot : Nat) (l : List Byte) : BootSt :=
  let base := slot * (b.flashSize / 2)
  let kept := b.flash.filter (fun e => decide (e.1 < base) || decide (base + b.flashSize / 2 ≤ e.1))
  { b with flash := l.zipIdx.foldl (fun t (x : Byte × Nat) => Tab.set 0 t (base + x.2) x.1) kept }

/-- STAGE: refused, or begun with STATE 1: steps 1 and 2 of R443, and, where they pass, the erasing of the other slot. -/
def State.stageBegin (s : State) (k ch : Nat) : Byte × State :=
  let c := s.chan ch
  let dpa := (c.word 1).toNat + putAt (c.word 2).toNat 32
  let n := (c.word 3).toNat
  let p := s.hostCfg k
  if (p.h0Size + p.h1Size) * 2 ^ 30 < dpa + n ∨ s.boot.flashSize / 2 < n then (stRange, s)
  else if s.boot.upd.state = .busy then (stResource, s)
  else
    let img := s.readStaged k dpa n
    let fail := match img with
      | some l => (s.stageFail l).getD 0
      | none => 0x11
    let u : UpdSt := ⟨.busy, 0, k, ch, BitVec.ofNat 16 (field (c.word 0).toNat 31 16), fail, img.getD []⟩
    let b := if fail = 0 then s.boot.writeSlot (1 - s.boot.slot) [] else s.boot
    (stOk, s.setBoot { b with upd := u })

/-- Where the REPAIR section of n bytes goes in a staged image: at the place that its entry names, or, where that place does not meet R425, at
the first one behind another section that does (DEDUCED, log 117). -/
def repairSpot (img : Img) (e : List Byte) (n : Nat) : Nat :=
  let others := (dirEnts img).filter (fun x => entType x != 3)
  let fits (o : Nat) : Bool := o % 4096 == 0 && decide (0x6000 ≤ o) && decide (o + n ≤ imgU img 0x10 8)
    && others.all (fun x => !(decide (o < entOff x + entLen x) && decide (entOff x < o + n)))
  ((entOff e :: 0x6000 :: others.map (fun x => (entOff x + entLen x + 4095) / 4096 * 4096)).find? fits).getD (entOff e)

/-- The image as written: the booted slot's REPAIR section, and its entry in the header (R443 step 5). -/
def State.stagedBytes (s : State) (l : List Byte) : List Byte :=
  let own := s.boot.img s.boot.slot
  let rep := sectionOf own 3
  match findSection (listImg l) 3 with
  | none => l
  | some (e, i) =>
    let o := repairSpot (listImg l) e rep.length
    let ent := slice e 0 4 ++ toLe 4 o ++ toLe 4 rep.length ++ toLe 4 0 ++ sha3 rep
    overlay (overlay (slice l 0 (max l.length (o + rep.length))) o rep) (0x20 + 80 * i) ent

/-- The end of a STAGE, with its reply. -/
def State.stageEnd (s : State) (fail : Nat) : State :=
  let u := s.boot.upd
  let ok := fail == 0
  let s1 := s.setBoot { s.boot with upd := { u with state := if ok then .done else .failed, fail := BitVec.ofNat 8 fail, found := 0, image := [] } }
  match s1.updChannel u.host u.chan with
  | some a => s1.updReply u.chan a (if ok then stOk else stFormat) u.tag.toNat
  | none => s1

/-- STAGE_COMPLETE: `writeOk` says that the flash took the write and reads back as written. -/
def stageCompleteOp (writeOk : Bool) (s : State) : State :=
  let u := s.boot.upd
  if u.state ≠ .busy then s
  else if u.found ≠ 0 then s.stageEnd u.found
  else
    let bytes := s.stagedBytes u.image
    match headFail (listImg bytes) (s.boot.flashSize / 2) false with
    | some f => s.stageEnd f.code
    | none =>
      if writeOk then (s.setBoot (s.boot.writeSlot (1 - s.boot.slot) bytes)).stageEnd 0 else s.stageEnd 0x10

/-- COMMIT_SVN (R444): the flash's counter is raised to the booted SVN. A counter whose answer to the increment fails authentication is treated as
absent, and the failure is logged (R427). -/
def State.commit (ctr : CtrResp) (s : State) : Byte × State :=
  let b := s.boot
  if !b.ctrPresent then (stRange, s)
  else if b.svn.toNat ≤ b.counter.toNat then (stOk, s)
  else
    let f := b.fctr.map (fun f => { f with value := b.svn })
    match f.bind (fun f => ctrAnswer f b.ctrKey 1 ctr) with
    | some v => (stOk, s.setBoot { b with fctr := f, counter := v })
    | none => (stRange, (s.setBoot { b with fctr := f, counter := 0, ctrPresent := false, rbProt := false }).logErr
                          { status := stFormat, unit := uBoot, addr := 0x08 })

/-! ## Attestation (R440, R441) -/

/-- The certificate chain of slot 0. -/
def State.chain (s : State) : List Byte := Config.rootCert ++ s.boot.devCert ++ s.boot.aliasCert

/-- The measurement blocks of R441. -/
def State.measures (s : State) : List Meas :=
  let b := s.boot
  let img := b.img b.slot
  let word := field s.bootStat 9 4 + putAt s.cfg.profile.code 6
  let raw5 := toLe 4 b.svn.toNat ++ toLe 4 b.slotSeq.toNat ++ toLe 4 (if b.ctrPresent then b.counter.toNat else 0) ++ toLe 4 word
  let raw6 := toLe 8 s.inventory ++ (List.range 6).flatMap (fun r => toLe 8 (s.coreEn r))
  [⟨1, .immutableRom, false, sha3 Config.bootRom⟩, ⟨2, .mutableFirmware, false, sectionHash img 1⟩,
   ⟨3, .firmwareConfig, false, ownerDigest img⟩, ⟨4, .hardwareConfig, false, sectionHash img 3⟩,
   ⟨5, .firmwareConfig, true, raw5⟩, ⟨6, .hardwareConfig, true, raw6⟩]

/-- The data object that carries an SPDM message: vendor 0x0001, type 0x01. -/
def doeObj (r : SpdmResp) : DoeObj := ⟨0x0001, 0x01, r⟩

/-- The DOE mailbox of a host function whose link is up answers a request. -/
def State.spdm (s : State) (k : Nat) (r : HostFn → SpdmResp) : State :=
  let h := s.hostFn k
  if k < 4 ∧ h.linkUp then s.setHost k { h with doe := some (doeObj (r h)) } else s

/-- A request that follows the negotiation: a requester that has not selected the algorithms is answered with ERROR. -/
def State.spdmAfter (s : State) (k : Nat) (r : SpdmResp) : State := s.spdm k (fun h => if h.negotiated then r else .errInvalid)

/-- A signed answer to a requester that has selected the algorithms: it holds the responder's next nonce and the signature of the Alias key
over the SPDM message, and uses up the nonce. -/
def State.spdmSigned (s : State) (k kind : Nat) (content : List Byte) (r : List Byte → List Byte → SpdmResp) : State :=
  let h := s.hostFn k
  let n := Config.spdmNonce (4 * h.spdmCount + k)
  if h.negotiated = false then s.spdmAfter k .errInvalid
  else if k < 4 ∧ h.linkUp then
    s.setHost k { h with doe := some (doeObj (r n (Config.mldsaSign s.boot.aliasSk (sha3 (Config.spdmMessage kind n content)))))
                         spdmCount := h.spdmCount + 1 }
  else s

/-- ALGORITHMS: the one algorithm of each kind, no BaseAsymAlgo, ML-DSA-87 under the registry PCI-SIG. -/
def algorithmsAnswer : SpdmResp := .algorithms .sha3_512 .sha3_512 [] [⟨0x1F6B, 0x0087⟩]

def negotiateOp (k : Nat) (sel : AlgSel) (s : State) : State :=
  let ok := sel.baseAsymNone && sel.baseHashSha3 && sel.measHashSha3 && sel.extMlDsa
  let h := s.hostFn k
  if k < 4 ∧ h.linkUp then s.setHost k { h with negotiated := ok, doe := some (doeObj (if ok then algorithmsAnswer else .errInvalid)) } else s

def certificateOp (k slotId off len : Nat) (s : State) : State :=
  let c := s.chain
  s.spdmAfter k (if slotId ≠ 0 ∨ c.length ≤ off then .errInvalid
    else
      let n := min len (c.length - off)
      .certificate (slice c off n) (c.length - off - n))

def challengeOp (k slotId : Nat) (nonce : List Byte) (s : State) : State :=
  if !s.boot.idOk then s.spdmAfter k .errUnspecified
  else if slotId ≠ 0 then s.spdmAfter k .errInvalid
  else
    let ch := sha3 s.chain
    let mh := sha3 (s.measures.flatMap (·.value))
    s.spdmSigned k 0x83 (nonce ++ ch ++ mh) (fun n g => .challengeAuth ch n mh g)

def measurementsOp (k index : Nat) (signed : Bool) (nonce : List Byte) (s : State) : State :=
  let all := s.measures
  let blocks := if index = 0xFF then all else all.filter (fun b => b.index == index)
  if signed ∧ !s.boot.idOk then s.spdmAfter k .errUnspecified
  else if 6 < index ∧ index ≠ 0xFF then s.spdmAfter k .errInvalid
  else if signed then s.spdmSigned k 0xE0 (nonce ++ blocks.flatMap (·.value)) (fun n g => .measurements blocks n g)
  else s.spdmAfter k (.measurements blocks [] [])

/-! ## Rows -/

/-- STAGE. -/
def execStage (k ch : Nat) (s : State) : Host.Outcome State Fault Refusal :=
  .next (s.updRequest k ch 1 (fun s => s.stageBegin k ch))
/-- STAGE_COMPLETE. -/
def execStageComplete (writeOk : Bool) (s : State) : Host.Outcome State Fault Refusal := .next (stageCompleteOp writeOk s)
/-- STATUS. -/
def execStatus (k ch : Nat) (s : State) : Host.Outcome State Fault Refusal := .next (s.updRequest k ch 2 (fun s => (stOk, s)))
/-- COMMIT_SVN. -/
def execCommitSvn (k : Nat) (req : Commit) (s : State) : Host.Outcome State Fault Refusal :=
  .next (s.updRequest k req.ch 3 (State.commit req.ctr))
/-- GET_VERSION: 1.2 only. -/
def execGetVersion (k : Nat) (s : State) : Host.Outcome State Fault Refusal := .next (s.spdm k (fun _ => .version 0x12))
/-- GET_CAPABILITIES: CERT_CAP, CHAL_CAP and MEAS_CAP with signature, CTExponent 16. -/
def execGetCapabilities (k : Nat) (s : State) : Host.Outcome State Fault Refusal :=
  .next (s.spdm k (fun _ => .capabilities true true true 16))
/-- NEGOTIATE_ALGORITHMS. -/
def execNegotiateAlgorithms (k : Nat) (sel : AlgSel) (s : State) : Host.Outcome State Fault Refusal :=
  .next (negotiateOp k sel s)
/-- GET_DIGESTS: slot 0 alone holds a chain. -/
def execGetDigests (k : Nat) (s : State) : Host.Outcome State Fault Refusal :=
  .next (s.spdmAfter k (.digests 1 (sha3 s.chain)))
/-- GET_CERTIFICATE. -/
def execGetCertificate (k slotId off len : Nat) (s : State) : Host.Outcome State Fault Refusal :=
  .next (certificateOp k slotId off len s)
/-- CHALLENGE. -/
def execChallenge (k slotId : Nat) (nonce : List Byte) (s : State) : Host.Outcome State Fault Refusal :=
  .next (challengeOp k slotId nonce s)
/-- GET_MEASUREMENTS. -/
def execGetMeasurements (k index : Nat) (signed : Bool) (nonce : List Byte) (s : State) : Host.Outcome State Fault Refusal :=
  .next (measurementsOp k index signed nonce s)
/-- UNSUPPORTED_REQUEST. -/
def execUnsupportedRequest (k code : Nat) (s : State) : Host.Outcome State Fault Refusal :=
  .next (s.spdm k (fun _ => .errUnsupported code))

end Sys2Proof.Machine
end

