-- ==== Sys2Proof/Machine/Power.lean ====
section
/-!
DEFINITION. Clock steps, idle states, supply, heat and warm reset (17_power_clocks_supply.md R450–R464), and their rows.
-/
namespace Sys2Proof.Machine

def State.setPwr (s : State) (p : PwrSt) : State := { s with pwr := p }

/-- An event of supply or heat is logged. -/
def State.logPwr (s : State) (place index : Nat) : State :=
  s.logErr { status := stOk, unit := uPwr, addr := index, where_ := place, index := index }

/-! ## Clock steps (R450, R451) -/

/-- The supply warning or THERM_CRIT holds both dies at step 5: until 50 µs after a warning's release (R457). -/
def PwrSt.safeStep (p : PwrSt) : Bool := p.warn || p.releasedAt.isSome || p.thermCrit

/-- The clock step of a die (R456, R458, R459). -/
def PwrSt.step (p : PwrSt) (die : Nat) : Nat :=
  if p.safeStep then 5 else max (if die = 0 then p.thC0 else p.thC1) p.capStep

/-- A step that heat or the power cap holds above 0. -/
def State.throttled (s : State) : Bool :=
  s.cfg.profile != .express && (s.pwr.thC0 != 0 || s.pwr.thC1 != 0 || s.pwr.capStep != 0)

/-- PWR_STAT[14:0]. -/
def State.pwrBits (s : State) : Nat :=
  let p := s.pwr
  p.state + flagAt p.trans 3 + putAt (p.step 0) 4 + putAt (p.step 1) 7 + flagAt p.warn 10 + flagAt p.admitStop 11
    + flagAt p.holdExp 12 + flagAt s.throttled 13 + flagAt p.thermCrit 14

/-- PWR_STAT. -/
def State.pwrStat (s : State) : Nat :=
  let tol := match s.tolerance with
    | some n => min n 0xFFFFFFFF
    | none => 0xFFFFFFFF
  s.pwrBits + putAt tol 16 + putAt s.pwr.rstCause 48

/-- PWR_TEMP. -/
def State.pwrTemp (s : State) : Nat :=
  let p := s.pwr
  let hot := p.tHbm.foldl (fun a e => max a e.2) 0
  p.tjC0 % 256 + putAt (p.tjC1 % 256) 8 + putAt (p.tjH % 256) 16 + putAt (hot % 256) 24

/-- PWR_SUPPLY. -/
def State.pwrSupply (s : State) : Nat := s.pwr.warnEvents + putAt s.pwr.holdExpired 16 + putAt s.pwr.critEvents 32

/-- A PWR record is traced when PWR_STAT[14:0] has changed (R473). -/
def State.tracePwr (o s : State) : State :=
  if o.pwrBits = s.pwrBits then s
  else s.trace false ⟨0x09, 0x12, 0, 0, 0, s.time.now, BitVec.ofNat 64 s.pwrBits, 0⟩

/-! ## Supply (R455–R457) -/

/-- The place of a rail in the error log. -/
def railCode : Rail → Nat
  | .c0 => 0
  | .c1 => 1
  | .hub => 2

/-- SUPPLY_WARNING: a warning that is asserted already goes on. -/
def warningOp (r : Rail) (s : State) : State :=
  let p := s.pwr
  if p.warn ∨ p.trip ∨ p.inReset then s
  else
    (s.setPwr { p with warn := true, admitStop := true, holdExp := false, warnAt := s.time.clk, releasedAt := none
                       warnEvents := min 0xFFFF (p.warnEvents + 1) }).logPwr (railCode r) 1

/-- WARNING_RELEASED. -/
def releasedOp (s : State) : State :=
  if s.pwr.warn then s.setPwr { s.pwr with warn := false, releasedAt := some s.time.clk } else s

/-- WARNING_RETURN: 50 µs after the release. -/
def returnOp (s : State) : State :=
  match s.pwr.releasedAt with
  | some t =>
    if t.toNat + 50000 ≤ s.time.clk.toNat then
      s.setPwr { s.pwr with releasedAt := none, admitStop := false, holdExp := false }
    else s
  | none => s

/-- HOLD_WINDOW_EXPIRE: 1 ms after the assertion. -/
def holdExpireOp (s : State) : State :=
  let p := s.pwr
  if p.warn ∧ !p.holdExp ∧ p.warnAt.toNat + 1000000 ≤ s.time.clk.toNat then
    s.setPwr { p with admitStop := false, holdExp := true, holdExpired := min 0xFFFF (p.holdExpired + 1) }
  else s

/-! ## Heat (R458, R459) -/

def State.setTj (s : State) (c0 c1 : Nat) : State := s.setPwr { s.pwr with tjC0 := c0, tjC1 := c1 }

/-- A step with its timers: down at most once per 100 µs while `hot`, up once per 1 ms while `cool`. -/
def PwrSt.throttle (p : PwrSt) (key step : Nat) (hot cool : Bool) (now : Dword) : PwrSt × Nat :=
  let down := Tab.get 0 p.downAt key
  let up := Tab.get 0 p.upAt key
  if hot then
    let p1 := { p with upAt := Tab.set 0 p.upAt key now }
    if step < 4 ∧ down.toNat + 100000 ≤ now.toNat then ({ p1 with downAt := Tab.set 0 p.downAt key now }, step + 1) else (p1, step)
  else if cool then
    if 0 < step ∧ up.toNat + 1000000 ≤ now.toNat then ({ p with upAt := Tab.set 0 p.upAt key now }, step - 1) else (p, step)
  else ({ p with upAt := Tab.set 0 p.upAt key now }, step)

/-- THROTTLE_TICK: the hottest sensors of the dies and the average power over the last 10 ms, in W. -/
def throttleOp (c0 c1 watts : Nat) (s : State) : State :=
  let s1 := s.setTj c0 c1
  if s.cfg.profile = .express ∨ !s.cfg.cfgDone then s1
  else
    let now := s.time.clk
    let a := s1.pwr.throttle 0 s1.pwr.thC0 (decide (95 ≤ c0)) (decide (c0 ≤ 90)) now
    let b := a.1.throttle 1 a.1.thC1 (decide (95 ≤ c1)) (decide (c1 ≤ 90)) now
    let cap := 4 * b.1.cap
    let c := b.1.throttle 2 b.1.capStep (decide (cap < watts)) (decide (100 * watts < 95 * cap)) now
    s1.setPwr { c.1 with thC0 := a.2, thC1 := b.2, capStep := c.2 }

/-- The state of a thermal trip (R460): every domain but 25 in reset; RST_CAUSE and fabric time are kept. -/
def State.tripped (s : State) : State :=
  let r := s.cold 3
  { r with
    time := { TimeSt.reset with now := s.time.now, clk := s.time.clk }
    pwr := { r.pwr with trip := true, inReset := false, tjC0 := s.pwr.tjC0, tjC1 := s.pwr.tjC1, tjH := s.pwr.tjH, tHbm := s.pwr.tHbm } }

/-- THERM_CRIT: a logic die at or above 105 °C. -/
def critOp (c0 c1 h : Nat) (s : State) : State :=
  let s1 := (s.setTj c0 c1).setPwr { (s.setTj c0 c1).pwr with tjH := h }
  if (105 ≤ c0 ∨ 105 ≤ c1 ∨ 105 ≤ h) ∧ !s1.pwr.thermCrit then
    (s1.setPwr { s1.pwr with thermCrit := true, critEvents := min 0xFFFF (s1.pwr.critEvents + 1) }).logPwr 0 2
  else s1

/-- THERM_CRIT_CLEAR: every logic die has been at or below 100 °C for 1 ms. -/
def critClearOp (c0 c1 h : Nat) (s : State) : State :=
  let s1 := (s.setTj c0 c1).setPwr { (s.setTj c0 c1).pwr with tjH := h }
  if c0 ≤ 100 ∧ c1 ≤ 100 ∧ h ≤ 100 ∧ s1.pwr.thermCrit then (s1.setPwr { s1.pwr with thermCrit := false }).logPwr 0 3 else s1

/-- THERMAL_TRIP: a logic die at or above 115 °C or a stack at or above 105 °C. -/
def tripOp (c0 c1 h hbm : Nat) (s : State) : State :=
  let s1 := (s.setTj c0 c1).setPwr { (s.setTj c0 c1).pwr with tjH := h }
  if 115 ≤ c0 ∨ 115 ≤ c1 ∨ 115 ≤ h ∨ 105 ≤ hbm then (s1.logPwr 0 4).tripped else s1

def setMember (l : List Nat) (k : Nat) (b : Bool) : List Nat := (l.filter (fun x => x != k)) ++ (if b then [k] else [])

/-- HBM_TEMP_CHANGE: the refresh and issue rates of a stack follow what it reports. -/
def hbmTempOp (st t : Nat) (s : State) : State :=
  let p := s.pwr
  let fast := decide (85 ≤ t)
  let half := decide (95 ≤ t) || (p.halfRate.contains st && decide (90 < t))
  let s1 := s.setPwr { p with tHbm := Tab.set 0 p.tHbm st t, fastRefresh := setMember p.fastRefresh st fast
                              halfRate := setMember p.halfRate st half }
  let s2 := if fast && !p.fastRefresh.contains st then s1.logPwr st 5 else s1
  let s3 := if half && !p.halfRate.contains st then s2.logPwr st 6 else s2
  if 105 ≤ t then (s3.logPwr st 4).tripped else s3

/-! ## Idle states (R452–R454) -/

def exitNs (k : Nat) : Nat :=
  match k with
  | 1 => 1000
  | 2 => 20000
  | 3 => 200000
  | 4 => 2000000
  | _ => 0

def entryNs (k : Nat) : Nat :=
  match k with
  | 1 => 1000
  | 2 => 200000
  | 3 => 2000000
  | 4 => 20000000
  | _ => 0

/-- The device is idle (R453). -/
def State.idle (s : State) : Bool :=
  s.cmdList.all (fun e => !e.2.started) && s.cmds.wagons.isEmpty
    && s.ctxs.all (fun e => e.2.cq.waiting.isEmpty)

/-- A state that the conditions of R453 allow, the device having been idle since t. -/
def State.mayEnter (s : State) (k : Nat) (t : Dword) : Bool :=
  (s.cfg.profile != .express || k == 1) && bitAt s.pwr.idleEn (k - 1)
    && (match s.tolerance with
        | some n => decide (exitNs k ≤ n)
        | none => true)
    && decide (t.toNat + entryNs k ≤ s.time.clk.toNat)

/-- IDLE_ENTRY: the next deeper allowed state is being entered. -/
def idleEntryOp (s : State) : State :=
  let p := s.pwr
  match p.idleSince with
  | none => s
  | some t =>
    if p.trans ∨ !s.idle ∨ !s.cfg.cfgDone then s
    else
      match [1, 2, 3, 4].find? (fun k => decide (p.state < k) && s.mayEnter k t) with
      | some k => s.setPwr { p with trans := true, exiting := false, target := k, entryAt := s.time.clk }
      | none => s

/-- A command could start but for the idle state, or will at T_START within the exit latency (R454). -/
def State.eligible (s : State) (slot : Nat) (c : Cmd) (exit : Nat) : Bool :=
  let x := (s.ctx c.ctx).state
  decide (slot < 4096) && !s.trc.dump.busy && (x == .on || x == .restoring) && !isError c.st
    && (!c.crec.startEn || decide (c.crec.tStart.toNat ≤ s.time.now.toNat + exit))
    && (c.phase == .ready || (c.beforeMain && c.phase == .admitted))

/-- A packet waits for the path that it needs. -/
def State.packetWaits (s : State) : Bool :=
  s.fab.loop.any s.mustWait || s.fab.ports.any (fun e =>
    let q := e.2
    ((List.range (q.rxSlots.length / 32)).any (fun i =>
      let b := q.rxSlots.drop (32 * i)
      !zeroAt b 0 32 && !headerBad (b.take 32) && s.mustWait (packetOf (b.take 32) []))))

/-- The sequencers have work that leads to a command eligible to start: records to fetch, or a head that can be decided (DEDUCED, log 118). -/
def State.seqWork (s : State) : Bool :=
  s.ctxs.any (fun e => (List.range 4).any (fun q => s.fetches e.1 q && (e.2.sq q).tail != (e.2.sq q).head))
    || (!s.pwr.admitStop && !s.trc.dump.busy && s.heads.any (fun k =>
      let v := s.verdict k
      match v.1 with
      | .reject _ => true
      | .fits => !s.blockedBy s.heads k v.2.need || s.waited k (s.ctx k.ctx).admitNs
      | .wait _ => s.waited k (s.ctx k.ctx).admitNs))

/-- A wake event holds. -/
def State.wakeDue (s : State) : Bool :=
  let k := if s.pwr.trans then max s.pwr.state s.pwr.target else s.pwr.state
  s.cmdList.any (fun e => s.eligible e.1 e.2 (exitNs k)) || s.seqWork || !s.pwr.held.isEmpty || s.packetWaits

/-- WAKE: an exit to P0 starts; an entry in progress is abandoned. -/
def wakeOp (s : State) : State :=
  let p := s.pwr
  if (p.state ≠ 0 ∨ p.trans) ∧ !p.exiting ∧ s.wakeDue then
    s.setPwr { p with trans := true, exiting := true, entryAt := s.time.clk }
  else s

/-- After an exit from I4 every Platform byte reads as zero. -/
def Memories.zeroPlat (m : Memories) : Memories := { m with plat := [], platEra := m.platEra + m.platEra % 2 }

/-- What a tick does to the idle states: an entry ends at the tick after it began (log 14), and the time of idleness runs. -/
def State.powerTick (s : State) : State :=
  let p := s.pwr
  let p1 := if p.trans ∧ !p.exiting then { p with state := p.target, trans := false } else p
  s.tracePwr (s.setPwr { p1 with idleSince := if s.idle then some (p.idleSince.getD s.time.clk) else none })

/-! ## Warm reset (R460, R461, R481) -/

/-- A port is retrained. -/
def State.retrainPort (s : State) (k : Nat) : State :=
  match (s.port k).state with
  | .up => s.retrain k 0
  | .down => s.beginTraining k
  | _ => s

/-- A warm reset, once every context is OFF: the host functions, the Yard tables, the Platforms and the ports follow, and it is logged. -/
def State.warmRest (s : State) : State :=
  let s1 := (List.range 4).foldl (fun (s : State) k => (s.modHost k (·.clearCfg)).releaseLocks (k + 1)) s
  let s2 := { s1 with
    yard := { s1.yard with jobs := [], leases := [], pend := [] }
    mem := { s1.mem with plat := [], platEra := s1.mem.platEra + 1 + (s1.mem.platEra % 2) } }
  let s3 := (List.range 8).foldl (fun (s : State) k => s.retrainPort k) s2
  (s3.setPwr { s3.pwr with rstCause := 4, warming := false }).logErr { status := stOk, unit := uPwr, detail := 4 }

/-- A warm reset in progress goes on once the resets of every context are complete (R461). -/
def warmStep (s : State) : State := if s.pwr.warming && s.ctxs.all (fun e => e.2.state == .off) then s.warmRest else s

/-- A warm reset begins: every context that is not OFF is reset, those whose reset has been started first among them (R461, R462). -/
def State.warm (s : State) : State :=
  let d := s.trc.dump
  let s0 := { s with trc := { s.trc with dump := { d with busy := false, wdogCtx := none, held := [], image := [] } } }
  let s1 := s0.settleMigs
  let s2 := (s1.ctxs.map (·.1)).foldl (fun (s : State) c => s.beginReset c false) s1
  warmStep (s2.setPwr { s2.pwr with warming := true })

/-- WARM. A freeze whose dump is not written yet lets no warm reset through (R481), and one in progress absorbs another (R462). -/
def warmOp (s : State) : State := if (s.trc.dump.busy ∧ !s.trc.dump.done) ∨ s.pwr.warming then s else s.warm

/-- Supply reset (R455, R460): in reset and in a thermal trip the rails are no longer watched, since the board may then remove them (R488). -/
def supplyResetOp (s : State) : State := if s.pwr.trip ∨ s.pwr.inReset then s else s.cold 2

/-- A write of PWR_CTRL: a CAP outside its range leaves CAP unchanged, and is logged. -/
def pwrCtrlWrite (mst : Master) (v : Word) (s : State) : State :=
  let x := v.toNat
  let cap := field x 26 16
  let ok := decide (150 ≤ cap) && decide (cap ≤ 400)
  if mst ≠ .m then s.logReg mst 0x400008
  else
    let s1 := s.setPwr { s.pwr with idleEn := field x 3 0, cap := if ok then cap else s.pwr.cap }
    let s2 := if ok then s1 else s1.logReg mst 0x400008
    if bitAt x 27 then warmOp s2 else s2

/-! ## PWR_TMO (R464) -/

def tmoWrite (mst : Master) (v : Word) (s : State) : State :=
  let us := field v.toNat 15 0
  let ms := field v.toNat 31 16
  if mst ≠ .m ∨ us < 10 ∨ 1000 < us ∨ ms < 1 ∨ 1000 < ms ∨ ms * 1000 ≤ us then s.logReg mst 0x400020
  else s.setPwr { s.pwr with wagonUs := us, stallMs := ms }

/-! ## Rows -/

/-- SUPPLY_WARNING. -/
def execSupplyWarning (rail : Rail) (s : State) : Host.Outcome State Fault Refusal := .next (s.tracePwr (warningOp rail s))
/-- WARNING_RELEASED. -/
def execWarningReleased (s : State) : Host.Outcome State Fault Refusal := .next (s.tracePwr (releasedOp s))
/-- WARNING_RETURN. -/
def execWarningReturn (s : State) : Host.Outcome State Fault Refusal := .next (s.tracePwr (returnOp s))
/-- HOLD_WINDOW_EXPIRE. -/
def execHoldWindowExpire (s : State) : Host.Outcome State Fault Refusal := .next (s.tracePwr (holdExpireOp s))
/-- SUPPLY_RESET. -/
def execSupplyReset (_rail : Rail) (s : State) : Host.Outcome State Fault Refusal := .next (supplyResetOp s)
/-- THROTTLE_TICK. -/
def execThrottleTick (tjC0 tjC1 watts : Nat) (s : State) : Host.Outcome State Fault Refusal := .next (s.tracePwr (throttleOp tjC0 tjC1 watts s))
/-- THERM_CRIT. -/
def execThermCrit (tjC0 tjC1 tjH : Nat) (s : State) : Host.Outcome State Fault Refusal := .next (s.tracePwr (critOp tjC0 tjC1 tjH s))
/-- THERM_CRIT_CLEAR. -/
def execThermCritClear (tjC0 tjC1 tjH : Nat) (s : State) : Host.Outcome State Fault Refusal :=
  .next (s.tracePwr (critClearOp tjC0 tjC1 tjH s))
/-- THERMAL_TRIP. -/
def execThermalTrip (tjC0 tjC1 tjH tHbm : Nat) (s : State) : Host.Outcome State Fault Refusal :=
  .next (s.tracePwr (tripOp tjC0 tjC1 tjH tHbm s))
/-- HBM_TEMP_CHANGE. -/
def execHbmTempChange (stack temp : Nat) (s : State) : Host.Outcome State Fault Refusal := .next (s.tracePwr (hbmTempOp stack temp s))
/-- IDLE_ENTRY. -/
def execIdleEntry (s : State) : Host.Outcome State Fault Refusal := .next (s.tracePwr (idleEntryOp s))
/-- WAKE. -/
def execWake (s : State) : Host.Outcome State Fault Refusal := .next (s.tracePwr (wakeOp s))
/-- CTX_RESET_DONE. -/
def execCtxResetDone (ctx : Nat) (s : State) : Host.Outcome State Fault Refusal := .next (warmStep (resetDoneOp ctx s))
/-- WARM: a write of PWR_CTRL with WARM set. -/
def execWarm (mst : Master) (v : Word) (s : State) : Host.Outcome State Fault Refusal :=
  regRow (.warm mst v) mst s (pwrCtrlWrite mst (v ||| 0x08000000))
/-- PWR_TMO_WRITE. -/
def execPwrTmoWrite (mst : Master) (v : Word) (s : State) : Host.Outcome State Fault Refusal :=
  regRow (.pwrTmoWrite mst v) mst s (tmoWrite mst v)
/-- PWR_LTR_WRITE. -/
def execPwrLtrWrite (mst : Master) (v : Word) (s : State) : Host.Outcome State Fault Refusal :=
  regRow (.pwrLtrWrite mst v) mst s (ltrWrite mst v)

end Sys2Proof.Machine
end

