-- ==== Sys2Proof/Machine/Obs.lean ====
section
/-!
DEFINITION. The trace and dump registers and their rows (18_observation.md R474–R482): ARM, MARK, SAMPLE, GO, DUMP_DONE,
RESUME, TRACE_RECORD_SENT; and BOOK_TIMEOUT (12_signals_and_books.md R339).
-/
namespace Sys2Proof.Machine

def State.setTrc (s : State) (t : TrcSt) : State := { s with trc := t }

/-- Only the management core and the debug port write the trace and dump controls. -/
def Master.observes (mst : Master) : Bool := mst == .m || mst == .d

/-! ## TRC_CTRL (R475) -/

/-- ARM: the buffer is emptied, the counts are cleared, the trigger is armed; records in the sources' FIFOs are not in the buffer yet, and stay
(log 40). -/
def TrcSt.arm (t : TrcSt) : TrcSt :=
  { t with buf := [], fifos := Tab.onEach Fifo.empty (fun f => { f with lost := ⟨0, 0⟩ }) t.fifos, headGap := ⟨0, 0⟩, tailGap := none, triggered := false, share := none, frozen := false, dropped := 0 }

/-- A write of TRC_CTRL: MODE 3 or POST 0 leaves its field unchanged, and is logged. -/
def trcCtrlWrite (mst : Master) (v : Word) (s : State) : State :=
  let x := v.toNat
  let mode := field x 2 1
  let post := field x 6 3
  let us := field x 31 16
  if !Master.observes mst then s.logReg mst 0x600000
  else
    let t := s.trc
    let t1 := { t with en := bitAt x 0, mode := if mode = 3 then t.mode else mode, post := if post = 0 then t.post else post
                       portEn := bitAt x 7, sampleUs := us, sampleAt := if us = t.sampleUs then t.sampleAt else s.time.clk }
    let s1 := s.setTrc (if bitAt x 8 then t1.arm else t1)
    if mode = 3 ∨ post = 0 then s1.logReg mst 0x600000 else s1

/-- TRC_CTRL as read. -/
def TrcSt.ctrl (t : TrcSt) : Nat :=
  flagAt t.en 0 + putAt t.mode 1 + putAt t.post 3 + flagAt t.portEn 7 + putAt t.sampleUs 16

/-! ## TRC_FILT, TRC_TRIG, TRC_STAT (R474, R477) -/

def trcFiltWrite (mst : Master) (v : Dword) (s : State) : State :=
  let x := v.toNat
  if !Master.observes mst then s.logReg mst 0x600008
  else s.setTrc { s.trc with types := BitVec.ofNat 16 (field x 15 0), filtCtx := bitAt x 16, ctxSel := field x 28 17 }

def TrcSt.filt (t : TrcSt) : Nat := t.types.toNat + flagAt t.filtCtx 16 + putAt t.ctxSel 17

def trcTrigWrite (mst : Master) (v : Dword) (s : State) : State :=
  let x := v.toNat
  if !Master.observes mst then s.logReg mst 0x600010
  else s.setTrc { s.trc with onErr := bitAt x 0, onFail := bitAt x 1, onSig := bitAt x 2, onDep := bitAt x 3, sigNum := field x 31 16 }

def TrcSt.trig (t : TrcSt) : Nat :=
  flagAt t.onErr 0 + flagAt t.onFail 1 + flagAt t.onSig 2 + flagAt t.onDep 3 + putAt t.sigNum 16

def TrcSt.stat (t : TrcSt) : Nat := t.held + flagAt t.triggered 16 + flagAt t.frozen 17 + putAt (t.dropped % 2 ^ 46) 18

/-! ## MARK and SAMPLE (R474, R477) -/

/-- A write of TRC_MARK by any master: a MARK record, which fires the trigger when TRIG is set. A dropped MARK fires
nothing; TRC_TRIG has no bit for a MARK, and A of its TRIGGER record is zero (log 40). -/
def markOp (mst : Master) (v : Dword) (s : State) : State :=
  s.traceAs false ⟨0x0C, mst.code, 0, 0, 0, s.time.now, BitVec.ofNat 64 (field v.toNat 62 0), 0⟩ (bitAt v.toNat 63)

/-- SAMPLE: one record for each counter of the list, once every SAMPLE_US µs. -/
def sampleOp (s : State) : State :=
  let t := s.trc
  if t.sampleUs = 0 ∨ s.time.clk.toNat < t.sampleAt.toNat + 1000 * t.sampleUs then s
  else
    t.sampleList.foldl (fun (s : State) off =>
      s.trace false ⟨0x0B, 0x14, 0, 0, BitVec.ofNat 32 off, s.time.now, s.counter (0x500000 + off), 0⟩)
      (s.setTrc { t with sampleAt := s.time.clk })

/-! ## The trace port (R475, R478) -/

/-- The buffer without its oldest entry, and that entry. In STOP mode the pending GAP record takes the space. A frozen
buffer holds still. -/
def TrcSt.pop (t : TrcSt) : Option (TrcRec × TrcSt) :=
  if t.frozen then none
  else if t.headGap.count ≠ 0 then some (gapRec t.headGap, { t with headGap := ⟨0, 0⟩ })
  else
    match t.buf with
    | [] => none
    | r :: rest =>
      some (r, match t.tailGap with
        | some g => if t.mode = 0 then { t with buf := rest ++ [gapRec g], tailGap := none } else { t with buf := rest }
        | none => { t with buf := rest })

/-- TRACE_RECORD_SENT. -/
def recordSentOp (s : State) : State :=
  if !s.trc.portEn ∨ s.inv.pllFailed.contains 24 then s
  else
    match s.trc.pop with
    | none => s
    | some (r, t) => s.setTrc { t with sent := t.sent ++ [r] }

/-! ## Hang dumps (R480–R482) -/

/-- A command that the freeze held back takes effect. -/
def State.runHeld (s : State) (i : Instr) : State :=
  match i with
  | .preempt mst c => preemptOp mst c s
  | .restore mst c => restoreOp mst c s
  | .reset mst c => resetOp mst c s
  | .flr k => s.resetCtxs k
  | .abort mst c q seq => (s.modCtx c (fun x => { x with abortBusy := false })).abortWrite mst c q seq
  | .sigBind mst cls c v => sigBindOp mst cls c v s
  | .sigUnbind mst => sigUnbindOp mst s
  | .sigPost mst pop v => sigPostOp mst pop v s
  | .clrsat mst => clrsatOp mst s
  | .sigAdd mst n v => sigAddOp mst n v s
  | .mbxDbset mst ch v => mbxDbsetWr mst ch v s
  | .mbxMask mst ch v => mbxMaskWr mst ch v s
  | .registerWrite mst _ _ v => tblResume mst v s
  | .ringChunkRx slot f => ringChunkOp slot f s
  | .ringCreditRx slot f => ringCreditOp slot f s
  | .ringCancel port tag => ringCancelOp port tag s
  | .openFrame axis f => openOp axis f s
  | .grantFrame axis f => grantOp axis f s
  | .rejectFrame axis f => rejectOp axis f s
  | .dataFrame axis f => dataOp axis f s
  | .yardCancel port tag => yardCancelOp port tag s
  | _ => s

/-- RESUME: the freeze is released, what it held back takes effect in order, and the context whose watchdog started the
dump is reset. -/
def resumeOp (s : State) : State :=
  let d := s.trc.dump
  if !d.busy ∨ !d.done then s
  else
    let s1 := s.setTrc { s.trc with dump := { d with busy := false, held := [], wdogCtx := none } }
    let s2 := d.held.foldl (fun (s : State) i => s.runHeld i) s1
    let s3 := match d.wdogCtx with
      | some c => s2.beginReset c true
      | none => s2
    s3.pumpCmds

/-- A write of TRC_DUMP by the management core or the debug port. -/
def trcDumpWrite (mst : Master) (v : Dword) (s : State) : State :=
  let x := v.toNat
  if !Master.observes mst then s.logReg mst 0x600040
  else
    let s1 := s.setTrc { s.trc with dump := { s.trc.dump with autoWdog := bitAt x 2, autoBook := bitAt x 3, withPlat := bitAt x 4
                                                              withDepot := bitAt x 5, addr := field x 38 15 } }
    let s2 := if bitAt x 0 then s1.startDump 0 none else s1
    if bitAt x 1 then resumeOp s2 else s2

/-- TRC_DUMP as read; a host reads zero. -/
def DumpSt.reg (d : DumpSt) : Nat :=
  flagAt d.autoWdog 2 + flagAt d.autoBook 3 + flagAt d.withPlat 4 + flagAt d.withDepot 5 + flagAt d.busy 6 + flagAt d.done 7
    + putAt d.addr 15

/-- DUMP_DONE. -/
def dumpDoneOp (s : State) : State := if s.trc.dump.busy ∧ !s.trc.dump.done then s.dumpWritten else s

/-! ## Books (R339) -/

/-- The number of a book, in the order of the table of R339. -/
def bookNumber : Book → Nat
  | .linkCredits => 1
  | .ringCredits => 2
  | .admission => 3
  | .wagonTags => 4
  | .tokens => 5
  | .kvCounts => 6
  | .leases => 7

/-- A book fault is logged with the book's number and counted; AUTO_BOOK starts a dump. -/
def bookOp (b : Book) (s : State) : State :=
  let s1 := (s.bump (cntDev 18) 1).logErr { status := stOk, unit := uBook, addr := bookNumber b, detail := bookNumber b }
  if s1.trc.dump.autoBook then s1.startDump 2 none else s1

/-! ## Rows -/

/-- ARM: a write of TRC_CTRL with ARM set. -/
def execArm (mst : Master) (v : Word) (s : State) : Host.Outcome State Fault Refusal :=
  regRow (.arm mst v) mst s (trcCtrlWrite mst (v ||| 0x100))
/-- MARK. -/
def execMark (mst : Master) (v : Dword) (s : State) : Host.Outcome State Fault Refusal := regRow (.mark mst v) mst s (markOp mst v)
/-- SAMPLE. -/
def execSample (s : State) : Host.Outcome State Fault Refusal := .next (sampleOp s)
/-- GO: a write of TRC_DUMP with GO set. -/
def execGo (mst : Master) (v : Dword) (s : State) : Host.Outcome State Fault Refusal := regRow (.go mst v) mst s (trcDumpWrite mst (v ||| 1))
/-- DUMP_DONE. -/
def execDumpDone (s : State) : Host.Outcome State Fault Refusal := .next (dumpDoneOp s)
/-- RESUME: a write of TRC_DUMP with RESUME set. -/
def execResume (mst : Master) (v : Dword) (s : State) : Host.Outcome State Fault Refusal := regRow (.resume mst v) mst s (trcDumpWrite mst (v ||| 2))
/-- BOOK_TIMEOUT. -/
def execBookTimeout (book : Book) (s : State) : Host.Outcome State Fault Refusal := .next (bookOp book s)
/-- TRACE_RECORD_SENT. -/
def execTraceRecordSent (s : State) : Host.Outcome State Fault Refusal := .next (recordSentOp s)

end Sys2Proof.Machine
end

