-- ==== Sys2Proof/Machine/PciCfg.lean ====
section
/-!
DEFINITION. The configuration space of a host function and its BAR2 and BAR4 (15_cxl_and_mailboxes.md R400–R402, R404, R411).
An access names one of them by its offset: 2³² × region + the offset inside it, region 1 the configuration space, 2 BAR2 and
4 BAR4 (log 89). The spec gives the identity fields, the capability list, the DVSECs, what Range 1 and Range 2 report, and
what each BAR holds; where a register of a standard capability lies is PRESUMED from PCI Express and CXL 2.0 (log 89).
-/
namespace Sys2Proof.Machine

/-- The region and the offset inside it that an access names. -/
def pciRegion (off : Nat) : Nat := off / 2 ^ 32
def pciOff (off : Nat) : Nat := off % 2 ^ 32

/-- An offset that names the configuration space, BAR2 or BAR4. -/
def inPci (off : Nat) : Bool :=
  (pciRegion off == 1 && decide (pciOff off < 0x1000)) || ((pciRegion off == 2 || pciRegion off == 4) && decide (pciOff off < 0x10000))

/-! ## The configuration space (R401, R404) -/

/-- The header of an extended capability: identifier, version, the offset of the next. -/
def extHead (id ver next : Nat) : Nat := id + putAt ver 16 + putAt next 20

/-- The first header of a DVSEC (R401): DVSEC Vendor ID 0x1E98, revision, length. -/
def dvsecHead (rev len : Nat) : Nat := 0x1E98 + putAt rev 16 + putAt len 20

/-- Range 1 of a host function in bytes (R404): its HBM partition, once CFG_DONE = 1. -/
def State.range1 (s : State) (k : Nat) : Nat :=
  if s.cfg.cfgDone then ((s.hostCfg k).h0Size + (s.hostCfg k).h1Size) * 2 ^ 30 else 0

/-- Bits of a word of the configuration space that a write sets; the others are read-only. -/
def cfgMask (o : Nat) : Nat :=
  match o with
  | 0x04 => 0x0000_0006
  | 0x10 => 0xFC00_0000
  | 0x18 | 0x20 => 0xFFFF_0000
  | 0x14 | 0x1C | 0x24 => 0xFFFF_FFFF
  | 0x48 => 0x0000_000F
  | 0x80 => 0xC000_0000
  | 0x108 | 0x10C | 0x114 => 0xFFFF_FFFF
  | _ => 0

/-- The read-only bits of a word of the configuration space of host function k. -/
def State.cfgFixed (s : State) (k o : Nat) : Nat :=
  let h := s.hostFn k
  match o with
  -- Device ID, Vendor ID; Capabilities List; class code, Revision ID; three 64-bit memory BARs; the first capability
  | 0x00 => 0x5816_1F6B
  | 0x04 => 0x0010_0000
  | 0x08 => 0x1200_0000 + s.stepping.toNat
  | 0x10 | 0x18 | 0x20 => 4
  | 0x34 => 0x40
  -- PCI Express capability: FLR, the link, Device Capabilities 2 with LTR Mechanism Supported = 0
  | 0x40 => 0x0002_8010
  | 0x44 => 0x1000_8000
  | 0x4C => 5 + putAt (splitLanes (s.boot.straps % 4) k) 4
  | 0x50 => putAt h.speed 16 + putAt (widthLanes h.width) 20
  | 0x64 => 0
  -- MSI-X: 2,048 vectors, the table at BAR4 offset 0, the pending-bit array at BAR4 offset 0x8000
  | 0x80 => 0x07FF_0011
  | 0x84 => 4
  | 0x88 => 0x8004
  -- AER, DOE
  | 0x100 => extHead 0x0001 2 0x150
  | 0x150 => extHead 0x002E 1 0x170
  -- CXL Device DVSEC: CXL.cache, CXL.io, CXL.mem, one HDM; Range 1 and Range 2
  | 0x170 => extHead 0x0023 1 0x1B0
  | 0x174 => dvsecHead 1 0x38
  | 0x178 => 0 + putAt 0b01_0111 16
  | 0x188 => s.range1 k / 2 ^ 32
  | 0x18C => flagAt s.cfg.cfgDone 0 + flagAt h.memActive 1 + putAt 1 13 + s.range1 k % 2 ^ 32 / 2 ^ 28 * 2 ^ 28
  | 0x198 | 0x19C => 0
  -- Flex Bus Port DVSEC: what is supported, what is enabled
  | 0x1B0 => extHead 0x0023 1 0x1D0
  | 0x1B4 => dvsecHead 1 0x14
  | 0x1B8 => 7 + putAt 0b111 16
  | 0x1BC => putAt (flagAt h.cxl 0 + 2 + flagAt h.cxl 2) 16
  -- Register Locator DVSEC: BAR2 offset 0 holds the Component Registers
  | 0x1D0 => extHead 0x0023 1 0
  | 0x1D4 => dvsecHead 0 0x14
  | 0x1D8 => 8
  | 0x1DC => 2 + putAt 1 8
  | _ => 0

def State.cfgRead (s : State) (k o : Nat) : Nat :=
  s.cfgFixed k o ||| ((Tab.get 0 (s.hostFn k).pci o).toNat &&& cfgMask o)

/-- Pending vectors that have been unmasked are sent (R411, PCI Express). -/
def State.msixFlush (s : State) (k : Nat) : State :=
  s.modHost k (fun h => { h with stream := h.stream ++ (h.msixPend.filter h.vectorOpen).map HostMsg.msix
                                 msixPend := h.msixPend.filter (fun v => !h.vectorOpen v) })

/-- A write of the configuration space: Initiate FLR in Device Control resets the function (R413). -/
def cfgSpaceWrite (k o : Nat) (v : Word) (s : State) : State :=
  let s1 := s.modHost k (fun h => { h with pci := Tab.set 0 h.pci o (v &&& BitVec.ofNat 32 (cfgMask o)) })
  if o = 0x48 ∧ v.getLsbD 15 then flrOp k s1 else s1.msixFlush k

/-! ## BAR2: component registers (R402, R405) -/

/-- The key of the decoder's control word in `HostFn.pci`. -/
def hdmCtlKey : Nat := 0x11030

/-- The bits of the decoder's control that are written: interleave granularity and ways, lock, commit, target type. -/
def hdmCtlMask : Word := 0x13FF

def HostFn.compRead (h : HostFn) (o : Nat) : Nat :=
  match o with
  | 0x1000 => 0x0111_0001
  | 0x1004 => 0x0101_0005
  | 0x1014 => (Tab.get 0 h.pci 0x11014).toNat
  | 0x1020 => h.decBase % 2 ^ 32
  | 0x1024 => h.decBase / 2 ^ 32
  | 0x1028 => h.decSize % 2 ^ 32
  | 0x102C => h.decSize / 2 ^ 32
  | 0x1030 => (Tab.get 0 h.pci hdmCtlKey).toNat + flagAt h.committed 10 + flagAt h.decErr 11
  | _ => 0

/-- A write of a component register. A committed decoder keeps its base and size. The write that sets Commit commits the decoder
as HDM_DECODER_COMMIT does (R404); one that clears it takes the decoder away. -/
def compWrite (k o : Nat) (v : Word) (s : State) : State :=
  let open_ (f : HostFn → HostFn) : State := s.modHost k (fun h => if h.committed then h else f h)
  let hi : Nat := v.toNat / 2 ^ 28 * 2 ^ 28
  match o with
  | 0x1014 => s.modHost k (fun h => { h with pci := Tab.set 0 h.pci 0x11014 (v &&& 2) })
  | 0x1020 => open_ (fun h => { h with decBase := h.decBase / 2 ^ 32 * 2 ^ 32 + hi })
  | 0x1024 => open_ (fun h => { h with decBase := v.toNat * 2 ^ 32 + h.decBase % 2 ^ 32 })
  | 0x1028 => open_ (fun h => { h with decSize := h.decSize / 2 ^ 32 * 2 ^ 32 + hi })
  | 0x102C => open_ (fun h => { h with decSize := v.toNat * 2 ^ 32 + h.decSize % 2 ^ 32 })
  | 0x1030 =>
    let s1 := s.modHost k (fun h => { h with pci := Tab.set 0 h.pci hdmCtlKey (v &&& hdmCtlMask) })
    if v.getLsbD 9 then decoderOp k (s.hostFn k).decBase (s.hostFn k).decSize (2 ^ field v.toNat 7 4) s1
    else s1.modHost k (fun h => { h with committed := false, decErr := false })
  | _ => s

/-! ## BAR4: the MSI-X table and the pending-bit array (R402, R411) -/

def HostFn.msixEnt (h : HostFn) (v : Nat) : MsixEnt := Tab.get MsixEnt.reset h.msixTab v

def HostFn.msixRead (h : HostFn) (o : Nat) : Nat :=
  if o < 0x8000 then
    let e := h.msixEnt (o / 16)
    match o / 4 % 4 with
    | 0 => e.addr.toNat % 2 ^ 32
    | 1 => e.addr.toNat / 2 ^ 32
    | 2 => e.data.toNat
    | _ => b2n e.mask
  else if o < 0x8100 then
    (List.range 32).foldl (fun a i => a + flagAt (h.msixPend.contains ((o - 0x8000) * 8 + i)) i) 0
  else 0

/-- A table entry with one of its four words written. -/
def MsixEnt.put (e : MsixEnt) (w : Nat) (v : Word) : MsixEnt :=
  match w with
  | 0 => { e with addr := e.addr.extractLsb' 32 32 ++ (v &&& 0xFFFFFFFC) }
  | 1 => { e with addr := v ++ e.addr.extractLsb' 0 32 }
  | 2 => { e with data := v }
  | _ => { e with mask := v.getLsbD 0 }

/-- A write of the table; the pending-bit array is read-only. -/
def msixWrite (k o : Nat) (v : Word) (s : State) : State :=
  if o < 0x8000 then
    (s.modHost k (fun h =>
      { h with msixTab := Tab.set MsixEnt.reset h.msixTab (o / 16) ((h.msixEnt (o / 16)).put (o / 4 % 4) v) })).msixFlush k
  else s

/-! ## Accesses -/

/-- Whether host function k reaches a region: over its link; BAR2 exists in CXL mode alone (R399). -/
def State.pciOpen (s : State) (k off : Nat) : Bool :=
  inPci off && (s.hostFn k).linkUp && (pciRegion off != 2 || (s.hostFn k).cxl)

def State.pciRead (s : State) (k off : Nat) : Nat :=
  if !s.pciOpen k off then 0
  else
    match pciRegion off with
    | 1 => s.cfgRead k (pciOff off)
    | 2 => (s.hostFn k).compRead (pciOff off)
    | _ => (s.hostFn k).msixRead (pciOff off)

def pciWrite (k off : Nat) (v : Word) (s : State) : State :=
  if !s.pciOpen k off then s
  else
    match pciRegion off with
    | 1 => cfgSpaceWrite k (pciOff off) v s
    | 2 => compWrite k (pciOff off) v s
    | _ => msixWrite k (pciOff off) v s

/-- A read of a width by host function k: a 64-bit one takes two words in BAR2 and BAR4. A misaligned one reads zero (log 89). -/
def State.pciLoad (s : State) (k off : Nat) (width : Width) : Nat :=
  match width with
  | .w32 => if off % 4 = 0 then s.pciRead k off else 0
  | .w64 => if off % 8 = 0 ∧ pciRegion off ≠ 1 then s.pciRead k off + 2 ^ 32 * s.pciRead k (off + 4) else 0

/-- A write of a width by host function k. -/
def pciStore (k off : Nat) (width : Width) (v : Dword) (s : State) : State :=
  match width with
  | .w32 => if off % 4 = 0 then pciWrite k off (v.setWidth 32) s else s
  | .w64 => if off % 8 = 0 ∧ pciRegion off ≠ 1 then pciWrite k (off + 4) (v.extractLsb' 32 32) (pciWrite k off (v.setWidth 32) s) else s

end Sys2Proof.Machine
end

