-- ==== Sys2Proof/Machine/RegMap.lean ====
section
/-!
DEFINITION. The register map of the 64 MiB window (00_scope.md R6–R9 and the register tables of every chapter): the
registers, the offset and width of each, and the register at an offset.
-/
namespace Sys2Proof.Machine

/-- The registers of a context's window (R290). -/
inductive CtxReg where
  | state | ctrl | seed | step | save | share | abort | abortStat
  | sqBase (q : Nat) | sqTail (q : Nat) | sqHead (q : Nat)
  | cqBase | cqHead | cqTail | irq | prof
  deriving DecidableEq, Repr

/-- The registers of a mailbox channel (R417). -/
inductive ChanReg where
  | lock | db | dbset | dbclr | mask | msg (w : Nat)
  deriving DecidableEq, Repr

/-- The registers. -/
inductive Reg where
  | gctlId | gctlProfile | gctlInventory | gctlCoreEn (r : Nat) | gctlCtxPart | gctlHport
  | ctx (c : Nat) (r : CtxReg)
  | chan (n : Nat) (r : ChanReg) | mbxBind (n : Nat) | mbxPend
  | sigPart | sigSel | sigOp | sigStat | sigInfo | sigValue | sigLast | sigLastT | sigWidx | sigWent0 | sigWent1
  | sigVal (n : Nat) | sigAdd (n : Nat)
  | pwrStat | pwrCtrl | pwrTemp | pwrSupply | pwrTmo | pwrLtr
  /-- the counter at 8 × i in the CNT_ block -/
  | cnt (i : Nat)
  | trcCtrl | trcFilt | trcTrig | trcMark | trcStat | trcDump
  | fabNode | fabLinkCfg | fabYardCfg | fabExpA (n : Nat) | fabExpB (n : Nat)
  | ttNow | ttCfg | ttStat | ttNext | ttCtrl
  | yjobSel | yjobInfo | leaseSel | leaseInfo | leaseAddr
  | portStat (k : Nat) | portCtrl (k : Nat) | portErr (k : Nat) | ttPort (k : Nat) | ttDep (k n : Nat)
  | xltCtx | xltRoot | xltInval | xltStat | memPart | memTstore | memDepot | hbmScrub | hbmPcmap (st : Nat) | wagonCap
  | tblOp | tblArg (i : Nat) | tblStat | tblInfo
  | errStat | errSel | errEnt (i : Nat)
  | bootStat | secVer | bootPolicy | secCtr
  deriving DecidableEq, Repr

/-! ## Offsets and widths -/

/-- The offset in a context's window. -/
def CtxReg.off (r : CtxReg) : Nat :=
  match r with
  | .state => 0x00
  | .ctrl => 0x08
  | .seed => 0x10
  | .step => 0x18
  | .save => 0x20
  | .share => 0x28
  | .abort => 0x30
  | .abortStat => 0x38
  | .sqBase q => 0x40 + 0x10 * q
  | .sqTail q => 0x48 + 0x10 * q
  | .sqHead q => 0x4C + 0x10 * q
  | .cqBase => 0x80
  | .cqHead => 0x88
  | .cqTail => 0x8C
  | .irq => 0x90
  | .prof => 0x98

/-- A register of 64 bits. -/
def CtxReg.wide (r : CtxReg) : Bool :=
  match r with
  | .state | .seed | .step | .save | .share | .abort | .sqBase _ | .cqBase => true
  | _ => false

def ChanReg.off (r : ChanReg) : Nat :=
  match r with
  | .lock => 0x00
  | .db => 0x08
  | .dbset => 0x0C
  | .dbclr => 0x10
  | .mask => 0x14
  | .msg w => 0x100 + 4 * w

/-- The offset of a register in the window. -/
def Reg.off (r : Reg) : Nat :=
  match r with
  | .gctlId => 0x000000
  | .gctlProfile => 0x000004
  | .gctlInventory => 0x000010
  | .gctlCoreEn r => 0x000040 + 8 * r
  | .gctlCtxPart => 0x000080
  | .gctlHport => 0x000090
  | .ctx c r => 0x100000 + 0x100 * c + r.off
  | .chan n r => 0x200000 + 0x200 * n + r.off
  | .mbxBind n => 0x208000 + 4 * n
  | .mbxPend => 0x208100
  | .sigPart => 0x300000
  | .sigSel => 0x300008
  | .sigOp => 0x300010
  | .sigStat => 0x300018
  | .sigInfo => 0x300020
  | .sigValue => 0x300028
  | .sigLast => 0x300030
  | .sigLastT => 0x300038
  | .sigWidx => 0x300040
  | .sigWent0 => 0x300048
  | .sigWent1 => 0x300050
  | .sigVal n => 0x380000 + 4 * n
  | .sigAdd n => 0x3C0000 + 4 * n
  | .pwrStat => 0x400000
  | .pwrCtrl => 0x400008
  | .pwrTemp => 0x400010
  | .pwrSupply => 0x400018
  | .pwrTmo => 0x400020
  | .pwrLtr => 0x400100
  | .cnt i => 0x500000 + 8 * i
  | .trcCtrl => 0x600000
  | .trcFilt => 0x600008
  | .trcTrig => 0x600010
  | .trcMark => 0x600018
  | .trcStat => 0x600020
  | .trcDump => 0x600040
  | .fabNode => 0x700000
  | .fabLinkCfg => 0x700008
  | .fabYardCfg => 0x700010
  | .fabExpA n => 0x700400 + 0x10 * n
  | .fabExpB n => 0x700408 + 0x10 * n
  | .ttNow => 0x700800
  | .ttCfg => 0x700808
  | .ttStat => 0x700810
  | .ttNext => 0x700818
  | .ttCtrl => 0x700820
  | .yjobSel => 0x700900
  | .yjobInfo => 0x700908
  | .leaseSel => 0x700910
  | .leaseInfo => 0x700918
  | .leaseAddr => 0x700920
  | .portStat k => 0x701000 + 0x100 * k
  | .portCtrl k => 0x701008 + 0x100 * k
  | .portErr k => 0x701010 + 0x100 * k
  | .ttPort k => 0x701020 + 0x100 * k
  | .ttDep k n => 0x702000 + 0x2000 * k + 8 * n
  | .xltCtx => 0x800000
  | .xltRoot => 0x800008
  | .xltInval => 0x800010
  | .xltStat => 0x800018
  | .memPart => 0x800020
  | .memTstore => 0x800028
  | .memDepot => 0x800040
  | .hbmScrub => 0x800048
  | .hbmPcmap st => 0x800100 + 8 * st
  | .wagonCap => 0x800200
  | .tblOp => 0x804000
  | .tblArg i => 0x804008 + 8 * i
  | .tblStat => 0x804028
  | .tblInfo => 0x804030
  | .errStat => 0x900000
  | .errSel => 0x900008
  | .errEnt i => 0x900010 + 8 * i
  | .bootStat => 0xA00000
  | .secVer => 0xA00008
  | .bootPolicy => 0xA00010
  | .secCtr => 0xA00018

/-- A register of 64 bits; every other register has 32. -/
def Reg.wide (r : Reg) : Bool :=
  match r with
  | .gctlInventory | .gctlCoreEn _ | .gctlHport => true
  | .ctx _ r => r.wide
  | .mbxPend => true
  | .sigPart | .sigOp | .sigInfo | .sigLast | .sigLastT | .sigWent0 | .sigWent1 => true
  | .pwrStat | .pwrTemp | .pwrSupply => true
  | .cnt _ => true
  | .trcFilt | .trcTrig | .trcMark | .trcStat | .trcDump => true
  | .fabNode | .fabExpA _ | .fabExpB _ | .ttNow | .ttStat | .ttNext | .yjobInfo | .leaseInfo | .leaseAddr => true
  | .portStat _ | .portErr _ | .ttPort _ | .ttDep _ _ => true
  | .xltCtx | .xltRoot | .xltInval | .memPart | .memTstore | .memDepot | .hbmPcmap _ => true
  | .tblOp | .tblArg _ | .tblStat | .tblInfo => true
  | .errStat | .errEnt _ => true
  | .bootStat | .secVer | .secCtr => true
  | _ => false

/-! ## The register at an offset -/

/-- The register at an offset of a context's window. -/
def ctxRegAt (o : Nat) : Option CtxReg :=
  if 0x40 ≤ o ∧ o < 0x80 then
    let q := (o - 0x40) / 0x10
    match o % 0x10 with
    | 0x0 => some (.sqBase q)
    | 0x8 => some (.sqTail q)
    | 0xC => some (.sqHead q)
    | _ => none
  else
    match o with
    | 0x00 => some .state
    | 0x08 => some .ctrl
    | 0x10 => some .seed
    | 0x18 => some .step
    | 0x20 => some .save
    | 0x28 => some .share
    | 0x30 => some .abort
    | 0x38 => some .abortStat
    | 0x80 => some .cqBase
    | 0x88 => some .cqHead
    | 0x8C => some .cqTail
    | 0x90 => some .irq
    | 0x98 => some .prof
    | _ => none

/-- The register at an offset of a channel. -/
def chanRegAt (o : Nat) : Option ChanReg :=
  if 0x100 ≤ o then (if o % 4 = 0 then some (.msg ((o - 0x100) / 4)) else none)
  else
    match o with
    | 0x00 => some .lock
    | 0x08 => some .db
    | 0x0C => some .dbset
    | 0x10 => some .dbclr
    | 0x14 => some .mask
    | _ => none

/-- Block 0: global identity and control. -/
def gctlAt (o : Nat) : Option Reg :=
  if 0x40 ≤ o ∧ o < 0x70 then (if o % 8 = 0 then some (.gctlCoreEn ((o - 0x40) / 8)) else none)
  else
    match o with
    | 0x00 => some .gctlId
    | 0x04 => some .gctlProfile
    | 0x10 => some .gctlInventory
    | 0x80 => some .gctlCtxPart
    | 0x90 => some .gctlHport
    | _ => none

/-- Block 2: mailboxes. -/
def mbxAt (o : Nat) : Option Reg :=
  if o < 0x8000 then (chanRegAt (o % 0x200)).map (fun r => Reg.chan (o / 0x200) r)
  else if o < 0x8100 then (if o % 4 = 0 then some (.mbxBind ((o - 0x8000) / 4)) else none)
  else if o = 0x8100 then some .mbxPend
  else none

/-- Block 3: signals. -/
def sigAt (o : Nat) : Option Reg :=
  if 0xC0000 ≤ o then (if o % 4 = 0 then some (.sigAdd ((o - 0xC0000) / 4)) else none)
  else if 0x80000 ≤ o then (if o % 4 = 0 then some (.sigVal ((o - 0x80000) / 4)) else none)
  else
    match o with
    | 0x00 => some .sigPart
    | 0x08 => some .sigSel
    | 0x10 => some .sigOp
    | 0x18 => some .sigStat
    | 0x20 => some .sigInfo
    | 0x28 => some .sigValue
    | 0x30 => some .sigLast
    | 0x38 => some .sigLastT
    | 0x40 => some .sigWidx
    | 0x48 => some .sigWent0
    | 0x50 => some .sigWent1
    | _ => none

/-- Block 4: power and clocks. -/
def pwrAt (o : Nat) : Option Reg :=
  match o with
  | 0x00 => some .pwrStat
  | 0x08 => some .pwrCtrl
  | 0x10 => some .pwrTemp
  | 0x18 => some .pwrSupply
  | 0x20 => some .pwrTmo
  | 0x100 => some .pwrLtr
  | _ => none

/-- Block 5: counters (R469). The arrays of cores, stacks, the Yard, the shunting engine, ports and device totals stand
below 0x13300, those of contexts from 0x20000 to 0x60000; an unlisted index of an array is a register that reads zero, a write of it like one of
any other counter has no effect and is not logged (DESIGN CHOICE, log 122). -/
def cntAt (o : Nat) : Option Reg :=
  if (o < 0x13300 ∨ (0x20000 ≤ o ∧ o < 0x60000)) ∧ o % 8 = 0 then some (.cnt (o / 8)) else none

/-- Block 6: trace. -/
def trcAt (o : Nat) : Option Reg :=
  match o with
  | 0x00 => some .trcCtrl
  | 0x08 => some .trcFilt
  | 0x10 => some .trcTrig
  | 0x18 => some .trcMark
  | 0x20 => some .trcStat
  | 0x40 => some .trcDump
  | _ => none

/-- Block 7: fabric and Timetable. -/
def fabAt (o : Nat) : Option Reg :=
  if 0x2000 ≤ o ∧ o < 0x12000 then
    (if o % 8 = 0 then some (.ttDep ((o - 0x2000) / 0x2000) ((o - 0x2000) % 0x2000 / 8)) else none)
  else if 0x1000 ≤ o ∧ o < 0x1800 then
    let k := (o - 0x1000) / 0x100
    match o % 0x100 with
    | 0x00 => some (.portStat k)
    | 0x08 => some (.portCtrl k)
    | 0x10 => some (.portErr k)
    | 0x20 => some (.ttPort k)
    | _ => none
  else if 0x400 ≤ o ∧ o < 0x500 then
    let n := (o - 0x400) / 0x10
    match o % 0x10 with
    | 0x0 => some (.fabExpA n)
    | 0x8 => some (.fabExpB n)
    | _ => none
  else
    match o with
    | 0x000 => some .fabNode
    | 0x008 => some .fabLinkCfg
    | 0x010 => some .fabYardCfg
    | 0x800 => some .ttNow
    | 0x808 => some .ttCfg
    | 0x810 => some .ttStat
    | 0x818 => some .ttNext
    | 0x820 => some .ttCtrl
    | 0x900 => some .yjobSel
    | 0x908 => some .yjobInfo
    | 0x910 => some .leaseSel
    | 0x918 => some .leaseInfo
    | 0x920 => some .leaseAddr
    | _ => none

/-- Block 8: memory tiers, HBM and the table unit. -/
def memAt (o : Nat) : Option Reg :=
  if 0x100 ≤ o ∧ o < 0x140 then (if o % 8 = 0 then some (.hbmPcmap ((o - 0x100) / 8)) else none)
  else if 0x4008 ≤ o ∧ o < 0x4028 then (if o % 8 = 0 then some (.tblArg ((o - 0x4008) / 8)) else none)
  else
    match o with
    | 0x000 => some .xltCtx
    | 0x008 => some .xltRoot
    | 0x010 => some .xltInval
    | 0x018 => some .xltStat
    | 0x020 => some .memPart
    | 0x028 => some .memTstore
    | 0x040 => some .memDepot
    | 0x048 => some .hbmScrub
    | 0x200 => some .wagonCap
    | 0x4000 => some .tblOp
    | 0x4028 => some .tblStat
    | 0x4030 => some .tblInfo
    | _ => none

/-- Block 9: error log. -/
def errAt (o : Nat) : Option Reg :=
  if 0x10 ≤ o ∧ o < 0x30 then (if o % 8 = 0 then some (.errEnt ((o - 0x10) / 8)) else none)
  else
    match o with
    | 0x00 => some .errStat
    | 0x08 => some .errSel
    | _ => none

/-- Block 10: boot and security. -/
def bootAt (o : Nat) : Option Reg :=
  match o with
  | 0x00 => some .bootStat
  | 0x08 => some .secVer
  | 0x10 => some .bootPolicy
  | 0x18 => some .secCtr
  | _ => none

/-- The register that begins at an offset of the window (R6, R9). -/
def regAt (off : Nat) : Option Reg :=
  let o := off % 0x100000
  match off / 0x100000 with
  | 0x0 => gctlAt o
  | 0x1 => (ctxRegAt (o % 0x100)).map (fun r => Reg.ctx (o / 0x100) r)
  | 0x2 => mbxAt o
  | 0x3 => sigAt o
  | 0x4 => pwrAt o
  | 0x5 => cntAt o
  | 0x6 => trcAt o
  | 0x7 => fabAt o
  | 0x8 => memAt o
  | 0x9 => errAt o
  | 0xA => bootAt o
  | _ => none

/-- What an access of a width at an offset reaches (R7, R8, R9): a whole register, the low or the high half of a 64-bit
register, nothing, or what R7 forbids. -/
inductive Spot where
  | whole (r : Reg)
  | low (r : Reg)
  | high (r : Reg)
  | unassigned
  | bad
  deriving DecidableEq, Repr

/-- A 32-bit access. -/
def spot32 (off : Nat) : Spot :=
  if off % 4 ≠ 0 then .bad
  else
    match regAt off with
    | some r => if r.wide then .low r else .whole r
    | none =>
      if off % 8 = 4 then
        match regAt (off - 4) with
        | some r => if r.wide then .high r else .unassigned
        | none => .unassigned
      else .unassigned

/-- A 64-bit access. One at a 32-bit register, or at an unassigned half beside one, is wider than the register and is treated as R7 treats a
misaligned access (DESIGN CHOICE, log 122). -/
def spot64 (off : Nat) : Spot :=
  if off % 8 ≠ 0 then .bad
  else
    match regAt off with
    | some r => if r.wide then .whole r else .bad
    | none => if (regAt (off + 4)).isSome then .bad else .unassigned

end Sys2Proof.Machine
end

