-- ==== Sys2Proof/Machine/Regs.lean ====
section
/-!
DEFINITION. Register accesses (00_scope.md R6–R9, R499): what each master reads in each register, what a write of each
register does, and the rows REGISTER_WRITE, LOW_HALF_READ, LOW_HALF_WRITE and HIGH_HALF_WRITE.
-/
namespace Sys2Proof.Machine

/-! ## Views of shared registers (R499) -/

/-- GCTL_ID. -/
def State.idReg (s : State) (mst : Master) : Nat :=
  putAt 0x5816 16 + putAt 0x1 12 + putAt s.stepping.toNat 8 + putAt (mst.host?.getD 0xF) 4

/-- GCTL_PROFILE. -/
def State.profileReg (s : State) : Nat := flagAt s.cfg.cfgDone 8 + s.cfg.profile.code

/-- GCTL_CTX_PART. -/
def State.ctxPartReg (s : State) (mst : Master) : Nat :=
  match mst.host? with
  | some k => (s.hostCfg k).ctxFirst + putAt (s.hostCfg k).ctxCount 12
  | none => putAt 4096 12

/-- SIG_PART. -/
def State.sigPartReg (s : State) (mst : Master) : Nat :=
  match mst.host? with
  | some k => (s.hostCfg k).sigFirst + putAt (s.hostCfg k).sigCount 16
  | none => putAt 65536 16

/-- MEM_PART. -/
def State.memPartReg (s : State) (mst : Master) : Nat :=
  match mst.host? with
  | some k =>
    let h := s.hostCfg k
    h.h0Base + putAt h.h0Size 9 + putAt h.h1Base 18 + putAt h.h1Size 27 + putAt h.dBase 36 + putAt h.dSize 43
  | none => putAt (s.pn 0) 9 + putAt (s.pn 1) 27 + putAt s.scratchEff 43

/-- USED_MIB of a host function. -/
def State.usedMib (s : State) (k : Nat) : Nat := ceilDiv (s.storeUsed k) (2 ^ 20)

/-- MEM_TSTORE. -/
def State.tstoreReg (s : State) (mst : Master) : Nat :=
  match mst.host? with
  | some k => (s.hostCfg k).tstoreMib + putAt (s.usedMib k) 16
  | none =>
    let sum (f : Nat → Nat) : Nat := (List.range 4).foldl (fun a k => a + f k) 0
    sum (fun k => (s.hostCfg k).tstoreMib) + putAt (sum s.usedMib) 16 + putAt s.cfg.resGib 32

/-- GCTL_HPORT. -/
def State.hportReg (s : State) (mst : Master) : Nat :=
  (List.range 4).foldl (fun a k =>
    let h := s.hostFn k
    if mst.host? = none ∨ mst.host? = some k then
      a + putAt (h.width + putAt h.speed 3 + flagAt h.cxl 6 + flagAt h.present 7) (8 * k + 8)
    else a) (s.boot.straps % 4)

/-! ## Contexts (chapter 11) -/

/-- SAVE_KIB: what a pre-emption would save now, in KiB (R319); a context that cannot be pre-empted saves nothing. -/
def State.saveKib (s : State) (c : Nat) : Nat :=
  let x := s.ctx c
  let parts := (s.yielders c).foldl (fun a k => a + ((s.cmd? k).map (fun c => partsBytes (s.partsOf c))).getD 0) 0
  match x.state with
  | .off => 0
  | .resetting => 0
  | .saved | .restoring =>
    let v := x.saved.getD ⟨[], [], []⟩
    ceilDiv (65536 + 1024 * v.cmds.length + v.parts.foldl (fun a p => a + p.2.2.length) 0) 1024
  | _ => ceilDiv (s.saveBase c + parts) 1024

/-- The base register of a ring. -/
def ringBase (log2n addr : Nat) : Nat := log2n + putAt addr 12

/-- A register of a context's window, as a master that may see the context reads it. -/
def State.ctxRegRead (s : State) (c : Nat) (r : CtxReg) : Nat :=
  let x := s.ctx c
  match r with
  | .state => x.state.code + flagAt x.fault 3 + flagAt (!x.cq.waiting.isEmpty) 4 + putAt (s.admitted c).length 16
      + putAt (s.saveKib c) 32
  | .ctrl => 0
  | .seed => x.seed.toNat
  | .step => x.step.toNat
  | .save => x.saveSize + putAt x.saveAddr 16
  | .share =>
    let q := Tab.get (0, 0) s.cfg.quota c
    x.weight + putAt x.admitMs 8 + putAt x.wdogS 24 + putAt q.1 32 + putAt q.2 48
  | .abort => 0
  | .abortStat => flagAt x.abortBusy 0 + putAt x.abortRes.toNat 8
  | .sqBase q => ringBase (x.sq q).log2n (x.sq q).addr
  | .sqTail q => (x.sq q).tail.toNat
  | .sqHead q => (x.sq q).head.toNat
  | .cqBase => ringBase x.cq.log2n x.cq.addr
  | .cqHead => x.cq.head.toNat
  | .cqTail => x.cq.tail.toNat
  | .irq => x.irqVec + flagAt x.irqEn 31
  | .prof => flagAt x.dlStrict 0 + flagAt x.detOrder 1 + flagAt x.noZspec 2 + flagAt x.noEarly 3 + putAt x.cmdLimit 16

/-- CTX_CTRL (R291). -/
def ctxCtrlWrite (mst : Master) (c op : Nat) (s : State) : State :=
  match op with
  | 1 => enableOp mst c s
  | 2 => heldByDump (.preempt mst c) (preemptOp mst c) s
  | 3 => heldByDump (.restore mst c) (restoreOp mst c) s
  | 4 => heldByDump (.reset mst c) (resetOp mst c) s
  | _ => s.badOp mst c

/-- A register value that breaks R224: a device virtual address of 2^52 or more. -/
def badVa (x : Nat) : Bool := decide (2 ^ 52 ≤ x)

/-- CTX_SAVE (R224, R319): only while the context is OFF or ON. -/
def saveWrite (mst : Master) (c x : Nat) (s : State) : State :=
  if ((s.ctx c).state = .off ∨ (s.ctx c).state = .on) ∧ !badVa x then
    s.modCtx c (fun u => { u with saveSize := field x 15 0, saveAddr := field x 51 16 })
  else s.logCtx mst c 0x20

def log2nOk (n : Nat) : Bool := n == 0 || (decide (6 ≤ n) && decide (n ≤ 16))

/-- A base register (R224, R294): only while the context is OFF; a LOG2N out of its range is left unchanged, and logged. -/
def baseWrite (mst : Master) (c r x old : Nat) (f : Nat → Nat → Ctx → Ctx) (s : State) : State :=
  let n := field x 4 0
  if (s.ctx c).state ≠ .off ∨ badVa x then s.logCtx mst c r
  else
    let s1 := s.modCtx c (f (if log2nOk n then n else old) (field x 51 12))
    if log2nOk n then s1 else s1.logCtx mst c r

/-- CTX_IRQ (R411): a write of VECTOR 0 or 1 has no effect. -/
def irqWrite (mst : Master) (c x : Nat) (s : State) : State :=
  let v := field x 10 0
  if v < 2 then s.logCtx mst c 0x90 else s.modCtx c (fun u => { u with irqVec := v, irqEn := bitAt x 31 })

/-- A write of a register of a context's window by a master that may write it. -/
def ctxRegWrite (mst : Master) (c : Nat) (r : CtxReg) (v : Dword) (s : State) : State :=
  let x := v.toNat
  let w : Word := BitVec.ofNat 32 x
  match r with
  | .state => s
  | .ctrl => ctxCtrlWrite mst c (field x 2 0) s
  | .seed => seedWrite mst c v s
  | .step => stepWrite mst c v s
  | .save => saveWrite mst c x s
  | .share => shareWrite mst c v s
  | .abort => abortHeld mst c (field x 1 0) (BitVec.ofNat 32 (field x 63 32)) s
  | .abortStat => s
  | .sqBase q => baseWrite mst c (0x40 + 0x10 * q) x ((s.ctx c).sq q).log2n
      (fun n a u => u.setSq q { u.sq q with log2n := n, addr := a }) s
  | .sqTail q => tailWrite mst c q w s
  | .sqHead _ => s
  | .cqBase => baseWrite mst c 0x80 x (s.ctx c).cq.log2n (fun n a u => { u with cq := { u.cq with log2n := n, addr := a } }) s
  | .cqHead => cqHeadWrite mst c w s
  | .cqTail => s
  | .irq => irqWrite mst c x s
  | .prof => profWrite mst c w s

/-! ## Mailboxes (chapter 15) -/

/-- A register of a channel as a master reads it, and the state after the read. A read of MBX_DBSET or MBX_DBCLR has no
stated value: it is a free value (log 47). -/
def State.chanRead (s : State) (mst : Master) (n : Nat) (r : ChanReg) : State × Nat :=
  let c := s.chan n
  match r with
  | .lock =>
    let p := mbxLockRd mst n s
    (p.1, p.2.toNat)
  | .db => (s, if s.maySeeChan mst n then c.db.toNat else 0)
  | .dbset => (s, if s.maySeeChan mst n then (Config.doorbellRead n c.db).toNat else 0)
  | .dbclr => (s, if s.maySeeChan mst n then (Config.doorbellRead n c.db).toNat else 0)
  | .mask => (s, if s.maySeeChan mst n then c.mask.toNat else 0)
  | .msg w => (s, if s.maySeeChan mst n then (c.word w).toNat else 0)

def chanWrite (mst : Master) (n : Nat) (r : ChanReg) (w : Word) (s : State) : State :=
  match r with
  | .lock => mbxLockWr mst n s
  | .db => mbxWrite mst n 0x08 (fun _ s => s) s
  | .dbset => mbxHeld n (.mbxDbset mst n w) (mbxDbsetWr mst n w) s
  | .dbclr => mbxDbclrWr mst n w s
  | .mask => mbxHeld n (.mbxMask mst n w) (mbxMaskWr mst n w) s
  | .msg i => mbxMsgWr mst n i w s

/-! ## Signals (chapter 12) -/

/-- The signal that a master has selected, where it may see it. -/
def State.selSig (s : State) (mst : Master) : Option Signal :=
  let n := (s.sigRegs mst).sel
  if s.maySig mst n then some (s.sigOf n) else none

def SigState.code : SigState → Nat
  | .free => 0
  | .live => 1
  | .abandoned => 2

/-- SIG_INFO. -/
def Signal.info (g : Signal) : Nat :=
  g.state.code + putAt g.cls 2 + flagAt g.sat 3 + flagAt g.ownerSaved 4 + putAt g.owner 16 + putAt g.refs 32
    + putAt ((g.waiters.map (·.slot)).eraseDups).length 48

/-- SIG_LAST. -/
def Signal.lastReg (g : Signal) : Nat :=
  let l := g.last
  l.master + putAt l.ctx 4 + putAt l.queue 16 + putAt l.pop 18 + putAt l.seq.toNat 32

/-- The waiter entry WIDX of the selected signal, with its command. -/
def State.selWaiter (s : State) (mst : Master) : Option (Waiter × Cmd) :=
  (s.selSig mst).bind (fun g => (g.waiters[(s.sigRegs mst).widx]?).bind (fun w => (s.cmd? w.slot).map (fun c => (w, c))))

/-- SIG_WENT0. -/
def went0 (w : Waiter) (c : Cmd) : Nat :=
  c.ctx + putAt c.queue 12 + putAt w.idx 14 + putAt w.wop 16 + 2 ^ 19 + putAt w.val.toNat 32

/-- SIG_WENT1. -/
def went1 (c : Cmd) : Nat :=
  match c.body with
  | some (idx, _, iter) => iter % 2 ^ 32 + putAt (idx % 65536) 32
  | none => c.seq.toNat + putAt 0xFFFF 32

/-- SIG_SEL (R333). -/
def sigSelWrite (mst : Master) (x : Nat) (s : State) : State :=
  let n := field x 15 0
  if s.maySig mst n then s.setSigRegs mst { s.sigRegs mst with sel := n } else s.logReg mst 0x300008

/-! ## Translation (chapter 09) -/

/-- MEM_XLT_CTX. -/
def xltCtxWrite (mst : Master) (x : Nat) (s : State) : State :=
  let c := field x 11 0
  if s.mayCtx mst c then { s with xlt := { s.xlt with sel := Tab.set 0 s.xlt.sel mst.code c } } else s.logReg mst 0x800000

/-- MEM_XLT_ROOT of the selected context. -/
def State.rootReg (s : State) (mst : Master) : Nat :=
  let c := s.xltSel mst
  let r := Tab.get (false, 0) s.xlt.root c
  if s.mayCtx mst c then flagAt r.1 0 + putAt r.2 15 else 0

def rootWrite (mst : Master) (x : Nat) (s : State) : State :=
  let c := s.xltSel mst
  if !s.mayCtx mst c ∨ s.admitted c ≠ [] then s.logReg mst 0x800008
  else { s with xlt := { s.xlt with root := Tab.set (false, 0) s.xlt.root c (bitAt x 0, field x 38 15) } }

/-! ## The fabric (chapters 13, 14) -/

/-- FAB_NODE. -/
def NodeCfg.reg (n : NodeCfg) : Nat :=
  n.node % 65536 + putAt n.cd 16 + putAt n.cp 21 + putAt n.ct 26 + putAt n.cs 31 + putAt n.ndM1 36 + putAt n.npM1 41
    + putAt n.ntM1 46 + putAt n.nsM1 51

/-- FAB_PSTAT of a port. -/
def Port.stat (p : Port) : Nat :=
  p.state.code + flagAt p.spareTx 3 + putAt p.txLane 4 + flagAt p.spareRx 8 + putAt p.rxLane 9 + putAt p.peerNode 16
    + putAt p.peerPort 32 + putAt p.reason 36 + putAt (min 255 p.retrains) 40

/-- FAB_PERR of a port. -/
def Port.errs (p : Port) : Nat := min 0xFFFFFFFF p.crcErr + putAt (min 0xFFFFFFFF p.replays) 32

/-- TT_STAT. -/
def TimeSt.stat (t : TimeSt) : Nat :=
  flagAt t.locked 0 + flagAt t.timeOk 1 + flagAt t.holdover 2 + putAt t.srcPort 3 + putAt (t.hops % 256) 7
    + putAt (unsign 32 t.offset) 32

/-- TT_NEXT: only the management core writes it. -/
def ttNextWrite (mst : Master) (v : Dword) (s : State) : State :=
  if mst ≠ .m then s.logReg mst 0x700818 else s.setTime { s.time with next := v }

/-- FAB_YJOB_INFO of the selected entry. -/
def State.yjobReg (s : State) (mst : Master) : Nat :=
  match Tab.get none s.yard.jobs (Tab.get 0 s.yard.jobSel mst.code) with
  | none => 0
  | some j =>
    if !s.mayCtx mst j.ctx then 0
    else
      let inflight := (s.cmdList.filter (fun e => decide (e.1 < 4096) && e.2.isYard && (ydPar e.2.pb).job == j.job)).length
      let pending := (s.yard.pend.filter (fun p => p.f.stream.toNat / 65536 == j.job)).length
      1 + putAt j.ctx 1 + flagAt j.drain 13 + putAt j.job 16 + putAt j.epoch.toNat 32 + putAt (inflight % 128) 48
        + putAt (pending % 512) 55

/-- The lease entry that a master has selected, where it may see it. -/
def State.selLease (s : State) (mst : Master) : Option Lease :=
  (Tab.get none s.yard.leases (Tab.get 0 s.yard.leaseSel mst.code)).bind
    (fun e => if s.mayCtx mst e.ctx then some e else none)

/-- FAB_LEASE_INFO of an entry. -/
def Lease.info (e : Lease) : Nat := 1 + putAt e.ctx 1 + flagAt e.upd 13 + putAt e.leases 16 + putAt e.gen.toNat 32

/-! ## The error log (R471, R472) -/

/-- The entry that a master has selected, where it may see it. -/
def State.selErr (s : State) (mst : Master) : Option ErrEnt :=
  let q := Tab.get 0 s.log.sel mst.code
  (s.log.entries.find? (fun e => e.seq == q)).bind (fun e =>
    match mst.host? with
    | some k => if e.host = k ∨ e.host = 0xF then some e else none
    | none => some e)

def State.errStatReg (s : State) : Nat :=
  s.log.next.toNat + putAt ((s.log.entries.head?.map (·.seq)).getD s.log.next).toNat 32

/-! ## Reading a register -/

/-- The table registers of a master. -/
def TblRegs.arg (r : TblRegs) (i : Nat) : Dword :=
  match i with
  | 0 => r.arg0
  | 1 => r.arg1
  | 2 => r.arg2
  | _ => r.arg3

def TblRegs.setArg (r : TblRegs) (i : Nat) (v : Dword) : TblRegs :=
  match i with
  | 0 => { r with arg0 := v }
  | 1 => { r with arg1 := v }
  | 2 => { r with arg2 := v }
  | _ => { r with arg3 := v }

/-- A counter as a master reads it: a host function reads the context counters of its own range only (R468). -/
def State.cntReg (s : State) (mst : Master) (i : Nat) : Nat :=
  let off := 0x500000 + 8 * i
  if 0x520000 ≤ off ∧ !s.mayCtx mst ((off - 0x520000) / 0x40) then 0 else (s.counter off).toNat

/-- The value of a register in the view of a master. -/
def State.regRead (s : State) (mst : Master) (r : Reg) : Nat :=
  match r with
  | .gctlId => s.idReg mst
  | .gctlProfile => s.profileReg
  | .gctlInventory => s.inventory
  | .gctlCoreEn i => s.coreEn i
  | .gctlCtxPart => s.ctxPartReg mst
  | .gctlHport => s.hportReg mst
  | .ctx c r => if s.mayCtx mst c then s.ctxRegRead c r else 0
  | .chan n r => (s.chanRead mst n r).2
  | .mbxBind n =>
    let b := s.mbxBind n
    b.sideA + putAt b.sideB 4 + flagAt b.en 8 + putAt b.sig 16
  | .mbxPend => s.mbxPendOf mst
  | .sigPart => s.sigPartReg mst
  | .sigSel => (s.sigRegs mst).sel
  | .sigOp => 0
  | .sigStat => flagAt (s.sigRegs mst).busy 0 + putAt (s.sigRegs mst).status.toNat 8
  | .sigInfo => ((s.selSig mst).map Signal.info).getD 0
  | .sigValue => ((s.selSig mst).map (fun g => g.value.toNat)).getD 0
  | .sigLast => ((s.selSig mst).map Signal.lastReg).getD 0
  | .sigLastT => ((s.selSig mst).map (fun g => g.last.time.toNat)).getD 0
  | .sigWidx => (s.sigRegs mst).widx
  | .sigWent0 => ((s.selWaiter mst).map (fun p => went0 p.1 p.2)).getD 0
  | .sigWent1 => ((s.selWaiter mst).map (fun p => went1 p.2)).getD 0
  | .sigVal n => if s.maySig mst n ∧ (s.sigOf n).state ≠ .free then (s.sigOf n).value.toNat else 0
  | .sigAdd _ => 0
  | .pwrStat => s.pwrStat
  | .pwrCtrl => s.pwr.idleEn + putAt s.pwr.cap 16
  | .pwrTemp => s.pwrTemp
  | .pwrSupply => s.pwrSupply
  | .pwrTmo => s.pwr.wagonUs + putAt s.pwr.stallMs 16
  | .pwrLtr =>
    match mst.host? with
    | some k =>
      let h := s.hostFn k
      h.ltrValue + putAt h.ltrScale 10 + flagAt h.ltrReq 15
    | none => 0
  | .cnt i => s.cntReg mst i
  | .trcCtrl => s.trc.ctrl
  | .trcFilt => s.trc.filt
  | .trcTrig => s.trc.trig
  | .trcMark => 0
  | .trcStat => s.trc.stat
  | .trcDump => if mst.host?.isSome then 0 else s.trc.dump.reg
  | .fabNode => s.cfg.node.reg
  | .fabLinkCfg => s.cfg.replayNs
  | .fabYardCfg => s.cfg.collMs
  | .fabExpA n =>
    let w := Tab.get ExpWin.zero s.cfg.exp n
    flagAt w.en 0 + flagAt w.rd 1 + flagAt w.wrt 2 + putAt w.nodeLo 16 + putAt w.nodeHi 32
  | .fabExpB n =>
    let w := Tab.get ExpWin.zero s.cfg.exp n
    w.baseGib + putAt w.sizeGib 9
  | .ttNow => s.time.now.toNat
  | .ttCfg => s.cfg.ttRole + putAt s.cfg.ttUp 1 + putAt s.cfg.ttAlt 5
  | .ttStat => s.time.stat
  | .ttNext => s.time.next.toNat
  | .ttCtrl => 0
  | .yjobSel => Tab.get 0 s.yard.jobSel mst.code
  | .yjobInfo => s.yjobReg mst
  | .leaseSel => Tab.get 0 s.yard.leaseSel mst.code
  | .leaseInfo => ((s.selLease mst).map Lease.info).getD 0
  | .leaseAddr => ((s.selLease mst).map (·.paddr)).getD 0
  | .portStat k => (s.port k).stat
  | .portCtrl _ => 0
  | .portErr k => (s.port k).errs
  | .ttPort k =>
    let t := Tab.get TtPort.zero s.cfg.ttPort k
    t.periodNs + putAt t.guardNs 32 + putAt t.nent 48
  | .ttDep k n =>
    let e := Tab.get DepEnt.zero s.cfg.dep (1024 * k + n)
    e.offset + putAt e.length 32 + putAt e.cls 56
  | .xltCtx => s.xltSel mst
  | .xltRoot => s.rootReg mst
  | .xltInval => 0
  | .xltStat => flagAt (s.xltInval mst).isSome 0
  | .memPart => s.memPartReg mst
  | .memTstore => s.tstoreReg mst
  | .memDepot => s.cfg.scratchUnits + putAt s.inv.banks 7 + putAt s.scratchEff 14 + putAt (s.inv.banks - s.scratchEff) 21
  | .hbmScrub => s.cfg.scrubHours
  | .hbmPcmap st => bitsOf ((s.inv.mapOut.filter (fun k => k / 64 == st)).map (· % 64))
  | .wagonCap => s.cfg.wagonCap
  | .tblOp => 0
  | .tblArg i => ((s.tblRegs mst).arg i).toNat
  | .tblStat =>
    let t := s.tblRegs mst
    flagAt t.busy 0 + putAt t.status.toNat 8 + putAt t.result.toNat 32
  | .tblInfo => (s.tblRegs mst).info.toNat
  | .errStat => s.errStatReg
  | .errSel => (Tab.get 0 s.log.sel mst.code).toNat
  | .errEnt i =>
    match s.selErr mst with
    | none => 0
    | some e =>
      match i with
      | 0 => e.ent0
      | 1 => e.time.toNat
      | 2 => e.addr
      | _ => e.ent3
  | .bootStat => s.bootStat
  | .secVer => s.boot.svn.toNat + putAt s.boot.slotSeq.toNat 32
  | .bootPolicy => s.cfg.updHosts.toNat + putAt s.cfg.portUse.toNat 4 + putAt s.cfg.profile.code 12
  | .secCtr => s.boot.counter.toNat + flagAt s.boot.ctrPresent 32

/-- What a read does besides answering: a read of MBX_LOCK may take the lock (R418); no other register has a side
effect. -/
def State.afterRead (s : State) (mst : Master) (r : Reg) : State :=
  match r with
  | .chan n .lock => (s.chanRead mst n .lock).1
  | _ => s

/-! ## Writing a register -/

/-- The bits of a value that lie in the fields of a list. -/
def keepFields (v : Nat) (fs : List (Nat × Nat)) : Nat := fs.foldl (fun a f => a + putAt (field v f.1 f.2) f.2) 0

/-- A write of a register whose fields are RWL in the management view and set from the image: read-only in a host view;
once the configuration load has completed, a write that would change a locked field is logged (00_scope.md, access
codes). Before that, a write with a field out of its range leaves the whole register as it was and is logged with RANGE: R499 does not
say whether the other fields are written (DESIGN CHOICE, log 88). -/
def rwlWrite (mst : Master) (r : Reg) (g : CfgReg) (x : Nat) (s : State) : State :=
  let fs := g.fields 0xF
  let v := keepFields x fs
  if mst.host?.isSome then s
  else if s.cfg.cfgDone then
    (if v = keepFields (s.regRead mst r) fs then s else s.logReg mst r.off)
  else if g.inRange v then { s with cfg := g.apply 0xF v s.cfg }
  else s.logReg mst r.off

/-- A write of a register by a master. -/
def regWrite (mst : Master) (r : Reg) (v : Dword) (s : State) : State :=
  let x := v.toNat
  let w : Word := BitVec.ofNat 32 x
  match r with
  | .gctlId | .gctlProfile | .gctlInventory | .gctlCoreEn _ | .gctlCtxPart | .gctlHport => s
  | .ctx c r => ctxWrite mst c r.off (ctxRegWrite mst c r v) s
  | .chan n r => chanWrite mst n r w s
  | .mbxBind n => rwlWrite mst r (.mbxBind n) x s
  | .mbxPend => s
  | .sigPart => s
  | .sigSel => sigSelWrite mst x s
  | .sigOp => sigOpWrite mst v s
  | .sigStat | .sigInfo | .sigValue | .sigLast | .sigLastT => s
  | .sigWidx => s.setSigRegs mst { s.sigRegs mst with widx := field x 11 0 }
  | .sigWent0 | .sigWent1 => s
  | .sigVal _ => s
  | .sigAdd n => sigAddWrite mst n w s
  | .pwrStat => s
  | .pwrCtrl => pwrCtrlWrite mst w s
  | .pwrTemp | .pwrSupply => s
  | .pwrTmo => tmoWrite mst w s
  | .pwrLtr => ltrWrite mst w s
  | .cnt _ => s
  | .trcCtrl => trcCtrlWrite mst w s
  | .trcFilt => trcFiltWrite mst v s
  | .trcTrig => trcTrigWrite mst v s
  | .trcMark => markOp mst v s
  | .trcStat => s
  | .trcDump => trcDumpWrite mst v s
  | .fabNode => rwlWrite mst r .node x s
  | .fabLinkCfg => rwlWrite mst r .linkCfg x s
  | .fabYardCfg => rwlWrite mst r .yardCfg x s
  | .fabExpA n => rwlWrite mst r (.expA n) x s
  | .fabExpB n => rwlWrite mst r (.expB n) x s
  | .ttNow => s
  | .ttCfg => rwlWrite mst r .ttCfg x s
  | .ttStat => s
  | .ttNext => ttNextWrite mst v s
  | .ttCtrl => if bitAt x 0 ∨ mst ≠ .m then ttArmOp mst s else s
  | .yjobSel => { s with yard := { s.yard with jobSel := Tab.set 0 s.yard.jobSel mst.code (field x 11 0) } }
  | .yjobInfo => s
  | .leaseSel => { s with yard := { s.yard with leaseSel := Tab.set 0 s.yard.leaseSel mst.code (field x 11 0) } }
  | .leaseInfo | .leaseAddr => s
  | .portStat _ => s
  | .portCtrl k => pctrlOp mst k (field x 1 0) s
  | .portErr _ => s
  | .ttPort k => rwlWrite mst r (.ttPort k) x s
  | .ttDep k n => rwlWrite mst r (.ttDep k n) x s
  | .xltCtx => xltCtxWrite mst x s
  | .xltRoot => rootWrite mst x s
  | .xltInval => invalWrite mst v s
  | .xltStat | .memPart | .memTstore => s
  | .memDepot => rwlWrite mst r .depot x s
  | .hbmScrub => rwlWrite mst r .scrub x s
  | .hbmPcmap _ => s
  | .wagonCap => rwlWrite mst r .wagonCap x s
  | .tblOp => tblWrite mst v s
  | .tblArg i => s.setTblRegs mst ((s.tblRegs mst).setArg i v)
  | .tblStat | .tblInfo => s
  | .errStat => s
  | .errSel => { s with log := { s.log with sel := Tab.set 0 s.log.sel mst.code w } }
  | .errEnt _ => s
  | .bootStat | .secVer | .secCtr => s
  | .bootPolicy => rwlWrite mst r .policy x s

/-! ## Accesses (R7–R9) -/

/-- A host's access of the BOOT_ and SEC_ block: a read returns zero, and a write has no effect (R9). R7 and R9 log a misaligned access
and a write of an unassigned offset; whether a host's is logged inside this block is open. Here every host access of the
block is silent (DESIGN CHOICE, log 87). -/
def bootHidden (mst : Master) (off : Nat) : Bool := mst.host?.isSome && off / 0x100000 == 0xA

/-- The half that an access of a master has left for its next one. -/
def State.latchOf (s : State) (mst : Master) : Option Latch := Tab.get none s.bus.readLatch mst.code
def State.holdOf (s : State) (mst : Master) : Option Latch := Tab.get none s.bus.writeHold mst.code

def State.setLatch (s : State) (mst : Master) (l : Latch) : State :=
  { s with bus := { s.bus with readLatch := Tab.set none s.bus.readLatch mst.code (some l) } }
def State.setHold (s : State) (mst : Master) (l : Latch) : State :=
  { s with bus := { s.bus with writeHold := Tab.set none s.bus.writeHold mst.code (some l) } }

/-- The high half of a 64-bit value, and the value of two halves. -/
def hiHalf (v : Nat) : Nat := v / 2 ^ 32 % 2 ^ 32
def ofHalves (lo hi : Word) : Dword := hi ++ lo

/-- A write that is open to its master. `held` is the low half that the master's last access left. -/
def spotWrite (mst : Master) (off : Nat) (sp : Spot) (v : Dword) (held : Option Latch) (s : State) : State :=
  match sp with
  | .bad => s.logReg mst off
  | .unassigned => s.logReg mst off
  | .whole r => regWrite mst r v s
  | .low r => s.setHold mst ⟨r.off, BitVec.ofNat 32 v.toNat⟩
  | .high r =>
    match held with
    | some h => if h.reg = r.off then regWrite mst r (ofHalves h.half (BitVec.ofNat 32 v.toNat)) s else s.logReg mst off
    | none => s.logReg mst off

/-- What an access of a width reaches. -/
def spotOf (off : Nat) (width : Width) : Spot :=
  match width with
  | .w32 => spot32 off
  | .w64 => spot64 off

/-- The host function whose configuration space, BAR2 or BAR4 an access reaches (R401, R402). -/
def pciHost (mst : Master) (off : Nat) : Option Nat := if inPci off then mst.host? else none

/-- A BAR0 access that is open to its master, and waits for its path (R454). -/
def State.busHeld (s : State) (mst : Master) (off : Nat) (i : Instr) : Bool :=
  s.regOpen mst && !bootHidden mst off && (pciHost mst off).isNone && s.mustHold mst i

/-- A write access of a master (R7–R9, R402, R403). -/
def busWrite (mst : Master) (off : Nat) (width : Width) (v : Dword) (s : State) : State :=
  let held := s.holdOf mst
  let s1 := s.clearBus mst
  match pciHost mst off with
  | some k => if (s1.hostFn k).present then pciStore k off width v s1 else s1
  | none => if !s1.regOpen mst ∨ bootHidden mst off then s1 else spotWrite mst off (spotOf off width) v held s1

/-- A read that is open to its master. `l` is the high half that the master's last access latched. -/
def spotRead (mst : Master) (off : Nat) (sp : Spot) (l : Option Latch) (s : State) : State :=
  match sp with
  | .bad => (s.logReg mst off).answer 0
  | .unassigned => s.answer 0
  | .whole r => (s.afterRead mst r).answer (s.regRead mst r)
  | .low r =>
    let v := s.regRead mst r
    (s.setLatch mst ⟨r.off, BitVec.ofNat 32 (hiHalf v)⟩).answer (v % 2 ^ 32)
  | .high r =>
    match l with
    | some h => if h.reg = r.off then s.answer h.half.toNat else s.answer (hiHalf (s.regRead mst r))
    | none => s.answer (hiHalf (s.regRead mst r))

/-- A read of a master (R7–R9, R402, R403): until CFG_DONE a host reads zero everywhere in BAR0 but in GCTL_ID and GCTL_PROFILE, and a
misaligned read of it is not logged either (DESIGN CHOICE, log 122). The configuration space, BAR2 and BAR4 of a function are open while its
link is up. -/
def busRead (mst : Master) (off : Nat) (width : Width) (s : State) : State :=
  let l := s.latchOf mst
  let s1 := s.clearBus mst
  match pciHost mst off with
  | some k => s1.answer (if (s1.hostFn k).present then s1.pciLoad k off width else 0)
  | none =>
    if bootHidden mst off then s1.answer 0
    else if s1.regOpen mst ∨ (mst.host?.isSome ∧ width = .w32 ∧ (off = 0 ∨ off = 4)) then spotRead mst off (spotOf off width) l s1
    else s1.answer 0

/-! ## Rows -/

/-- REGISTER_WRITE. -/
def execRegisterWrite (mst : Master) (off : Nat) (width : Width) (v : Dword) (s : State) : Host.Outcome State Fault Refusal :=
  .next (if s.busHeld mst off (.registerWrite mst off width v) then s.wait (.access mst (.registerWrite mst off width v))
    else busWrite mst off width v s)
/-- LOW_HALF_READ: a read of a width. A 32-bit read of the low half of a 64-bit register latches its high half; a 64-bit read takes both
at once (R8). -/
def execLowHalfRead (mst : Master) (acc : Access) (s : State) : Host.Outcome State Fault Refusal :=
  .next (if s.busHeld mst acc.off (.lowHalfRead mst acc) then s.wait (.access mst (.lowHalfRead mst acc)) else busRead mst acc.off acc.width s)
/-- LOW_HALF_WRITE: a 32-bit write. -/
def execLowHalfWrite (mst : Master) (off : Nat) (v : Word) (s : State) : Host.Outcome State Fault Refusal :=
  .next (if s.busHeld mst off (.lowHalfWrite mst off v) then s.wait (.access mst (.lowHalfWrite mst off v))
    else busWrite mst off .w32 (v.setWidth 64) s)
/-- HIGH_HALF_WRITE: a 32-bit write. -/
def execHighHalfWrite (mst : Master) (off : Nat) (v : Word) (s : State) : Host.Outcome State Fault Refusal :=
  .next (if s.busHeld mst off (.highHalfWrite mst off v) then s.wait (.access mst (.highHalfWrite mst off v))
    else busWrite mst off .w32 (v.setWidth 64) s)

end Sys2Proof.Machine
end

