-- ==== Sys2Proof/Machine/Exit.lean ====
section
/-!
DEFINITION. The exit from an idle state (17_power_clocks_supply.md R452, R454): the requests of hosts that have waited proceed in their order, and
the row IDLE_EXIT_DONE.
-/
namespace Sys2Proof.Machine

/-- The state after a row. -/
def after (s : State) (o : Host.Outcome State Fault Refusal) : State :=
  match o with
  | .next t => t
  | _ => s

/-- A register access runs. A row that is no register access does not wait, and a master other than a host does not (`regRow`, `busHeld`). -/
def runAccess (i : Instr) (s : State) : State :=
  match i with
  | .registerWrite mst off width v => if mst.host?.isSome then after s (execRegisterWrite mst off width v s) else s
  | .lowHalfRead mst acc => after s (execLowHalfRead mst acc s)
  | .lowHalfWrite mst off v => if mst.host?.isSome then after s (execLowHalfWrite mst off v s) else s
  | .highHalfWrite mst off v => if mst.host?.isSome then after s (execHighHalfWrite mst off v s) else s
  | .bind mst kind slot ctx => after s (execBind mst kind slot ctx s)
  | .unbind mst kind slot => after s (execUnbind mst kind slot s)
  | .load mst kind slot => after s (execLoad mst kind slot s)
  | .swap mst kind slot => after s (execSwap mst kind slot s)
  | .sync mst kind slot => after s (execSync mst kind slot s)
  | .map mst kind slot => after s (execMap mst kind slot s)
  | .fork mst kind slot => after s (execFork mst kind slot s)
  | .trim mst kind slot => after s (execTrim mst kind slot s)
  | .move mst kind slot => after s (execMove mst kind slot s)
  | .query mst kind slot => after s (execQuery mst kind slot s)
  | .count mst kind slot => after s (execCount mst kind slot s)
  | .xltInval mst v => after s (execXltInval mst v s)
  | .enable mst ctx => after s (execEnable mst ctx s)
  | .preempt mst ctx => after s (execPreempt mst ctx s)
  | .restore mst ctx => after s (execRestore mst ctx s)
  | .reset mst ctx => after s (execReset mst ctx s)
  | .ctxSeedWrite mst ctx v => after s (execCtxSeedWrite mst ctx v s)
  | .ctxStepWrite mst ctx v => after s (execCtxStepWrite mst ctx v s)
  | .ctxProfWrite mst ctx v => after s (execCtxProfWrite mst ctx v s)
  | .ctxShareWrite mst ctx v => after s (execCtxShareWrite mst ctx v s)
  | .sqDoorbell mst ctx queue tail => after s (execSqDoorbell mst ctx queue tail s)
  | .cqHeadWrite mst ctx head => after s (execCqHeadWrite mst ctx head s)
  | .abort mst ctx queue seq => after s (execAbort mst ctx queue seq s)
  | .sigBind mst cls ctx v => after s (execSigBind mst cls ctx v s)
  | .sigUnbind mst => after s (execSigUnbind mst s)
  | .sigPost mst pop v => after s (execSigPost mst pop v s)
  | .clrsat mst => after s (execClrsat mst s)
  | .sigAdd mst n v => after s (execSigAdd mst n v s)
  | .mbxLockRead mst ch => after s (execMbxLockRead mst ch s)
  | .mbxLockWrite mst ch v => after s (execMbxLockWrite mst ch v s)
  | .mbxDbset mst ch v => after s (execMbxDbset mst ch v s)
  | .mbxDbclr mst ch v => after s (execMbxDbclr mst ch v s)
  | .mbxMask mst ch v => after s (execMbxMask mst ch v s)
  | .warm mst v => if mst.host?.isSome then after s (execWarm mst v s) else s
  | .pwrLtrWrite mst v => after s (execPwrLtrWrite mst v s)
  | .pwrTmoWrite mst v => after s (execPwrTmoWrite mst v s)
  | .arm mst v => after s (execArm mst v s)
  | .mark mst v => after s (execMark mst v s)
  | .go mst v => after s (execGo mst v s)
  | .resume mst v => after s (execResume mst v s)
  | .train mst port => after s (execTrain mst port s)
  | .disable mst port => after s (execDisable mst port s)
  | .ttArm mst => after s (execTtArm mst s)
  | _ => s

/-- A request that waited proceeds. -/
def HeldReq.run (s : State) : HeldReq → State
  | .hdmRead k pa => memRead k pa s
  | .hdmWrite k pa b => memWrite k pa b s
  | .access _ i => runAccess i s

/-- IDLE_EXIT_DONE: the device is in P0, and the requests that waited proceed in their order. -/
def idleExitOp (s : State) : State :=
  let p := s.pwr
  if !p.exiting then s
  else
    let m := if p.state = 4 then s.mem.zeroPlat else s.mem
    let s1 := { s with mem := m, pwr := { p with state := 0, trans := false, exiting := false, target := 0, held := []
                                                 idleSince := none } }
    p.held.foldl HeldReq.run s1

/-- IDLE_EXIT_DONE. -/
def execIdleExitDone (s : State) : Host.Outcome State Fault Refusal := .next (s.tracePwr (idleExitOp s))

end Sys2Proof.Machine
end

