-- ==== Sys2Proof/Machine/Migrate.lean ====
section
/-!
DEFINITION. MIGRATE (R246–R248): the shunting engine moves pages between tiers, one page in two steps: it marks the entry
and copies the page, and it swaps the entry.
-/
namespace Sys2Proof.Machine

/-- Write bytes at a location that the shunting engine has found, line by line, watched (R274). -/
def State.landLoc (s : State) (l : Loc) (bytes : List Byte) : State :=
  ((List.range (ceilDiv (l.inLine + bytes.length) 512)).foldl (fun (s : State) i =>
    let lo := 512 * i - l.inLine
    let b := slice bytes lo (512 * (i + 1) - l.inLine - lo)
    let off := if i = 0 then l.inLine else 0
    s.landOut none ((l.line).add (512 * i)) (b.zipIdx.map (fun (x : Byte × Nat) => (off + x.2, x.1)))) s).bump (cntShunt 3)
      (ceilDiv (l.inLine + bytes.length) 512)

/-- A page is pinned by an admitted command of the context (R208). -/
def State.pinned (s : State) (ctx page : Nat) : Bool :=
  s.cmdList.any (fun e => e.2.ctx == ctx && e.2.resv.pins.contains page)

/-- A wagon of a context to a page is in flight, or waits to be issued. -/
def State.pageBusy (s : State) (ctx page : Nat) : Bool :=
  s.cmds.wagons.any (fun w => w.ctx == ctx && w.req.kind != .read && w.req.va / 65536 == page)
    || s.cmdList.any (fun e => e.2.ctx == ctx && e.2.outQ.any (fun r => r.kind != .read && r.va / 65536 == page))

/-- The leaf entry of a page in its table, MIG clear (step 1 of R247); `none` for anything but a valid 64 KiB entry. -/
def State.migLeaf (s : State) (ctx va : Nat) : Option Leaf :=
  match s.walk ctx va with
  | some l => if l.size = 16 ∧ !bitAt (s.mem.hbmWord l.slotPa 8) 9 then some l else none
  | none => none

/-- An uncorrectable error in the page or its record, the error of a host among them (R235, R248 outcome 6, R407); what a peer answers, the read
wagons of the page show. -/
def State.pageEcc (s : State) (l : Loc) (n : Nat) : Bool :=
  match l with
  | .peer _ _ => false
  | _ => (List.range (n / 512 + 1)).any (fun i => (s.lineStatus (l.add (512 * i))).isSome)

/-- What a MIGRATE reads besides its pages (R246): its list, and its destinations or the header of its arena. -/
def MgPar.demand (p : MgPar) : Demand :=
  ⟨[], [(41, p.list, 8 * p.npages), (42, p.dst, if p.comp then 32 else 8 * p.npages)], none⟩

/-- Entry k of the list: the address of the page. -/
def State.migVa (s : State) (c : Cmd) (p : MgPar) (k : Nat) : Nat := leNat ((upFrom (p.list + 8 * k) 8).map (s.cmdByte c 0 41))

/-- The bytes at DST. -/
def State.migDst (s : State) (c : Cmd) (p : MgPar) (o n : Nat) : List Byte := (upFrom (p.dst + o) n).map (s.cmdByte c 0 42)

/-- The arena header at DST of a command with COMP = 1: BASE, LIMIT, FILL. -/
def State.arena (s : State) (c : Cmd) (p : MgPar) : Nat × Nat × Nat :=
  let b := s.migDst c p 0 32
  (u64At b 0, u64At b 8, u64At b 16)

/-- Bytes 0x18–0x1F of the arena header are not zero (R246): the command ends with FORMAT, as for a reserved field (DESIGN CHOICE, log 112). -/
def State.arenaBad (s : State) (c : Cmd) (p : MgPar) : Bool := p.comp && !zeroAt (s.migDst c p 0 32) 24 8

/-- WCODE of the FMT word (R240, R246). -/
def MgPar.wcode (p : MgPar) : Nat := wcodeOf p.fmt

/-- What a page becomes: an outcome byte at once, a malformed source, or the bytes to store, their location and the new
entry. -/
inductive MigPlan where
  | done (out : Nat)
  | malformed (va : Nat)
  | move (l : Leaf) (dst : Loc) (bytes : List Byte) (fresh fill : Nat)

/-- The new entry of a page (step 4 of R247). -/
def freshEntry (p : MgPar) (l : Leaf) (loc : Nat) : Nat :=
  3 + flagAt l.r 2 + flagAt l.w 3 + flagAt p.dc 4 + flagAt p.comp 5 + putAt p.tier 6 + loc / 4096 * 4096

/-- The destination of a page: the location that a valid new entry names, every byte of it in the context's reach. -/
def State.migDest (s : State) (ctx fresh n : Nat) : Option Loc :=
  match parseLeaf fresh 16 0 with
  | some d => if s.locOk ctx d.base ∧ s.locOk ctx (d.base.add (n - 1)) then some d.base else none
  | none => none

/-- Plan page k of a MIGRATE (R247, R248). -/
def State.migPlan (s : State) (c : Cmd) (p : MgPar) (k : Nat) : MigPlan :=
  let va := s.migVa c p k
  match s.migLeaf c.ctx va with
  | none => .done 5
  | some l =>
    let pageVa := va / 65536 * 65536
    if !s.locOk c.ctx l.base ∨ (p.comp ∧ l.w) then .done 5
    else if s.pinned c.ctx (va / 65536) then .done 1
    else if l.tier = p.tier ∧ l.comp = p.comp then .done 2
    else if s.pageEcc l.base (if l.comp then streamTotal (s.mem.read l.base 64) else 65536) then .done 6
    else
      let src : Option (List Byte) := if l.comp then s.compPage l.base
        else some ((List.range 65536).map (fun i => (c.tileByte 0 40 (l.base.add i)).getD (s.mem.get (l.base.add i))))
      match src with
      | none => .malformed pageVa
      | some bytes =>
        if p.comp then
          let a := s.arena c p
          let rec_ := compress p.wcode bytes
          let size := roundUp rec_.length 4096
          let fresh := freshEntry p l (a.1 + a.2.2)
          if a.2.1 < a.2.2 + size then .done 4
          else
            match s.migDest c.ctx fresh size with
            | some d => if a.1 % 4096 = 0 then .move l d rec_ fresh (a.2.2 + size) else .done 5
            | none => .done 5
        else
          let v := leNat (s.migDst c p (8 * k) 8)
          let fresh := freshEntry p l v
          match s.migDest c.ctx fresh 65536 with
          | some d => if v % 4096 = 0 then .move l d bytes fresh 0 else .done 5
          | none => .done 5

/-- The status of a stopping outcome (R248). -/
def outcomeStatus (out : Nat) : Option Byte :=
  match out with
  | 4 => some stResource
  | 5 => some stXlate
  | 6 => some stEcc
  | _ => none

/-- The ranges that a MIGRATE writes as a whole: the header of its arena, its outcomes. -/
def State.migFault (s : State) (c : Cmd) (p : MgPar) : Option Nat :=
  (if p.comp then s.rangeFault c.ctx p.dst 32 true else none).or (s.rangeFault c.ctx p.out p.npages true)

/-- The page has been dealt with: its lines go, and with COMP the header of the arena is read anew for the next. -/
def State.leavePage (s : State) (slot : Nat) (p : MgPar) : State :=
  s.modCmd slot (fun c => { c with tiles := c.tiles.filter (fun t => t.field == 41 || (t.field == 42 && !p.comp)) })

/-- Steps 1 to 3 of R247 for one page, or its outcome at once. -/
def State.migPage (s : State) (slot : Nat) (c : Cmd) (p : MgPar) : State :=
  let k := c.mig
  match s.migPlan c p k with
  | .malformed va => s.failCmd slot stFormat 0 0 { status := stFormat, unit := uShunt, addr := va }
  | .done out =>
    let s1 := s.migOutcome slot k out
    match outcomeStatus out with
    | some st => s1.failCmd slot st 0 0 { status := st, unit := uShunt, addr := s.migVa c p k }
    | none => (s1.leavePage slot p).progress slot
  | .move l d bytes fresh fill =>
    let e := s.mem.hbmWord l.slotPa 8 + 2 ^ 9
    let s1 := (s.landLoc d bytes).putEntry l.slotPa e
    let s2 := if p.comp then s1.shuntVa slot c.ctx (p.dst + 0x10) (toLe 8 fill) else s1
    let held : MigHold := ⟨slot, k, l.slotPa, e, fresh⟩
    let s3 : State := { s2 with xlt := { s2.xlt with mig := s2.xlt.mig ++ [held] } }
    ((s3.bump (cntShunt 3) 128).leavePage slot p).progress slot

/-- Lines of a page of peer HBM that no tile of the command holds. -/
def State.peerLines (s : State) (c : Cmd) (va : Nat) : List Loc :=
  match s.migLeaf c.ctx va with
  | some l =>
    match l.base with
    | .peer n pa => ((List.range 128).map (fun i => Loc.peer n (pa + 512 * i))).filter (fun x => (c.tileByte 0 40 x).isNone)
    | _ => []
  | none => []

/-- The next page of a MIGRATE. The list and the destinations are fetched first, and the lines of a page of peer HBM; a page with write wagons in
flight is taken up once they are acknowledged. -/
def State.nextPage (s : State) (slot : Nat) : State :=
  match s.workable slot 8 false with
  | none => s
  | some c =>
    let p := mgPar c.pb
    if p.npages ≤ c.mig then s.worked slot
    else
      let g := s.gather slot c 0 p.demand
      if !g.2 then g.1
      else
        match s.migFault c p with
        | some a => s.failCmd slot stXlate 0 0 { status := stXlate, unit := uShunt, addr := a }
        | none =>
          if s.arenaBad c p then s.failCmd slot stFormat 0 0 { status := stFormat, unit := uShunt, addr := p.dst }
          else
            let va := s.migVa c p c.mig
            if s.pageBusy c.ctx (va / 65536) ∨ s.reading slot c then s.pumpCmd slot
            else
              match s.peerLines c va with
              | [] => s.migPage slot c p
              | miss => s.fetchLines slot [] (miss.map (fun l => (0, 40, outsideTile, l)))

/-- MIGRATE: a step of the shunting engine. A page that it holds is settled, else the next one is taken up, after those that other commands
hold: a read or write of such a page stalls until then (R247). -/
def migrateOp (slot : Nat) (s : State) : State :=
  match s.workable slot 8 false with
  | none => s
  | some _ => if s.xlt.mig.any (fun h => h.slot == slot) then (s.settleMigs).pumpCmd slot else (s.settleMigs).nextPage slot

/-- MIGRATE. -/
def execMigrate (slot : Nat) (s : State) : Host.Outcome State Fault Refusal := .next (migrateOp slot s)

end Sys2Proof.Machine
end

