-- ==== Sys2Proof/Machine/Sideband.lean ====
section
/-!
DEFINITION. The sideband (19_package_electrical.md R495): the block reads of five registers and the SMBus alert
response.
-/
namespace Sys2Proof.Machine

/-- What the sideband target answers: no answer is a byte that is not acknowledged. -/
def State.sideband (s : State) (r : Option (List Byte)) : State := s.setPwr { s.pwr with sbResp := r }

/-- The target answers from the end of phase 0x1 on. A block read returns eight bytes of a register. -/
def State.sbRead (s : State) (v : Nat) : State := s.sideband (if s.boot.romOk then some (toLe 8 v) else none)

/-- SB_ALERT_N is low. -/
def State.alerting (s : State) : Bool := s.pwr.thermCrit || s.pwr.holdExp || s.boot.phase == 8

/-- The 7-bit address of the target. -/
def State.sbAddress (s : State) : Nat := 0x58 + s.boot.sbAddr % 8

/-- GCTL_INVENTORY as the sideband reads it. -/
def State.sbInventory (s : State) : Nat := if s.cfg.cfgDone then s.inventory else 0

/-- The answer to the SMBus Alert Response Address. -/
def State.alertResponse (s : State) : State :=
  s.sideband (if s.boot.romOk ∧ s.alerting then some (toLe 1 s.sbAddress) else none)

/-- SB_BOOT_STAT. -/
def execSbBootStat (s : State) : Host.Outcome State Fault Refusal := .next (s.sbRead s.bootStat)
/-- SB_PWR_STAT. -/
def execSbPwrStat (s : State) : Host.Outcome State Fault Refusal := .next (s.sbRead s.pwrStat)
/-- SB_PWR_TEMP. -/
def execSbPwrTemp (s : State) : Host.Outcome State Fault Refusal := .next (s.sbRead s.pwrTemp)
/-- SB_PWR_SUPPLY. -/
def execSbPwrSupply (s : State) : Host.Outcome State Fault Refusal := .next (s.sbRead s.pwrSupply)
/-- SB_GCTL_INVENTORY. -/
def execSbGctlInventory (s : State) : Host.Outcome State Fault Refusal := .next (s.sbRead s.sbInventory)
/-- SB_ALERT_RESPONSE. -/
def execSbAlertResponse (s : State) : Host.Outcome State Fault Refusal := .next s.alertResponse

end Sys2Proof.Machine
end

