-- ==== Sys2Proof/Machine/Dispatch.lean ====
section
/-!
DEFINITION. The dispatch: one arm per command of Sys2Proof/Syntax.lean. `exec` has a command's effect on everything but
the queue of waiting commands, which it leaves as it is.
-/
namespace Sys2Proof.Machine

def exec (i : Instr) (s : State) : Host.Outcome State Fault Refusal :=
  match i with
  | .registerWrite mst off width v => Sys2Proof.Machine.execRegisterWrite mst off width v s
  | .lowHalfRead mst acc => Sys2Proof.Machine.execLowHalfRead mst acc s
  | .lowHalfWrite mst off v => Sys2Proof.Machine.execLowHalfWrite mst off v s
  | .highHalfWrite mst off v => Sys2Proof.Machine.execHighHalfWrite mst off v s
  | .bind mst kind slot ctx => Sys2Proof.Machine.execBind mst kind slot ctx s
  | .unbind mst kind slot => Sys2Proof.Machine.execUnbind mst kind slot s
  | .load mst kind slot => Sys2Proof.Machine.execLoad mst kind slot s
  | .swap mst kind slot => Sys2Proof.Machine.execSwap mst kind slot s
  | .sync mst kind slot => Sys2Proof.Machine.execSync mst kind slot s
  | .map mst kind slot => Sys2Proof.Machine.execMap mst kind slot s
  | .fork mst kind slot => Sys2Proof.Machine.execFork mst kind slot s
  | .trim mst kind slot => Sys2Proof.Machine.execTrim mst kind slot s
  | .move mst kind slot => Sys2Proof.Machine.execMove mst kind slot s
  | .query mst kind slot => Sys2Proof.Machine.execQuery mst kind slot s
  | .count mst kind slot => Sys2Proof.Machine.execCount mst kind slot s
  | .tableOpComplete mst => Sys2Proof.Machine.execTableOpComplete mst s
  | .copyOnWrite slot => Sys2Proof.Machine.execCopyOnWrite slot s
  | .xltInval mst v => Sys2Proof.Machine.execXltInval mst v s
  | .xltInvalComplete mst => Sys2Proof.Machine.execXltInvalComplete mst s
  | .enable mst ctx => Sys2Proof.Machine.execEnable mst ctx s
  | .preempt mst ctx => Sys2Proof.Machine.execPreempt mst ctx s
  | .ctxSaveDone ctx => Sys2Proof.Machine.execCtxSaveDone ctx s
  | .restore mst ctx => Sys2Proof.Machine.execRestore mst ctx s
  | .ctxRestoreDone ctx => Sys2Proof.Machine.execCtxRestoreDone ctx s
  | .reset mst ctx => Sys2Proof.Machine.execReset mst ctx s
  | .ctxResetDone ctx => Sys2Proof.Machine.execCtxResetDone ctx s
  | .ctxSeedWrite mst ctx v => Sys2Proof.Machine.execCtxSeedWrite mst ctx v s
  | .ctxStepWrite mst ctx v => Sys2Proof.Machine.execCtxStepWrite mst ctx v s
  | .ctxProfWrite mst ctx v => Sys2Proof.Machine.execCtxProfWrite mst ctx v s
  | .ctxShareWrite mst ctx v => Sys2Proof.Machine.execCtxShareWrite mst ctx v s
  | .sqDoorbell mst ctx queue tail => Sys2Proof.Machine.execSqDoorbell mst ctx queue tail s
  | .cqHeadWrite mst ctx head => Sys2Proof.Machine.execCqHeadWrite mst ctx head s
  | .abort mst ctx queue seq => Sys2Proof.Machine.execAbort mst ctx queue seq s
  | .cmdFetch ctx queue => Sys2Proof.Machine.execCmdFetch ctx queue s
  | .cmdAdmit => Sys2Proof.Machine.execCmdAdmit s
  | .admitTimeout ctx queue => Sys2Proof.Machine.execAdmitTimeout ctx queue s
  | .cmdStart slot => Sys2Proof.Machine.execCmdStart slot s
  | .cmdRetire slot => Sys2Proof.Machine.execCmdRetire slot s
  | .waitTimeout slot => Sys2Proof.Machine.execWaitTimeout slot s
  | .stallTimeout slot => Sys2Proof.Machine.execStallTimeout slot s
  | .ctxWatchdog ctx => Sys2Proof.Machine.execCtxWatchdog ctx s
  | .yield slot => Sys2Proof.Machine.execYield slot s
  | .loopIteration slot => Sys2Proof.Machine.execLoopIteration slot s
  | .dualPathDecision slot => Sys2Proof.Machine.execDualPathDecision slot s
  | .wagonArrive w => Sys2Proof.Machine.execWagonArrive w s
  | .wagonAck w => Sys2Proof.Machine.execWagonAck w s
  | .wagonTimeout w => Sys2Proof.Machine.execWagonTimeout w s
  | .readWagonServe w ev => Sys2Proof.Machine.execReadWagonServe w ev s
  | .writeWagonApply w => Sys2Proof.Machine.execWriteWagonApply w s
  | .accWagonApply w ev => Sys2Proof.Machine.execAccWagonApply w ev s
  | .pagedWrite slot => Sys2Proof.Machine.execPagedWrite slot s
  | .matmul slot => Sys2Proof.Machine.execMatmul slot s
  | .conv slot => Sys2Proof.Machine.execConv slot s
  | .attnFwd slot => Sys2Proof.Machine.execAttnFwd slot s
  | .attnBwd slot => Sys2Proof.Machine.execAttnBwd slot s
  | .vecfn slot => Sys2Proof.Machine.execVecfn slot s
  | .norm slot => Sys2Proof.Machine.execNorm slot s
  | .copy slot => Sys2Proof.Machine.execCopy slot s
  | .migrate slot => Sys2Proof.Machine.execMigrate slot s
  | .reduce slot => Sys2Proof.Machine.execReduce slot s
  | .gather slot => Sys2Proof.Machine.execGather slot s
  | .permute slot => Sys2Proof.Machine.execPermute slot s
  | .update slot => Sys2Proof.Machine.execUpdate slot s
  | .signal slot => Sys2Proof.Machine.execSignal slot s
  | .fence slot => Sys2Proof.Machine.execFence slot s
  | .stepLoop slot => Sys2Proof.Machine.execStepLoop slot s
  | .fusedChain slot => Sys2Proof.Machine.execFusedChain slot s
  | .sigBind mst cls ctx v => Sys2Proof.Machine.execSigBind mst cls ctx v s
  | .sigUnbind mst => Sys2Proof.Machine.execSigUnbind mst s
  | .sigPost mst pop v => Sys2Proof.Machine.execSigPost mst pop v s
  | .clrsat mst => Sys2Proof.Machine.execClrsat mst s
  | .sigAdd mst n v => Sys2Proof.Machine.execSigAdd mst n v s
  | .mbxLockRead mst ch => Sys2Proof.Machine.execMbxLockRead mst ch s
  | .mbxLockWrite mst ch v => Sys2Proof.Machine.execMbxLockWrite mst ch v s
  | .mbxDbset mst ch v => Sys2Proof.Machine.execMbxDbset mst ch v s
  | .mbxDbclr mst ch v => Sys2Proof.Machine.execMbxDbclr mst ch v s
  | .mbxMask mst ch v => Sys2Proof.Machine.execMbxMask mst ch v s
  | .stage k ch => Sys2Proof.Machine.execStage k ch s
  | .stageComplete writeOk => Sys2Proof.Machine.execStageComplete writeOk s
  | .status k ch => Sys2Proof.Machine.execStatus k ch s
  | .commitSvn k req => Sys2Proof.Machine.execCommitSvn k req s
  | .warm mst v => Sys2Proof.Machine.execWarm mst v s
  | .pwrLtrWrite mst v => Sys2Proof.Machine.execPwrLtrWrite mst v s
  | .pwrTmoWrite mst v => Sys2Proof.Machine.execPwrTmoWrite mst v s
  | .arm mst v => Sys2Proof.Machine.execArm mst v s
  | .mark mst v => Sys2Proof.Machine.execMark mst v s
  | .sample => Sys2Proof.Machine.execSample s
  | .go mst v => Sys2Proof.Machine.execGo mst v s
  | .dumpDone => Sys2Proof.Machine.execDumpDone s
  | .resume mst v => Sys2Proof.Machine.execResume mst v s
  | .bookTimeout book => Sys2Proof.Machine.execBookTimeout book s
  | .train mst port => Sys2Proof.Machine.execTrain mst port s
  | .disable mst port => Sys2Proof.Machine.execDisable mst port s
  | .flitRx port bytes => Sys2Proof.Machine.execFlitRx port bytes s
  | .replayTimeout port => Sys2Proof.Machine.execReplayTimeout port s
  | .trainTimeout port => Sys2Proof.Machine.execTrainTimeout port s
  | .laneLockLoss port => Sys2Proof.Machine.execLaneLockLoss port s
  | .packetRx port => Sys2Proof.Machine.execPacketRx port s
  | .rdReq port p => Sys2Proof.Machine.execRdReq port p s
  | .wr port p => Sys2Proof.Machine.execWr port p s
  | .wrMask port p => Sys2Proof.Machine.execWrMask port p s
  | .rdRsp port p => Sys2Proof.Machine.execRdRsp port p s
  | .wrAck port p => Sys2Proof.Machine.execWrAck port p s
  | .errRsp port p => Sys2Proof.Machine.execErrRsp port p s
  | .credit port p => Sys2Proof.Machine.execCredit port p s
  | .creditReturnTimer port => Sys2Proof.Machine.execCreditReturnTimer port s
  | .creditStall port vc => Sys2Proof.Machine.execCreditStall port vc s
  | .timeExchangeTimer => Sys2Proof.Machine.execTimeExchangeTimer s
  | .timeReq port p => Sys2Proof.Machine.execTimeReq port p s
  | .timeRsp port p => Sys2Proof.Machine.execTimeRsp port p s
  | .timeSampleTimeout => Sys2Proof.Machine.execTimeSampleTimeout s
  | .holdoverTimeout => Sys2Proof.Machine.execHoldoverTimeout s
  | .refSyncEdge => Sys2Proof.Machine.execRefSyncEdge s
  | .ttArm mst => Sys2Proof.Machine.execTtArm mst s
  | .ringChunkRx slot f => Sys2Proof.Machine.execRingChunkRx slot f s
  | .ringCreditRx slot f => Sys2Proof.Machine.execRingCreditRx slot f s
  | .ringCancel port tag => Sys2Proof.Machine.execRingCancel port tag s
  | .ringTimeout slot => Sys2Proof.Machine.execRingTimeout slot s
  | .openFrame axis f => Sys2Proof.Machine.execOpenFrame axis f s
  | .grantFrame axis f => Sys2Proof.Machine.execGrantFrame axis f s
  | .rejectFrame axis f => Sys2Proof.Machine.execRejectFrame axis f s
  | .dataFrame axis f => Sys2Proof.Machine.execDataFrame axis f s
  | .pendingOpenTimeout entry => Sys2Proof.Machine.execPendingOpenTimeout entry s
  | .collectiveTimeout slot => Sys2Proof.Machine.execCollectiveTimeout slot s
  | .yardCancel port tag => Sys2Proof.Machine.execYardCancel port tag s
  | .drainTimeout slot => Sys2Proof.Machine.execDrainTimeout slot s
  | .hdmRead k addr => Sys2Proof.Machine.execHdmRead k addr s
  | .hdmWrite k addr bytes => Sys2Proof.Machine.execHdmWrite k addr bytes s
  | .hdmDecoderCommit k base size ways => Sys2Proof.Machine.execHdmDecoderCommit k base size ways s
  | .h2dSnoop k addr => Sys2Proof.Machine.execH2dSnoop k addr s
  | .getVersion k => Sys2Proof.Machine.execGetVersion k s
  | .getCapabilities k => Sys2Proof.Machine.execGetCapabilities k s
  | .negotiateAlgorithms k sel => Sys2Proof.Machine.execNegotiateAlgorithms k sel s
  | .getDigests k => Sys2Proof.Machine.execGetDigests k s
  | .getCertificate k slotId off len => Sys2Proof.Machine.execGetCertificate k slotId off len s
  | .challenge k slotId nonce => Sys2Proof.Machine.execChallenge k slotId nonce s
  | .getMeasurements k index signed nonce => Sys2Proof.Machine.execGetMeasurements k index signed nonce s
  | .unsupportedRequest k code => Sys2Proof.Machine.execUnsupportedRequest k code s
  | .perstAssert k => Sys2Proof.Machine.execPerstAssert k s
  | .perstRelease k => Sys2Proof.Machine.execPerstRelease k s
  | .hostLinkDown k => Sys2Proof.Machine.execHostLinkDown k s
  | .flr k => Sys2Proof.Machine.execFlr k s
  | .sysRstNAssert ns => Sys2Proof.Machine.execSysRstNAssert ns s
  | .sysRstNRelease hpBif sbAddr => Sys2Proof.Machine.execSysRstNRelease hpBif sbAddr s
  | .rom ok => Sys2Proof.Machine.execRom ok s
  | .flash placed probeOk => Sys2Proof.Machine.execFlash placed probeOk s
  | .verify puf ctr => Sys2Proof.Machine.execVerify puf ctr s
  | .fw ok => Sys2Proof.Machine.execFw ok s
  | .bist r => Sys2Proof.Machine.execBist r s
  | .config => Sys2Proof.Machine.execConfig s
  | .configLoadTimeout => Sys2Proof.Machine.execConfigLoadTimeout s
  | .pllLockTimeout domain => Sys2Proof.Machine.execPllLockTimeout domain s
  | .sbBootStat => Sys2Proof.Machine.execSbBootStat s
  | .sbPwrStat => Sys2Proof.Machine.execSbPwrStat s
  | .sbPwrTemp => Sys2Proof.Machine.execSbPwrTemp s
  | .sbPwrSupply => Sys2Proof.Machine.execSbPwrSupply s
  | .sbGctlInventory => Sys2Proof.Machine.execSbGctlInventory s
  | .sbAlertResponse => Sys2Proof.Machine.execSbAlertResponse s
  | .supplyWarning rail => Sys2Proof.Machine.execSupplyWarning rail s
  | .warningReleased => Sys2Proof.Machine.execWarningReleased s
  | .warningReturn => Sys2Proof.Machine.execWarningReturn s
  | .holdWindowExpire => Sys2Proof.Machine.execHoldWindowExpire s
  | .supplyReset rail => Sys2Proof.Machine.execSupplyReset rail s
  | .throttleTick tjC0 tjC1 watts => Sys2Proof.Machine.execThrottleTick tjC0 tjC1 watts s
  | .thermCrit tjC0 tjC1 tjH => Sys2Proof.Machine.execThermCrit tjC0 tjC1 tjH s
  | .thermCritClear tjC0 tjC1 tjH => Sys2Proof.Machine.execThermCritClear tjC0 tjC1 tjH s
  | .thermalTrip tjC0 tjC1 tjH tHbm => Sys2Proof.Machine.execThermalTrip tjC0 tjC1 tjH tHbm s
  | .hbmTempChange stack temp => Sys2Proof.Machine.execHbmTempChange stack temp s
  | .idleEntry => Sys2Proof.Machine.execIdleEntry s
  | .wake => Sys2Proof.Machine.execWake s
  | .idleExitDone => Sys2Proof.Machine.execIdleExitDone s
  | .patrolScrub stack ev => Sys2Proof.Machine.execPatrolScrub stack ev s
  | .preemptRetireTimeout slot => Sys2Proof.Machine.execPreemptRetireTimeout slot s
  | .departureWindow port => Sys2Proof.Machine.execDepartureWindow port s
  | .hostLinkUp k width speed cxl => Sys2Proof.Machine.execHostLinkUp k width speed cxl s
  | .powerUp => Sys2Proof.Machine.execPowerUp s
  | .traceRecordSent => Sys2Proof.Machine.execTraceRecordSent s

end Sys2Proof.Machine
end

