-- ==== Sys2Proof/Machine/Tick.lean ====
section
/-!
DEFINITION. What happens at a tick of the 250 MHz fabric-time clock (log 1): admission waits that are due begin (R303),
fabric time and the clocks of the timers move on (R361, R464, R480), the idle states follow (R452, R453), and the hub takes what
waits in the trace FIFOs (R476).
-/
namespace Sys2Proof.Machine

/-- Fabric time moves on by one tick. A hang dump holds the timers of commands, a stop of admission those of
admission. -/
def State.advance (s : State) : State := s.setTime (s.time.tick s.trc.dump.busy s.pwr.admitStop)

/-- Timers of wagons that wait on a port while it retrains stand still: n ns more of the clock; the stall watchdog of a command whose every outstanding
wagon waits so stands with them, m ns of the command clock (R264, R354). -/
def State.holdTimers (s : State) (n m : Nat) : State :=
  if s.fab.ports.all (fun e => e.2.state != .retraining) then s
  else
    let slots := s.cmds.slots.map (fun (e : Nat × Option Cmd) =>
      if s.heldByPort e.1 then (e.1, e.2.map (fun c => { c with stallBy := c.stallBy + m })) else e)
    { s with cmds := { s.cmds with
        wagons := s.cmds.wagons.map (fun w => if s.timerHeld w then { w with due := w.due + n } else w)
        slots := slots } }

/-- Timers that a port holds move with the clock. -/
def State.advanceHeld (s : State) : State :=
  let s1 := s.advance
  s1.holdTimers (s1.time.clk - s.time.clk).toNat (s1.time.cmdClk - s.time.cmdClk).toNat

/-- Dual-path commands whose decision instant the present tick is, or has been, are decided before time moves on: acknowledgements of this tick
have been recorded (R251). -/
def State.decideDue (s : State) : State := s.cmdList.foldl (fun s e => dualDecisionOp e.1 s) s

/-- A wait for admission stands still for d ns. -/
def laterBy (d : Nat) (t : Option Dword) : Option Dword := t.map (· + BitVec.ofNat 64 d)

/-- A command whose loop's body or whose next phase waits for admission. -/
def Cmd.holdWait (d : Nat) (c : Cmd) : Cmd :=
  { c with loop := c.loop.map (fun l => { l with since := laterBy d l.since }), dual := c.dual.map (fun x => { x with since := laterBy d x.since }) }

/-- Everything of a context that waits for admission. -/
def Ctx.holdWait (d : Nat) (x : Ctx) : Ctx :=
  let hold (v : Sq) : Sq := { v with recs := v.recs.map (fun r => { r with since := laterBy d r.since }) }
  { x with sq0 := hold x.sq0, sq1 := hold x.sq1, sq2 := hold x.sq2, sq3 := hold x.sq3
           saved := x.saved.map (fun v => { v with cmds := v.cmds.map (Cmd.holdWait d) }) }

/-- The commands of a context that is not ON are no candidates: their admission waits stand still (R302, R303). A completion record that waits
holds no candidate's wait (R312). -/
def State.holdAdmits (s : State) (d : Nat) : State :=
  { s with ctxs := s.ctxs.map (fun (e : Nat × Ctx) => if e.2.state = .on then e else (e.1, e.2.holdWait d))
           cmds := { s.cmds with slots := s.cmds.slots.map (fun (e : Nat × Option Cmd) =>
             (e.1, e.2.map (fun c => if (s.ctx c.ctx).state = .on then c else c.holdWait d))) } }

/-- One tick, in reset too: domain 25 runs from the moment the always-on supply is valid (R449, R487). -/
def State.tick (s : State) : State :=
  let s0 := s.decideDue.markCands
  let s1 := s0.advanceHeld
  (s1.holdAdmits (s1.time.admClk - s0.time.admClk).toNat).powerTick.drainTrace

end Sys2Proof.Machine
end

