-- ==== Sys2Proof/Safety.lean ====
section
/-!
DEFINITION. What a safe step is (it neither faults nor is refused), and the words in which statements speak of a frame:
the groups of the state, and what a command leaves as it was.
-/
namespace Sys2Proof.Machine

/-- The step of `s` answers a next state. -/
def Safe (s : State) : Prop := ∃ t, step s = .next t

/-- The groups of the state: one for each field of `State`. -/
inductive Group where
  | pending | stepping | bus | cfg | inv | boot | time | log | cnt | trc | mem | xlt | tbl | ctxs | cmds | sig | yard | fab
  | hosts | mbx | pwr
  deriving DecidableEq, Repr

/-- Two states agree on a group. -/
def Group.same (s t : State) : Group → Prop
  | .pending => t.pending = s.pending
  | .stepping => t.stepping = s.stepping
  | .bus => t.bus = s.bus
  | .cfg => t.cfg = s.cfg
  | .inv => t.inv = s.inv
  | .boot => t.boot = s.boot
  | .time => t.time = s.time
  | .log => t.log = s.log
  | .cnt => t.cnt = s.cnt
  | .trc => t.trc = s.trc
  | .mem => t.mem = s.mem
  | .xlt => t.xlt = s.xlt
  | .tbl => t.tbl = s.tbl
  | .ctxs => t.ctxs = s.ctxs
  | .cmds => t.cmds = s.cmds
  | .sig => t.sig = s.sig
  | .yard => t.yard = s.yard
  | .fab => t.fab = s.fab
  | .hosts => t.hosts = s.hosts
  | .mbx => t.mbx = s.mbx
  | .pwr => t.pwr = s.pwr

/-- `t` differs from `s` in the listed groups at most. -/
def Frame (changed : List Group) (s t : State) : Prop := ∀ p, p ∉ changed → p.same s t

/-- The groups that logging an event changes: the log, its trace record, the error vector of a host. -/
def logGroups : List Group := [.log, .trc, .hosts]

/-- The groups, besides those that every step of a command's work changes, that the requests of its streams change as they run ahead: those to
peer HBM leave by ports, and may be lost or wait there. -/
def aheadGroups : List Group := [.fab, .trc, .log, .hosts]

/-- The registers are open to a master, which may operate on a context. -/
def State.ctxOpen (s : State) (mst : Master) (ctx : Nat) : Prop :=
  s.regReady mst true = true ∧ s.mayCtx mst ctx = true ∧ ctx < 4096

/-- Every context but one is as it was. -/
def OtherCtxs (ctx : Nat) (s t : State) : Prop := ∀ d, d ≠ ctx → t.ctx d = s.ctx d

/-- Every command slot but one is as it was. -/
def OtherSlots (slot : Nat) (s t : State) : Prop := ∀ k, k ≠ slot → t.cmd? k = s.cmd? k

/-- Every signal but one is as it was. -/
def OtherSigs (n : Nat) (s t : State) : Prop := ∀ m, m ≠ n → t.sigOf m = s.sigOf m

/-- Every port but one is as it was. -/
def OtherPorts (p : Nat) (s t : State) : Prop := ∀ q, q ≠ p → t.port q = s.port q

/-- Every host function but one is as it was. -/
def OtherHosts (k : Nat) (s t : State) : Prop := ∀ j, j ≠ k → t.hostFn j = s.hostFn j

/-- Every counter but one is as it was. -/
def OtherCounters (off : Nat) (s t : State) : Prop := ∀ o, o ≠ off → Tab.get 0 t.cnt o = Tab.get 0 s.cnt o

/-- A master's registers are open and its signal unit registers are free, no dump freezes the signal unit, and it may operate on
signal `n`. -/
def State.sigOpen (s : State) (mst : Master) (n : Nat) : Prop :=
  s.regReady mst false = true ∧ (s.sigRegs mst).busy = false ∧ s.trc.dump.busy = false ∧ s.maySig mst n = true

/-- What R326 makes of a value under a post: the value and SAT after it, or none where a data signal would leave its range. -/
def Posts (g : Signal) (pop : Nat) (v : Word) : Option (Word × Bool) → Prop
  | some r =>
    (pop = 1 ∧ g.value.toNat + v.toNat < 2 ^ 32 ∧ r = (g.value + v, g.sat))
      ∨ (pop = 1 ∧ 2 ^ 32 ≤ g.value.toNat + v.toNat ∧ g.cls = 1 ∧ r = (0xFFFFFFFF, true))
      ∨ (pop = 2 ∧ g.cls = 0 ∧ v.toNat ≤ g.value.toNat ∧ r = (g.value - v, g.sat))
      ∨ (pop = 3 ∧ r = (v, false))
  | none => (pop = 1 ∧ 2 ^ 32 ≤ g.value.toNat + v.toNat ∧ g.cls = 0) ∨ (pop = 2 ∧ g.cls = 0 ∧ g.value.toNat < v.toNat)

/-- A signal after a master has posted to it: the new value and SAT, and the last-signaller record of R334. -/
def Signal.posted (g : Signal) (mst : Master) (pop : Nat) (r : Word × Bool) (now : Dword) : Signal :=
  { g with value := r.1, sat := r.2, last := ⟨mst.code, 0, 0, pop, 0xFFFFFFFF, now⟩ }

/-- The table unit will act on a slot for a master: its registers are open and free, no dump freezes it, and the slot exists and may be
operated on. -/
def State.tblOpen (s : State) (mst : Master) (kind slot : Nat) : Prop :=
  s.regReady mst true = true ∧ (s.tblRegs mst).busy = false ∧ s.trc.dump.busy = false ∧ 1 ≤ kind ∧ kind ≤ 4 ∧ slot < tblSlots kind
    ∧ s.mayTbl mst kind (s.tblSlot kind slot) = true

/-- A command's write requests have left for their lines, or wait in its queue. -/
def Left (t : State) (c : Cmd) (rs : List WagonReq) : Prop := ∀ r ∈ rs, r ∈ c.outQ ∨ ∃ w ∈ t.cmds.wagons, w.req = r

/-- Nothing waits to leave a port. -/
def Port.quiet (p : Port) : Prop := ∀ vc, p.queue vc = []

/-- No request goes to peer HBM. -/
def NoPeer (rs : List WagonReq) : Prop := ∀ r ∈ rs, ∀ node pa, r.line ≠ .peer node pa

/-- A started command has ended with an error: it has issued its last request, but for the outcome bytes that a MIGRATE still writes (R248),
and waits for its wagons alone. -/
def Ended (t : State) (slot : Nat) (st detail : Byte) : Prop :=
  ∃ c, t.cmd? slot = some c ∧ c.status = some (st, detail) ∧ c.phase = .worked ∧ (∀ r ∈ c.outQ, c.op = 8 ∧ r.kind ≠ .read) ∧ c.paged = []
    ∧ c.tiles = []

/-- The memory holds what `m` holds, byte by byte. -/
def SameBytes (m m' : Memories) : Prop := ∀ l, m'.get l = m.get l

/-- The memory after the write requests of bytes have been applied in order. -/
def applied (m : Memories) (rs : List WagonReq) : Memories := rs.foldl (fun m r => m.writeMasked r.line r.bytes) m

/-- `t` is what a cold reset makes of `s` (R460): every group at its reset value, the device held in reset with RST_CAUSE, and what lies
outside the device kept: the queue, host memory, the flash and its counter, the PERST# pins. -/
def ColdAfter (s t : State) (cause : Nat) : Prop :=
  Frame [.pending, .stepping, .boot, .mem, .hosts, .pwr] State.reset t ∧ t.pending = s.pending ∧ t.stepping = s.stepping
    ∧ t.boot = { State.reset.boot with flash := s.boot.flash, flashSize := s.boot.flashSize, fctr := s.boot.fctr }
    ∧ t.mem = { State.reset.mem with host := s.mem.host }
    ∧ t.pwr = { State.reset.pwr with rstCause := cause, inReset := true }
    ∧ ∀ k, k < 4 → t.hostFn k = { HostFn.reset with perst := (s.hostFn k).perst }

/-- A slot has been rejected (R423, R433, R447): the failure is noted, and the other slot is tried, if its header is valid and it has not
been; else the device is unserviceable. -/
def Rejected (s t : State) (code : Nat) : Prop :=
  let b := s.boot
  let other := 1 - b.slot
  t.boot.failCode = BitVec.ofNat 8 code ∧ t.boot.tried = b.tried ++ [b.slot] ∧ t.boot.flash = b.flash
    ∧ (other ∉ b.tried ++ [b.slot] → headOk (b.img other) = true → t.boot.slot = other ∧ t.boot.phase = 3 ∧ t.boot.tLoad = b.tLoad)
    ∧ (other ∈ b.tried ++ [b.slot] ∨ headOk (b.img other) = false → t.boot.phase = 8 ∧ t.boot.devReady = false)

/-- The master whose register write a command is. -/
def writerOf : Instr → Option Master
  | .registerWrite w _ _ _ | .lowHalfWrite w _ _ | .highHalfWrite w _ _ | .bind w _ _ _ | .unbind w _ _ | .load w _ _
  | .swap w _ _ | .sync w _ _ | .map w _ _ | .fork w _ _ | .trim w _ _ | .move w _ _ | .query w _ _ | .count w _ _
  | .xltInval w _ | .enable w _ | .preempt w _ | .restore w _ | .reset w _ | .ctxSeedWrite w _ _ | .ctxStepWrite w _ _
  | .ctxProfWrite w _ _ | .ctxShareWrite w _ _ | .sqDoorbell w _ _ _ | .cqHeadWrite w _ _ | .abort w _ _ _ | .sigBind w _ _ _
  | .sigUnbind w | .sigPost w _ _ | .clrsat w | .sigAdd w _ _ | .mbxLockWrite w _ _ | .mbxDbset w _ _ | .mbxDbclr w _ _
  | .mbxMask w _ _ | .warm w _ | .pwrLtrWrite w _ | .pwrTmoWrite w _ | .arm w _ | .mark w _ | .go w _ | .resume w _
  | .train w _ | .disable w _ | .ttArm w => some w
  | _ => none

/-- The offset that a command's register access names. -/
def offsetOf : Instr → Option Nat
  | .registerWrite _ off _ _ | .lowHalfWrite _ off _ | .highHalfWrite _ off _ => some off
  | _ => none

/-- The commands that may reset the whole device (R460). -/
def coldRow : Instr → Bool
  | .powerUp | .supplyReset _ | .sysRstNAssert _ | .sysRstNRelease _ _ | .thermalTrip _ _ _ _ | .hbmTempChange _ _ => true
  | _ => false

/-- The commands of the sequencers, the engines and the links: they leave the configuration, the boot, the clocks, the tables, the mailboxes and
the power state alone. -/
def lifeRow : Instr → Bool
  | .xltInvalComplete _ | .ctxSaveDone _ | .ctxRestoreDone _ | .cmdFetch _ _ | .cmdAdmit | .admitTimeout _ _ | .cmdStart _
  | .cmdRetire _ | .waitTimeout _ | .stallTimeout _ | .ctxWatchdog _ | .yield _ | .loopIteration _ | .dualPathDecision _
  | .wagonArrive _ | .wagonAck _ | .wagonTimeout _ | .readWagonServe _ _ | .writeWagonApply _ | .accWagonApply _ _
  | .pagedWrite _ | .matmul _ | .conv _ | .attnFwd _ | .attnBwd _ | .vecfn _ | .norm _ | .copy _ | .migrate _ | .reduce _
  | .gather _ | .permute _ | .update _ | .signal _ | .fence _ | .stepLoop _ | .fusedChain _ | .sample | .dumpDone
  | .bookTimeout _ | .flitRx _ _ | .replayTimeout _ | .trainTimeout _ | .laneLockLoss _ | .rdReq _ _ | .wr _ _ | .wrMask _ _
  | .rdRsp _ _ | .wrAck _ _ | .errRsp _ _ | .credit _ _ | .creditReturnTimer _ | .creditStall _ _ | .timeReq _ _
  | .ringChunkRx _ _ | .ringCreditRx _ _ | .ringCancel _ _ | .ringTimeout _ | .openFrame _ _ | .grantFrame _ _
  | .rejectFrame _ _ | .dataFrame _ _ | .pendingOpenTimeout _ | .collectiveTimeout _ | .yardCancel _ _ | .drainTimeout _
  | .hdmDecoderCommit _ _ _ _ | .h2dSnoop _ _ | .getVersion _ | .getCapabilities _ | .negotiateAlgorithms _ _ | .getDigests _
  | .getCertificate _ _ _ _ | .challenge _ _ _ | .getMeasurements _ _ _ _ | .unsupportedRequest _ _ | .perstRelease _
  | .patrolScrub _ _ | .preemptRetireTimeout _ | .departureWindow _ | .hostLinkUp _ _ _ _ | .traceRecordSent => true
  | _ => false

/-- The commands that may be a cold or a warm reset, or complete a warm reset (R460, R461); WARM is also a write of PWR_CTRL. -/
def resetRow : Instr → Bool
  | .powerUp | .supplyReset _ | .sysRstNAssert _ | .sysRstNRelease _ _ | .thermalTrip _ _ _ _ | .hbmTempChange _ _ | .warm _ _
  | .ctxResetDone _ => true
  | .registerWrite _ off _ _ | .lowHalfWrite _ off _ | .highHalfWrite _ off _ => off == 0x400008
  | _ => false

end Sys2Proof.Machine
end

