-- ==== Sys2Proof/Certificates/Slice0/Obligations.lean ====
section
/-!
DEFINITION. The statements for the provers. Each is a closed proposition about `exec` and `step`; the docstring names the rules
of spec/ that it formalises, and the log entry where a clause is the model's own choice.
-/

open Sys2Proof Sys2Proof.Machine

/-! ## The queue of commands, and reset -/

/-- A step executes the command at the front of the queue on the state with the queue's rest; an empty queue is a tick of the fabric-time
clock. The model's own choice (log 1). Every command answers a next state and leaves the waiting commands as they are, so commands are
executed one at a time, first in first out (log 1). -/
def Obligations.CommandsAreExecutedInOrder : Prop :=
  ((∀ (s : State) (c : Instr) (rest : List Instr), s.pending = c :: rest → step s = exec c { s with pending := rest })
      ∧ (∀ s : State, s.pending = [] → step s = .next s.tick))
  ∧ (∀ (c : Instr) (s : State), ∃ t, exec c s = .next t ∧ t.pending = s.pending)

/-- The block after cold reset (R290, R304, R324, R325, R351, R418, R419, R451, R460, R463, R464): the values that the spec states. The
queue, the memories and the tables are empty (logs 1, 3). -/
def Obligations.ResetLeavesTheStatedValues : Prop :=
  let s := State.reset
  s.pending = [] ∧ s.cfg.cfgDone = false ∧ s.boot.phase = 0 ∧ s.boot.devReady = false ∧ s.time.now = 0 ∧ s.time.timeOk = false
    ∧ s.time.srcPort = 15 ∧ s.pwr.rstCause = 0 ∧ s.pwr.idleEn = 7 ∧ s.pwr.cap = 400 ∧ s.pwr.wagonUs = 50 ∧ s.pwr.stallMs = 10
    ∧ s.log.next = 0 ∧ s.log.entries = [] ∧ s.mem.wf = true ∧ s.cmdList = [] ∧ s.cmds.wagons = [] ∧ (∀ o, Tab.get 0 s.cnt o = 0)
    ∧ (∀ c, (s.ctx c).state = .off ∧ (s.ctx c).fault = false ∧ (s.ctx c).seed = 0 ∧ (s.ctx c).step = 0 ∧ (s.ctx c).weight = 1
      ∧ (s.ctx c).admitMs = 10 ∧ (s.ctx c).wdogS = 10 ∧ (s.ctx c).cmdLimit = 0)
    ∧ (∀ n, (s.sigOf n).state = .free) ∧ (∀ kind slot, (s.tblSlot kind slot).bound = false) ∧ (∀ p, (s.port p).state = .off)
    ∧ (∀ h, (s.hostFn h).width = 0 ∧ (s.hostFn h).committed = false)
    ∧ (∀ c, (s.chan c).owner = 0 ∧ (s.chan c).db = 0 ∧ (s.chan c).mask = 0xFFFFFFFF)

/-! ## Registers (R7–R9, R403) -/

/-- The two halves of a 64-bit register (R8): a read of the low half latches the high half for the next read of it; without a latch the high
half is read as it is now; a low half that is written is held, and the write of the high half commits both; a write of the high half with
nothing held has no effect but its log entry. A write of the low half and then of the high half does what one 64-bit write of the register
does (R8), and a 64-bit read answers the whole register at once. A misaligned access, and one that spans two registers or is wider than its
register (R7): a read returns zero, a write has no effect, and each is logged. The rows of a context's window are writes of its registers
(R292–R294, R304, R307): the 64-bit or 32-bit write of the register does what the row does. -/
def Obligations.WideRegistersAreWrittenInHalves : Prop :=
  (∀ (mst : Master) (off : Nat) (r : Reg) (s : State), s.regReady mst (offNeeds off) = true → bootHidden mst off = false →
      (spot32 off = .low r →
        (∃ t, exec (.lowHalfRead mst ⟨off, .w32⟩) s = .next t ∧ t.bus.resp = BitVec.ofNat 64 ((s.clearBus mst).regRead mst r % 2 ^ 32)
          ∧ t.latchOf mst = some ⟨r.off, BitVec.ofNat 32 (hiHalf ((s.clearBus mst).regRead mst r))⟩ ∧ t.holdOf mst = none ∧ Frame [.bus] s t)
        ∧ (∀ lo : Word, ∃ t, exec (.lowHalfWrite mst off lo) s = .next t ∧ t.holdOf mst = some ⟨r.off, lo⟩ ∧ t.latchOf mst = none
          ∧ Frame [.bus] s t))
      ∧ (spot32 off = .high r →
        (∀ h : Word, s.latchOf mst = some ⟨r.off, h⟩ →
          exec (.lowHalfRead mst ⟨off, .w32⟩) s = .next ((s.clearBus mst).answer h.toNat))
        ∧ ((∀ l, s.latchOf mst = some l → l.reg ≠ r.off) →
          exec (.lowHalfRead mst ⟨off, .w32⟩) s = .next ((s.clearBus mst).answer (hiHalf ((s.clearBus mst).regRead mst r))))
        ∧ (∀ lo hi : Word, s.holdOf mst = some ⟨r.off, lo⟩ →
          exec (.highHalfWrite mst off hi) s = .next (regWrite mst r (hi ++ lo) (s.clearBus mst)))
        ∧ (∀ hi : Word, (∀ l, s.holdOf mst = some l → l.reg ≠ r.off) →
          exec (.highHalfWrite mst off hi) s = .next ((s.clearBus mst).logReg mst off))))
  ∧ (∀ (mst : Master) (off : Nat) (r : Reg) (lo hi : Word) (s : State), s.regReady mst (offNeeds off) = true → bootHidden mst off = false →
      regAt off = some r → r.wide = true → off % 8 = 0 →
      ∃ t, exec (.lowHalfWrite mst off lo) s = .next t
        ∧ exec (.highHalfWrite mst (off + 4) hi) t = exec (.registerWrite mst off .w64 (hi ++ lo)) s
        ∧ exec (.registerWrite mst off .w64 (hi ++ lo)) s = .next (regWrite mst r (hi ++ lo) (s.clearBus mst))
        ∧ exec (.lowHalfRead mst ⟨off, .w64⟩) s
          = .next (((s.clearBus mst).afterRead mst r).answer ((s.clearBus mst).regRead mst r)))
  ∧ (∀ (mst : Master) (off : Nat) (width : Width) (v : Dword) (s : State), s.regReady mst (offNeeds off) = true → bootHidden mst off = false →
      pciHost mst off = none → spotOf off width = .bad →
      exec (.lowHalfRead mst ⟨off, width⟩) s = .next (((s.clearBus mst).logReg mst off).answer 0)
      ∧ exec (.registerWrite mst off width v) s = .next ((s.clearBus mst).logReg mst off))
  ∧ (∀ (mst : Master) (ctx q : Nat) (v : Dword) (w : Word) (s : State), ctx < 4096 → q < 4 → s.regOpen mst = false ∨ s.regReady mst true = true →
      exec (.registerWrite mst (0x100010 + 0x100 * ctx) .w64 v) s = exec (.ctxSeedWrite mst ctx v) s
      ∧ exec (.registerWrite mst (0x100018 + 0x100 * ctx) .w64 v) s = exec (.ctxStepWrite mst ctx v) s
      ∧ exec (.registerWrite mst (0x100028 + 0x100 * ctx) .w64 v) s = exec (.ctxShareWrite mst ctx v) s
      ∧ exec (.registerWrite mst (0x100098 + 0x100 * ctx) .w32 (w.setWidth 64)) s = exec (.ctxProfWrite mst ctx w) s
      ∧ exec (.registerWrite mst (0x100048 + 0x100 * ctx + 0x10 * q) .w32 (w.setWidth 64)) s = exec (.sqDoorbell mst ctx q w) s
      ∧ exec (.registerWrite mst (0x100088 + 0x100 * ctx) .w32 (w.setWidth 64)) s = exec (.cqHeadWrite mst ctx w) s
      ∧ exec (.registerWrite mst (0x100030 + 0x100 * ctx) .w64 (w ++ BitVec.ofNat 32 q)) s = exec (.abort mst ctx q w) s
      ∧ exec (.registerWrite mst (0x100008 + 0x100 * ctx) .w32 1) s = exec (.enable mst ctx) s
      ∧ exec (.registerWrite mst (0x100008 + 0x100 * ctx) .w32 2) s = exec (.preempt mst ctx) s
      ∧ exec (.registerWrite mst (0x100008 + 0x100 * ctx) .w32 3) s = exec (.restore mst ctx) s
      ∧ exec (.registerWrite mst (0x100008 + 0x100 * ctx) .w32 4) s = exec (.reset mst ctx) s)

/-- Registers that are not open to a master (R403 for a host before CFG_DONE, R399 and R413 for a host whose link is down; for the management
core, D and the sequencers of a device in reset, and for a host function that is absent, the model's own choice: log 60): its writes have no
effect and are not logged, and its reads return zero, but for GCTL_ID and GCTL_PROFILE, which a host reads. (The regions of a host function
other than BAR0 are no registers of this window.) -/
def Obligations.ClosedRegistersDoNothing : Prop :=
  ∀ (mst : Master) (s : State), s.regOpen mst = false →
    (∀ c : Instr, writerOf c = some mst → (∀ off, offsetOf c = some off → pciHost mst off = none) → exec c s = .next (s.clearBus mst))
    ∧ (∀ ch, exec (.mbxLockRead mst ch) s = .next ((s.clearBus mst).answer 0))
    ∧ (∀ off, pciHost mst off = none → mst.host? = none ∨ (off ≠ 0 ∧ off ≠ 4) → exec (.lowHalfRead mst ⟨off, .w32⟩) s = .next ((s.clearBus mst).answer 0))

/-! ## Contexts (R289–R294, R302, R304, R307, R312, R317–R321) -/

/-- CTX_SEED and CTX_STEP (R194, R292) are set while no command of the context is unretired; while one is, the write has no effect but its
log entry. CTX_PROF (R293) is set while the context is OFF; a CMD_LIMIT above 4,096 leaves CMD_LIMIT as it was, and is logged (log 61).
CTX_SHARE (R304): each of WEIGHT, ADMIT_MS and WDOG_S takes a value in its range and stays as it was otherwise; QUOTA_CMDS and
QUOTA_PLAT are the management view's, until the configuration load has completed. -/
def Obligations.ContextRegistersTakeTheirValues : Prop :=
  (∀ (mst : Master) (ctx : Nat) (v : Dword) (s : State), s.ctxOpen mst ctx →
      ((∀ c ∈ s.allCmds, c.ctx ≠ ctx) →
        exec (.ctxSeedWrite mst ctx v) s = .next ((s.clearBus mst).setCtx ctx { s.ctx ctx with seed := v })
        ∧ exec (.ctxStepWrite mst ctx v) s = .next ((s.clearBus mst).setCtx ctx { s.ctx ctx with step := v }))
      ∧ ((∃ c ∈ s.allCmds, c.ctx = ctx) →
        exec (.ctxSeedWrite mst ctx v) s = .next ((s.clearBus mst).logCtx mst ctx 0x10)
        ∧ exec (.ctxStepWrite mst ctx v) s = .next ((s.clearBus mst).logCtx mst ctx 0x18)))
  ∧ (∀ (mst : Master) (ctx : Nat) (v : Word) (s : State), s.ctxOpen mst ctx →
      let x := s.ctx ctx
      let y (lim : Nat) : Ctx := { x with dlStrict := v.getLsbD 0, detOrder := v.getLsbD 1, noZspec := v.getLsbD 2
                                          noEarly := v.getLsbD 3, cmdLimit := lim }
      (x.state = .off → v.toNat / 2 ^ 16 ≤ 4096 →
        exec (.ctxProfWrite mst ctx v) s = .next ((s.clearBus mst).setCtx ctx (y (v.toNat / 2 ^ 16))))
      ∧ (x.state = .off → 4096 < v.toNat / 2 ^ 16 →
        exec (.ctxProfWrite mst ctx v) s = .next (((s.clearBus mst).setCtx ctx (y x.cmdLimit)).logCtx mst ctx 0x98))
      ∧ (x.state ≠ .off → exec (.ctxProfWrite mst ctx v) s = .next ((s.clearBus mst).logCtx mst ctx 0x98)))
  ∧ (∀ (mst : Master) (ctx : Nat) (v : Dword) (s : State), s.ctxOpen mst ctx →
      let x := s.ctx ctx
      let w := v.toNat % 2 ^ 8
      let a := v.toNat / 2 ^ 8 % 2 ^ 16
      let d := v.toNat / 2 ^ 24 % 2 ^ 6
      let q := (v.toNat / 2 ^ 32 % 2 ^ 13, v.toNat / 2 ^ 48)
      let y : Ctx := { x with weight := if w = 0 then x.weight else w, admitMs := if 1 ≤ a ∧ a ≤ 1000 then a else x.admitMs
                              wdogS := if 10 ≤ d ∧ d ≤ 60 then d else x.wdogS }
      let good := w ≠ 0 ∧ 1 ≤ a ∧ a ≤ 1000 ∧ 10 ≤ d ∧ d ≤ 60
      (mst.host?.isSome = true → good → exec (.ctxShareWrite mst ctx v) s = .next ((s.clearBus mst).setCtx ctx y))
      ∧ (mst.host?.isSome = true → ¬good →
        exec (.ctxShareWrite mst ctx v) s = .next (((s.clearBus mst).setCtx ctx y).logCtx mst ctx 0x28))
      ∧ (mst.host? = none → s.cfg.cfgDone = false → good → q.1 ≤ 4096 →
        ∃ t, exec (.ctxShareWrite mst ctx v) s = .next t ∧ t.ctx ctx = y ∧ OtherCtxs ctx s t
          ∧ Tab.get (0, 0) t.cfg.quota ctx = q ∧ (∀ e, e ≠ ctx → Tab.get (0, 0) t.cfg.quota e = Tab.get (0, 0) s.cfg.quota e)
          ∧ Frame [.bus, .cfg, .ctxs] s t)
      ∧ (mst.host? = none → s.cfg.cfgDone = true → good → q ≠ Tab.get (0, 0) s.cfg.quota ctx →
        exec (.ctxShareWrite mst ctx v) s = .next (((s.clearBus mst).setCtx ctx y).logCtx mst ctx 0x28)))

/-- A doorbell (R294, R295, R465): a tail that moves forward and leaves no more than the queue's records between head and tail is taken, and
a queue that a fault had stopped fetches again; any other tail has no effect but its log entry. CTX_CQ_HEAD (R294, R312, R465): a head
between the present head and the tail is taken; the waiting records are then written in order, as far as there is room, and leave the
front of the waiting list. A queue whose LOG2N is 0 holds no records (the model's choice: log 30). -/
def Obligations.QueuePointersMove : Prop :=
  (∀ (mst : Master) (ctx q : Nat) (v : Word) (s : State), s.ctxOpen mst ctx →
      let u := (s.ctx ctx).sq q
      let size := if u.log2n = 0 then 0 else 2 ^ u.log2n
      let fits := (v = u.tail ∨ (1 ≤ (v - u.tail).toNat ∧ (v - u.tail).toNat ≤ 2 ^ 31 - 1)) ∧ (v - u.head).toNat ≤ size
      (fits → exec (.sqDoorbell mst ctx q v) s
          = .next ((s.clearBus mst).setCtx ctx ((s.ctx ctx).setSq q { u with tail := v, fault := false })))
      ∧ (¬fits → exec (.sqDoorbell mst ctx q v) s = .next ((s.clearBus mst).logCtx mst ctx (0x48 + 0x10 * q))))
  ∧ (∀ (mst : Master) (ctx : Nat) (v : Word) (s : State), s.ctxOpen mst ctx →
      let q := (s.ctx ctx).cq
      let fits := (v - q.head).toNat ≤ 2 ^ 31 - 1 ∧ (q.tail - v).toNat ≤ 2 ^ 31 - 1
      (fits → ∃ t, exec (.cqHeadWrite mst ctx v) s = .next t ∧ OtherCtxs ctx s t
        ∧ (let r := (t.ctx ctx).cq
          { t.ctx ctx with cq := q } = s.ctx ctx ∧ r.log2n = q.log2n ∧ r.addr = q.addr ∧ r.head = v
          ∧ r.waiting.map (·.bytes) = (q.waiting.map (·.bytes)).drop (r.tail - q.tail).toNat
          ∧ (r.waiting = [] ∨ r.room = false
            ∨ (t.rangeFault ctx (r.addr * 4096 + 64 * (r.tail.toNat % 2 ^ r.log2n)) 64 true).isSome = true)))
      ∧ (fits → q.waiting = [] →
        exec (.cqHeadWrite mst ctx v) s = .next ((s.clearBus mst).setCtx ctx { s.ctx ctx with cq := { q with head := v } }))
      ∧ (¬fits → exec (.cqHeadWrite mst ctx v) s = .next ((s.clearBus mst).logCtx mst ctx 0x88)))

/-- ENABLE (R291, R302, R467): an OFF context becomes ON with FAULT clear, its six counters at zero, and the least virtual time among the ON
contexts, or its own when none is ON (the model's choice: log 79); from another state, and while a warm reset goes on (R461, log 53), the
operation has no effect but its log entry. PREEMPT (R291, R318, R320): an ON context whose save area will do becomes PREEMPTING, and its
commands that have not started and convert no ALT (log 18) release what they hold; a save area that is too small or outside the partition
resets the context. From another state the operation has no effect but its log entry. During a dump's freeze it waits (log 62). -/
def Obligations.EnableAndPreemptMoveAContext : Prop :=
  (∀ (mst : Master) (ctx : Nat) (s : State), s.ctxOpen mst ctx →
      ((s.ctx ctx).state = .off → s.pwr.warming = false → ∃ t, exec (.enable mst ctx) s = .next t
        ∧ t.ctx ctx = { s.ctx ctx with state := .on, fault := false, vtime := (t.ctx ctx).vtime } ∧ OtherCtxs ctx s t
        ∧ (∀ e ∈ s.ctxs, e.2.state = .on → (t.ctx ctx).vtime ≤ e.2.vtime)
        ∧ ((∀ e ∈ s.ctxs, e.2.state ≠ .on) → (t.ctx ctx).vtime = (s.ctx ctx).vtime)
        ∧ (∀ i, i < 6 → Tab.get 0 t.cnt (cntCtx ctx i) = 0)
        ∧ (∀ o, (∀ i, i < 6 → o ≠ cntCtx ctx i) → Tab.get 0 t.cnt o = Tab.get 0 s.cnt o)
        ∧ Frame [.bus, .cnt, .trc, .ctxs] s t)
      ∧ ((s.ctx ctx).state ≠ .off ∨ s.pwr.warming = true →
        exec (.enable mst ctx) s = .next ((s.clearBus mst).logCtx mst ctx 0x08)))
  ∧ (∀ (mst : Master) (ctx : Nat) (s : State), s.ctxOpen mst ctx →
      (s.trc.dump.busy = false → (s.ctx ctx).state = .on → s.saveAreaBad ctx = none →
        ∃ t, exec (.preempt mst ctx) s = .next t ∧ (t.ctx ctx).state = .preempting ∧ (t.ctx ctx).preemptBy = s.stallDue
          ∧ OtherCtxs ctx s t
          ∧ (∀ slot c, s.cmd? slot = some c → c.ctx = ctx → c.started = false → isError c.st = false → c.converting = false →
            ∃ c', t.cmd? slot = some c' ∧ c'.resv = { Resv.none with pins := c.resv.pins } ∧ c'.tiles = [] ∧ (c.op ≠ 8 → c'.outQ = [])
              ∧ c'.phase = c.phase ∧ c'.seed = c.seed ∧ c'.step = c.step)
          ∧ (∀ slot, (∀ e ∈ s.cmdList, e.1 = slot → e.2.ctx ≠ ctx) → t.cmd? slot = s.cmd? slot)
          ∧ Frame [.bus, .cnt, .trc, .ctxs, .cmds] s t)
      ∧ (s.trc.dump.busy = false → (s.ctx ctx).state = .on → s.saveAreaBad ctx ≠ none →
        ∃ t, exec (.preempt mst ctx) s = .next t ∧ (t.ctx ctx).state = .resetting)
      ∧ (s.trc.dump.busy = false → (s.ctx ctx).state ≠ .on →
        exec (.preempt mst ctx) s = .next ((s.clearBus mst).logCtx mst ctx 0x08))
      ∧ (s.trc.dump.busy = true → exec (.preempt mst ctx) s = .next ((s.clearBus mst).holdBack (.preempt mst ctx))))

/-- CTX_SAVE_DONE (R319, R337): once every command of a PREEMPTING context may be saved and no wagon of it is in flight, the context is
SAVED: its commands leave their slots for the saved state in admission order, its signals show OWNER_SAVED, and of all memory only the save
area is written, for the length of the saved state (its bytes are free values: log 16). RESTORE and
CTX_RESTORE_DONE (R291, R302, R320, R329, R337, R338): a SAVED context whose signals are still its own becomes RESTORING; once every saved
command has been admitted again it is ON, with the least virtual time among the ON contexts, the waits of its commands go on from now, and
its signals show OWNER_SAVED no more. From another state RESTORE has no effect but its log entry. -/
def Obligations.SavedContextsComeBack : Prop :=
  (∀ (ctx : Nat) (s : State),
      let cs := (s.inOrder ctx).filter (fun e => decide (e.1 < 4096))
      (s.ctx ctx).state = .preempting → s.trc.dump.busy = false → (∀ e ∈ cs, e.2.savable = true) →
      (∀ w ∈ s.cmds.wagons, w.ctx = ctx → w.timedOut = true) →
      ∃ t, exec (.ctxSaveDone ctx) s = .next t ∧ (t.ctx ctx).state = .saved
        ∧ ((t.ctx ctx).saved.map (·.cmds)) = some (cs.map (fun e => e.2.toRecord s.time.cmdClk))
        ∧ (∀ slot c, slot < 4096 → t.cmd? slot = some c → c.ctx ≠ ctx)
        ∧ (∀ slot, (∀ e ∈ s.cmdList, e.1 = slot → e.2.ctx ≠ ctx) → (∀ e ∈ cs, e.2.parent ≠ some slot) → t.cmd? slot = s.cmd? slot)
        ∧ (∀ n ∈ s.ownedSigs ctx, (t.sigOf n).ownerSaved = true)
        ∧ { t.mem with hbm := s.mem.hbm } = s.mem
        ∧ (∀ pa, (∀ i, i < ceilDiv (s.saveLen ctx) 65536 → ∀ b, s.saveAt ctx i = some b →
            pa < b ∨ b + min 65536 (s.saveLen ctx - 65536 * i) ≤ pa) → t.mem.get (.hbm pa) = s.mem.get (.hbm pa))
        ∧ OtherCtxs ctx s t ∧ Frame [.trc, .mem, .ctxs, .cmds, .sig, .fab] s t)
  ∧ ((∀ (mst : Master) (ctx : Nat) (s : State), s.ctxOpen mst ctx → s.trc.dump.busy = false →
      ((s.ctx ctx).state = .saved →
        (∀ v, (s.ctx ctx).saved = some v → ∀ p ∈ v.sigs, (s.sigOf p.1).state = .live ∧ (s.sigOf p.1).owner = ctx ∧ (s.sigOf p.1).cls = p.2) →
        exec (.restore mst ctx) s = .next ((s.clearBus mst).enterCtx ctx { s.ctx ctx with state := .restoring }))
      ∧ ((s.ctx ctx).state = .saved →
        (∃ v, (s.ctx ctx).saved = some v ∧ ∃ p ∈ v.sigs, (s.sigOf p.1).state ≠ .live ∨ (s.sigOf p.1).owner ≠ ctx ∨ (s.sigOf p.1).cls ≠ p.2) →
        ∃ t, exec (.restore mst ctx) s = .next t ∧ (t.ctx ctx).state = .resetting ∧ (t.ctx ctx).saved = none)
      ∧ ((s.ctx ctx).state ≠ .saved → exec (.restore mst ctx) s = .next ((s.clearBus mst).logCtx mst ctx 0x08)))
    ∧ (∀ (ctx : Nat) (s : State), (s.ctx ctx).state = .restoring → s.trc.dump.busy = false →
      (∀ v, (s.ctx ctx).saved = some v → v.cmds = []) →
      ∃ t, exec (.ctxRestoreDone ctx) s = .next t ∧ (t.ctx ctx).state = .on ∧ (t.ctx ctx).saved = none ∧ OtherCtxs ctx s t
        ∧ (∀ e ∈ s.ctxs, e.2.state = .on → (t.ctx ctx).vtime ≤ e.2.vtime)
        ∧ (∀ slot c, s.cmd? slot = some c → c.ctx = ctx → slot < 4096 → c.started = false →
          t.cmd? slot = some { c with waitAt := s.time.cmdClk })
        ∧ (∀ slot c, s.cmd? slot = some c → (∀ e ∈ s.cmdList, e.1 = slot → e.2.ctx ≠ ctx) ∨ c.started = true → t.cmd? slot = some c)
        ∧ (∀ n ∈ s.ownedSigs ctx, (t.sigOf n).ownerSaved = false) ∧ Frame [.trc, .ctxs, .cmds, .sig] s t))

/-- RESET and CTX_RESET_DONE (R291, R321, R336, R168, R373, R391): a context in any state but OFF and RESETTING becomes RESETTING with
nothing saved, fetched or waiting to be written; once it has no command and no wagon in flight it is OFF, its seed, step and queues are
cleared, its signals are ABANDONED, and no table slot, job or lease is its own. The context watchdog (R317, R480): the oldest command of
an ON or PREEMPTING context has waited for the whole period, so the context is reset with FAULT set; with AUTO_WDOG a dump starts
instead, and the reset follows it. -/
def Obligations.ResetsAndWatchdogsEmptyAContext : Prop :=
  ((∀ (mst : Master) (ctx : Nat) (s : State), s.ctxOpen mst ctx → s.trc.dump.busy = false →
      ((s.ctx ctx).state ≠ .off → (s.ctx ctx).state ≠ .resetting →
        ∃ t, exec (.reset mst ctx) s = .next t ∧ (t.ctx ctx).state = .resetting ∧ (t.ctx ctx).saved = none
          ∧ (t.ctx ctx).cq.waiting = [] ∧ (∀ q, ((t.ctx ctx).sq q).recs = []) ∧ (t.ctx ctx).fault = (s.ctx ctx).fault)
      ∧ ((s.ctx ctx).state = .off ∨ (s.ctx ctx).state = .resetting →
        exec (.reset mst ctx) s = .next ((s.clearBus mst).logCtx mst ctx 0x08)))
    ∧ (∀ (ctx : Nat) (s : State), (s.ctx ctx).state = .resetting → s.trc.dump.busy = false →
      (∀ e ∈ s.cmdList, e.2.ctx ≠ ctx) → (∀ w ∈ s.cmds.wagons, w.ctx = ctx → w.timedOut = true) →
      ∃ t, exec (.ctxResetDone ctx) s = .next t ∧ (t.ctx ctx).state = .off ∧ (t.ctx ctx).seed = 0 ∧ (t.ctx ctx).step = 0
        ∧ (∀ q, ((t.ctx ctx).sq q).head = ((t.ctx ctx).sq q).tail ∧ ((t.ctx ctx).sq q).recs = [] ∧ ((t.ctx ctx).sq q).fault = false)
        ∧ (∀ n ∈ s.ownedSigs ctx, (t.sigOf n).state = .abandoned)
        ∧ (∀ k, k / 4096 ≠ 4 → (Tab.get TblSlot.unbound t.tbl.slots k).bound = true → (Tab.get TblSlot.unbound t.tbl.slots k).ctx ≠ ctx)
        ∧ (∀ k j, Tab.get none t.yard.jobs k = some j → j.ctx ≠ ctx) ∧ (∀ k l, Tab.get none t.yard.leases k = some l → l.ctx ≠ ctx)))
  ∧ (∀ (ctx : Nat) (s : State) (at_ : Dword),
      (s.ctx ctx).wdogFrom = some at_ → (∃ e ∈ s.inOrder ctx, e.1 < 4096) → (s.ctx ctx).state = .on ∨ (s.ctx ctx).state = .preempting →
      s.trc.dump.busy = false → at_.toNat + (s.ctx ctx).wdogS * 1000000000 ≤ s.time.cmdClk.toNat →
      (s.trc.dump.autoWdog = false → ∃ t, exec (.ctxWatchdog ctx) s = .next t ∧ (t.ctx ctx).state = .resetting ∧ (t.ctx ctx).fault = true
        ∧ (t.ctx ctx).cq.waiting = [] ∧ (∀ q, ((t.ctx ctx).sq q).recs = []))
      ∧ (s.trc.dump.autoWdog = true → ∃ t, exec (.ctxWatchdog ctx) s = .next t ∧ t.trc.dump.busy = true ∧ t.trc.dump.done = false
        ∧ t.trc.dump.wdogCtx = some ctx ∧ Frame [.log, .trc, .hosts] s t))

/-- The outcome of CTX_ABORT (R307): RANGE for a SEQ at or past the tail, ALREADY_DONE for one that names nothing any more or that stands at its
retire point, ABORTED for a fetched record that has not been admitted, which leaves the queue, and for a started command, which stops. -/
def Obligations.AbortReportsItsOutcome : Prop :=
  ∀ (mst : Master) (ctx q : Nat) (seq : Word) (s : State), s.ctxOpen mst ctx → s.trc.dump.busy = false →
    (s.ctx ctx).abortBusy = false →
    let v := (s.ctx ctx).sq q
    let before := 1 ≤ (v.tail - seq).toNat ∧ (v.tail - seq).toNat ≤ 2 ^ 31 - 1
    (¬before → exec (.abort mst ctx q seq) s = .next ((s.clearBus mst).setCtx ctx { s.ctx ctx with abortRes := stRange }))
    ∧ (before → (s.ctx ctx).saved = none → (∀ e ∈ s.cmdList, ¬(e.2.ctx = ctx ∧ e.2.queue = q ∧ e.2.seq = seq)) →
      (∀ r ∈ v.recs, r.seq ≠ seq) → v.head ≠ seq → serialAfter 32 v.head.toNat seq.toNat = false →
      exec (.abort mst ctx q seq) s = .next ((s.clearBus mst).setCtx ctx { s.ctx ctx with abortRes := stAlreadyDone }))
    ∧ (before → (s.findTarget ctx q seq).2 = none → (∃ r ∈ v.recs, r.seq = seq) →
      ∃ t, exec (.abort mst ctx q seq) s = .next t ∧ (t.ctx ctx).abortRes = stAborted ∧ (t.ctx ctx).state = (s.ctx ctx).state
        ∧ (∀ r ∈ ((t.ctx ctx).sq q).recs, r.seq ≠ seq))
    ∧ (∀ slot c, before → slot < 4096 → s.findTarget ctx q seq = (s, some slot) → s.cmd? slot = some c → c.dual = none → c.loop = none →
      c.phase = .started → isError c.st = false →
      ∃ t c', exec (.abort mst ctx q seq) s = .next t ∧ (t.ctx ctx).abortRes = stAborted ∧ t.cmd? slot = some c' ∧ c'.st = stAborted
        ∧ c'.phase = .worked ∧ (c.op ≠ 8 → c'.outQ = []) ∧ c'.tiles = [])
    ∧ (∀ slot c, before → s.findTarget ctx q seq = (s, some slot) → s.cmd? slot = some c → s.atRetirePoint slot c = true →
      exec (.abort mst ctx q seq) s = .next ((s.clearBus mst).setCtx ctx { s.ctx ctx with abortRes := stAlreadyDone }))

/-! ## The life of a command (R295, R300–R318, R329, R332, R410) -/

/-- CMD_FETCH (R295): a burst of up to 16 records, in SEQ order from the head; a record that cannot be read stops the queue with the
head at it, and is logged. -/
def Obligations.FetchTakesABurst : Prop :=
  ∀ (ctx q : Nat) (s : State), q < 4 → (s.ctx ctx).state = .on → s.trc.dump.busy = false → s.dieStopped = false →
    let v := (s.ctx ctx).sq q
    let n := min 16 (v.tail - v.head).toNat
    let read (i : Nat) : Option (List Byte) :=
      s.rdRecord ctx (v.addr * 4096 + 128 * ((v.head + BitVec.ofNat 32 i).toNat % 2 ^ v.log2n)) 128
    let got (m : Nat) : List Fetched := (List.range m).map (fun i => ⟨v.head + BitVec.ofNat 32 i, (read i).getD [], s.time.now, none⟩)
    v.log2n ≠ 0 → v.fault = false → v.dead = [] →
    ((∀ i, i < n → (read i).isSome = true) →
      ∃ t, exec (.cmdFetch ctx q) s = .next t
        ∧ (t.ctx ctx).sq q = { v with head := v.head + BitVec.ofNat 32 n, recs := v.recs ++ got n }
        ∧ (∀ p, p < 4 → p ≠ q → (t.ctx ctx).sq p = (s.ctx ctx).sq p) ∧ OtherCtxs ctx s t ∧ Frame [.ctxs] s t)
    ∧ (∀ m, m < n → (∀ i, i < m → (read i).isSome = true) → read m = none →
      ∃ t, exec (.cmdFetch ctx q) s = .next t
        ∧ (t.ctx ctx).sq q = { v with head := v.head + BitVec.ofNat 32 m, recs := v.recs ++ got m, fault := true }
        ∧ OtherCtxs ctx s t ∧ Frame [.ctxs, .log, .trc, .hosts] s t)

/-- CMD_ADMIT (R300, R301): the first candidate that is decided now. One that fits leaves its queue for the lowest free slot, with its
context's seed and step and the next admission number; one that a check refuses leaves its queue; nothing happens while every candidate
waits. ADMIT_TIMEOUT (R303): a candidate that has waited for ADMIT_MS ends an admitted, unstarted, younger command that holds what it
lacks; where there is none, it ends itself. -/
def Obligations.AdmissionDecides : Prop :=
  (∀ s : State,
      ((∀ k ∈ s.cands, ∃ l, (s.verdict k).1 = .wait l) → exec .cmdAdmit s = .next s)
      ∧ (∀ (before after : List Cand) (k : Cand) (y : Ready), s.cands = before ++ k :: after →
        (∀ j ∈ before, ∃ l, (s.verdict j).1 = .wait l) → k.origin = .head →
        (s.verdict k = (.fits, y) → y.dual = none → s.blockedBy s.cands k y.need = false → s.yardInit (s.mkCmd k y (s.reserve y.need)) = none →
          ∃ t c, exec .cmdAdmit s = .next t ∧ t.cmd? s.freeSlot = some c ∧ c.ctx = k.ctx ∧ c.queue = k.queue ∧ c.seq = k.seq
            ∧ c.crec = y.rec_ ∧ c.stages = y.stages ∧ c.order = s.cmds.order ∧ t.cmds.order = s.cmds.order + 1
            ∧ c.seed = (s.ctx k.ctx).seed ∧ c.step = (s.ctx k.ctx).step ∧ c.resv = s.reserve y.need
            ∧ (c.phase = .admitted ∨ c.phase = .ready)
            ∧ ((t.ctx k.ctx).sq k.queue).recs = ((s.ctx k.ctx).sq k.queue).recs.drop 1)
        ∧ (∀ st, s.verdict k = (.reject st, y) →
          ∃ t, exec .cmdAdmit s = .next t ∧ ((t.ctx k.ctx).sq k.queue).recs = ((s.ctx k.ctx).sq k.queue).recs.drop 1
            ∧ t.cmds.order = s.cmds.order)))
  ∧ (∀ (ctx q : Nat) (s : State) (k : Cand) (y : Ready) (l : List Res), s.expired ctx q = some k → s.verdict k = (.wait l, y) →
      (youngest (k.fetchedAt, k.ctx) (s.blockers l) = none → k.origin = .head →
        ∃ t, exec (.admitTimeout ctx q) s = .next t ∧ ((t.ctx k.ctx).sq k.queue).recs = ((s.ctx k.ctx).sq k.queue).recs.drop 1)
      ∧ (∀ e, youngest (k.fetchedAt, k.ctx) (s.blockers l) = some e → s.cmd? e.1 = some e.2 → e.2.dual = none →
        ∃ t, exec (.admitTimeout ctx q) s = .next t ∧ t.cmd? e.1 = none))

/-- CMD_START (R267, R305, R316, R390): a command whose waits are satisfied and whose start departure has passed starts: its tokens are
used, its stall watchdog runs, and its streams run ahead of their consumers, which fetches tiles, keeps the list entries read for them
(R271; log 20), and changes nothing else of the command. A command that must wait for its lease entry notes from when it could
otherwise start (log 25). -/
def Obligations.StartUsesTheTokens : Prop :=
  ∀ (slot : Nat) (s : State) (c : Cmd), slot < 4096 → s.cmd? slot = some c → s.mayStart c = true → c.beforeMain = false →
    c.phase = .ready → c.op ≠ 11 →
    (∀ take, c.op ≠ 10 → c.yard = none → c.outQ = [] → s.leaseGo c = .go take →
      ∃ t c', exec (.cmdStart slot) s = .next t ∧ t.cmd? slot = some c'
        ∧ { c' with tiles := c.tiles, outQ := [], bursts := c.bursts, acc := c.acc }
          = { c with phase := .started, startAt := s.time.cmdClk, stallBy := s.stallDue, held := []
                     leased := c.leased || take, leaseAt := none }
        ∧ c'.acc = { c.acc with specFault := c'.acc.specFault }
        ∧ (∀ r ∈ c'.outQ, r.kind = .read ∧ r.spec = true)
        ∧ OtherSlots slot s t ∧ Frame [.cmds, .trc, .yard, .cnt, .fab, .log, .hosts] s t)
    ∧ (∀ take y, c.yard = some y → c.outQ = [] → s.leaseGo c = .go take → s.expectFault c = none → s.yardDown c y = false →
      ∃ t c', exec (.cmdStart slot) s = .next t ∧ t.cmd? slot = some c' ∧ c'.phase = .started ∧ c'.startAt = s.time.cmdClk
        ∧ c'.stallBy = s.stallDue ∧ c'.held = [] ∧ c'.leased = (c.leased || take) ∧ c'.leaseAt = none)
    ∧ (∀ upd, s.leaseGo c = .wait upd →
      ∃ t, exec (.cmdStart slot) s = .next t
        ∧ t.cmd? slot = some { c with leased := c.leased || upd, leaseAt := some (c.leaseAt.getD s.time.cmdClk)
                                      waitAt := if c.leaseAt.isSome then c.waitAt else s.time.cmdClk }
        ∧ OtherSlots slot s t ∧ Frame [.cmds, .yard] s t)

/-- CMD_RETIRE, SIGNAL and FENCE (R306, R332, R410, R469): at its retire point a command leaves its slot, no wagon names it any more, and
the counts of retired commands of the device and of its context rise by one; SIGNAL and FENCE do so in P0 (R454). The completion record
(R306, R310, R312, R408): a command that ends without an error, in a context whose completion queue lies in host memory and has room, writes
its 64 bytes at the tail with the queue's PHASE in bit 31 of the first word; the tail moves on by one, and the record enters the host's
ordered stream. -/
def Obligations.RetiringFreesAndReports : Prop :=
  (∀ (slot : Nat) (s : State) (c : Cmd), slot < 4096 → s.trc.dump.busy = false → s.cmd? slot = some c → c.dual = none → c.parent = none →
      let left (t : State) : Prop := t.cmd? slot = none ∧ (∀ w ∈ t.cmds.wagons, w.req.slot ≠ slot)
        ∧ Tab.get 0 t.cnt (cntDev 16) = Tab.get 0 s.cnt (cntDev 16) + 1
        ∧ Tab.get 0 t.cnt (cntCtx c.ctx 0) = Tab.get 0 s.cnt (cntCtx c.ctx 0) + 1
      (s.atRetirePoint slot c = true → ∃ t, exec (.cmdRetire slot) s = .next t ∧ left t)
      ∧ (c.phase = .ready ∨ c.phase = .started → s.departed c = true → s.asleep = false →
        (c.op = 0x0D → ∃ t, exec (.signal slot) s = .next t ∧ left t) ∧ (c.op = 0x0E → ∃ t, exec (.fence slot) s = .next t ∧ left t)))
  ∧ (∀ (slot h a : Nat) (s : State) (c : Cmd), slot < 4096 → s.trc.dump.busy = false → s.cmd? slot = some c →
      s.atRetirePoint slot c = true → c.started = true → isError c.st = false → c.dual = none → c.loop = none → c.parent = none → c.body = none →
      c.atRetire = [] → c.posts = [] → s.xlt.mig = [] → (s.ctx c.ctx).state ≠ .resetting →
      let q := (s.ctx c.ctx).cq
      let r := c.record c.st c.detail s.time.now
      q.log2n ≠ 0 → q.waiting = [] → q.room = true →
      s.acc c.ctx (q.addr * 4096 + 64 * (q.tail.toNat % 2 ^ q.log2n)) true = .plain (.host h a) →
      ∃ t, exec (.cmdRetire slot) s = .next t
        ∧ t.mem.read (.host h a) 64 = toLe 4 (u32At r 0 + 2 ^ 31 * b2n q.phase) ++ r.drop 4
        ∧ (t.ctx c.ctx).cq = { q with tail := q.tail + 1 } ∧ HostMsg.record a ∈ (t.hostFn h).stream)

/-- WAIT_TIMEOUT (R329, R390): a command that has not started and whose wait has used up its time ends and leaves its slot. STALL_TIMEOUT
(R316) and PREEMPT_RETIRE_TIMEOUT (R318): the watchdog ends a started command with status TIMEOUT, detail 0x03: its streams are
cancelled, it waits for its wagons alone, and the event is logged; the watchdog of a STEP_LOOP is that of the latest of its body commands
(log 23). YIELD (R279, R318, R339): a command of a PREEMPTING context that may yield, and whose finished units of work have been issued,
gives up its tiles, windows and buffers, keeps the places of its partial results, and will go on at its first unfinished unit. It yields
between two units, none of whose steps it has consumed (log 102). -/
def Obligations.WaitsStallsAndYields : Prop :=
  (∀ (slot : Nat) (s : State) (c : Cmd), slot < 4096 → s.trc.dump.busy = false → s.cmd? slot = some c → s.waitOver c = true →
      isError c.st = false → ∃ t, exec (.waitTimeout slot) s = .next t ∧ t.cmd? slot = none)
  ∧ (∀ (slot : Nat) (s : State) (c : Cmd), s.trc.dump.busy = false → s.cmd? slot = some c → c.started = true → isError c.st = false →
      c.yielded = false →
      let ended (t : State) : Prop := ∃ c', t.cmd? slot = some c' ∧ c'.status = some (stTimeout, 0x03) ∧ c'.phase = .worked
        ∧ (c.op ≠ 8 → c'.outQ = []) ∧ c'.paged = [] ∧ c'.tiles = [] ∧ c'.errSeq.isSome = true
        ∧ (∀ w ∈ t.cmds.wagons, w.req.slot = slot → w.req.kind = .read → w.discard = true)
      (s.heldByPort slot = false → s.stallAt slot c ≤ s.time.cmdClk.toNat →
        ∃ t, exec (.stallTimeout slot) s = .next t ∧ ended t)
      ∧ ((s.ctx c.ctx).state = .preempting → s.yields slot c = false → (s.ctx c.ctx).preemptBy ≤ s.time.cmdClk.toNat →
        ∃ t, exec (.preemptRetireTimeout slot) s = .next t ∧ ended t))
  ∧ (∀ (slot : Nat) (s : State) (c : Cmd), s.trc.dump.busy = false → s.cmd? slot = some c → (s.ctx c.ctx).state = .preempting →
      c.yielded = false → c.mayYield = true → c.settled = true → c.eaten = 0 → s.yields slot c = true →
      ∃ t c', exec (.yield slot) s = .next t ∧ t.cmd? slot = some c' ∧ c'.yielded = true ∧ c'.tiles = []
        ∧ (c.op ≠ 8 → c'.outQ = []) ∧ c'.pos = c.pos ∧ c'.resv = { Resv.none with plat := (s.partsOf c).map (fun p => (p.1, p.2.1, p.2.1 + p.2.2)), pins := c.resv.pins }
        ∧ c'.phase = .started ∧ OtherSlots slot s t ∧ Frame [.cmds, .cnt] s t)

/-- LOOP_ITERATION and STEP_LOOP (R195, R313–R315): a new iteration raises the context's STEP by one and holds the body records as they are
now; a started loop that is over has done its work. When an iteration begins is the model's reading (log 49). DUAL_PATH_DECISION (R251):
at the decision instant a load that has not ended takes the branch line, unless the profile is Freight and the context is not strict,
where the load is only marked as decided. -/
def Obligations.LoopsIterateAndDualPathsDecide : Prop :=
  (∀ (slot : Nat) (s : State) (c : Cmd) (l : LoopSt), s.cmd? slot = some c → c.loop = some l → s.trc.dump.busy = false →
      (∀ b, c.started = true → isError c.st = false → (s.ctx c.ctx).state = .on → l.mayBegin = true →
        s.rdRecord c.ctx l.body (128 * l.nbody) = some b →
        exec (.loopIteration slot) s = .next ((s.setCtx c.ctx { s.ctx c.ctx with step := (s.ctx c.ctx).step + 1 }).setCmd slot
          (some { c with stallBy := s.stallDue
                         loop := some { l with iter := if l.began then l.iter + 1 else 0, began := true, pos := 0, since := none
                                               recs := (List.range l.nbody).map (fun i => slice b (128 * i) 128)
                                               fetchedAt := s.time.now } })))
      ∧ (c.phase = .started → l.over (isError c.st) = true →
        exec (.stepLoop slot) s = .next (s.setCmd slot (some { c with phase := .worked })))
      ∧ (c.phase ≠ .started ∨ l.over (isError c.st) = false → exec (.stepLoop slot) s = exec (.loopIteration slot) s))
  ∧ (∀ (slot : Nat) (s : State) (c : Cmd) (d : DualSt), s.trc.dump.busy = false → s.cmd? slot = some c → c.dual = some d → d.phase = .load →
      d.decided = false → isError c.st = false → decideAt c.crec d ≤ s.time.now.toNat →
      let strict := s.cfg.profile ≠ .freight ∨ (s.ctx c.ctx).dlStrict = true
      (¬strict → exec (.dualPathDecision slot) s = .next (s.setCmd slot (some { c with dual := some { d with decided := true } })))
      ∧ (strict → s.unacked slot ≠ [] → ∃ t c' d', exec (.dualPathDecision slot) s = .next t ∧ t.cmd? slot = some c' ∧ c'.dual = some d'
        ∧ d'.phase = .branch ∧ d'.decided = true ∧ d'.path = (if d.branchAlt then 2 else 1) ∧ (c.op ≠ 8 → c'.outQ = [])
        ∧ c'.tiles = []
        ∧ (∀ w ∈ t.cmds.wagons, w.req.slot = slot → w.req.kind = .read → w.discard = true) ∧ Frame [.cmds, .cnt] s t)
      ∧ (strict → slot < 4096 → s.unacked slot = [] → d.branchAlt = false → ∃ t c' d', exec (.dualPathDecision slot) s = .next t
        ∧ t.cmd? slot = none ∧ t.cmd? (4096 + s.cmds.order) = some c' ∧ c'.resv = Resv.none ∧ c'.dual = some d' ∧ d'.phase = .branch
        ∧ d'.decided = true ∧ d'.path = 1 ∧ Frame [.cmds, .cnt, .fab] s t))

/-! ## Wagons (R209–R212, R235, R236, R261–R264, R267, R270) -/

/-- READ_WAGON_SERVE (R210, R235): a read wagon takes the 512 bytes of its line; data with an uncorrectable error is marked bad, a line so
found keeps the error, and no byte of memory changes. WRITE_WAGON_APPLY and ACC_WAGON_APPLY (R209–R212, R261): a write wagon that no
earlier write of its stream to its line precedes stores its masked bytes and nothing else; an accumulate-write wagon stores the line
with its addends joined, and on a line with an uncorrectable error nothing, its command taking status ECC_UNCORR with IND_LINE. -/
def Obligations.WagonsMoveTheirBytes : Prop :=
  (∀ (w : Nat) (ev : EccEvent) (s : State) (x : Wagon), s.wagon? w = some x → x.req.kind = .read → x.served = false → x.isLocal = true →
      ∃ t, exec (.readWagonServe w ev) s = .next t ∧ (∀ l, t.mem.get l = s.mem.get l)
        ∧ (∀ pa, x.req.line = .hbm pa →
          t.wagon? w = some { x with served := true, data := s.mem.read x.req.line 512
                                     bad := decide (ev = .uncorrectable ∨ s.mem.eccAt x.req.line = .uncorrectable) }
          ∧ (ev = .uncorrectable → t.mem.eccAt x.req.line = .uncorrectable))
        ∧ (∀ c o, x.req.line = .plat c o →
          t.wagon? w = some { x with served := true, data := s.mem.read x.req.line 512, bad := false })
        ∧ Frame [.log, .cnt, .trc, .mem, .cmds, .hosts] s t)
  ∧ (∀ (w : Nat) (ev : EccEvent) (s : State) (x : Wagon), s.wagon? w = some x → x.served = false → s.behind x = false →
      (x.req.kind = .write → x.isLocal = true →
        ∃ t, exec (.writeWagonApply w) s = .next t ∧ (∀ l, t.mem.get l = (s.mem.writeMasked x.req.line x.req.bytes).get l)
          ∧ t.wagon? w = some { x with served := true } ∧ Frame [.mem, .cmds, .cnt] s t)
      ∧ (∀ pa, x.req.kind = .acc → x.req.line = .hbm pa → ev ≠ .uncorrectable → s.mem.eccAt (.hbm pa) ≠ .uncorrectable →
        ∃ t, exec (.accWagonApply w ev) s = .next t
          ∧ (∀ l, t.mem.get l = (s.mem.writeMasked x.req.line (joinLine (s.mem.read x.req.line 512) x.req.addend)).get l)
          ∧ t.wagon? w = some { x with served := true })
      ∧ (∀ pa c, x.req.kind = .acc → x.req.line = .hbm pa → ev = .uncorrectable → s.cmd? x.req.slot = some c → isError c.st = false →
        ∃ t c', exec (.accWagonApply w ev) s = .next t ∧ (∀ l, t.mem.get l = s.mem.get l) ∧ t.cmd? x.req.slot = some c'
          ∧ c'.st = stEcc ∧ c'.indLine = true ∧ c'.phase = c.phase ∧ t.mem.eccAt (.hbm pa) = .uncorrectable))

/-- WAGON_ARRIVE, WAGON_ACK and WAGON_TIMEOUT (R211, R212, R262, R264, R266, R267): the data of a read that still counts enters its tile
and its command makes progress; the panel of a tile fetched ahead that is whole stands in its Platform, and no other byte of memory
changes; an acknowledged wagon gives its tag back; a timed-out write ends its command with TIMEOUT, detail 0x02, and a
timed-out wagon whose data is to be discarded is only logged. PATROL_SCRUB (R236): a stack reads its next line, in the order that the model
chose (log 29), changing no byte of memory; what the codes find stays with the line. -/
def Obligations.WagonsComeBackAndScrubReads : Prop :=
  (∀ (w : Nat) (s : State) (x : Wagon), s.wagon? w = some x →
      (∀ c, x.req.kind = .read → x.served = true → x.arrived = false → x.discard = false → x.timedOut = false → x.bad = false →
        x.req.field ≠ loadField → s.cmd? x.req.slot = some c →
        ∃ t, exec (.wagonArrive w) s = .next t ∧ t.wagon? w = some { x with arrived := true }
          ∧ t.cmd? x.req.slot = some { c.fillTile x with stallBy := s.stallDue } ∧ OtherSlots x.req.slot s t
          ∧ (∀ l, (∀ k o, l ≠ .plat k o) → t.mem.get l = s.mem.get l)
          ∧ (looseTile ≤ tileNo x.req.tile → t.mem = s.mem) ∧ Frame [.cmds, .mem] s t)
      ∧ (x.served = true → (x.req.kind = .read → x.arrived = true) →
        ∃ t, exec (.wagonAck w) s = .next t ∧ (∀ y ∈ t.cmds.wagons, y.id = w → s.cmds.nextId ≤ w))
      ∧ (∀ c, x.timedOut = false → x.due ≤ s.time.clk.toNat → s.timerHeld x = false → x.discard = false → x.req.kind = .write →
        x.req.field ≠ stageField → x.req.field ≠ loadField → s.cmd? x.req.slot = some c → c.started = true → isError c.st = false →
        ∃ t c', exec (.wagonTimeout w) s = .next t ∧ t.cmd? x.req.slot = some c' ∧ c'.status = some (stTimeout, 0x02)
          ∧ c'.phase = .worked ∧ c'.failStage = x.req.stage ∧ (t.wagon? w).map (·.timedOut) = some true)
      ∧ (x.timedOut = false → x.due ≤ s.time.clk.toNat → s.timerHeld x = false → x.discard = true → s.cmd? x.req.slot = none →
        ∃ t, exec (.wagonTimeout w) s = .next t ∧ t.wagon? w = some { x with timedOut := true } ∧ Frame [.cmds, .log, .trc, .hosts] s t))
  ∧ (∀ (stack l : Nat) (ev : EccEvent) (s : State), s.cfg.scrubHours ≠ 0 → s.inv.stackOk.contains stack = true → s.pwr.state < 3 →
      s.scrubLine stack = some l →
      let loc := Loc.hbm (stack / 4 * 2 ^ 38 + 512 * l)
      ∃ t, exec (.patrolScrub stack ev) s = .next t ∧ Tab.get 0 t.mem.scrubPos stack = l + 1
        ∧ (∀ k, k ≠ stack → Tab.get 0 t.mem.scrubPos k = Tab.get 0 s.mem.scrubPos k) ∧ (∀ x, t.mem.get x = s.mem.get x)
        ∧ (ev = .uncorrectable → t.mem.eccAt loc = .uncorrectable ∧ t.log.next = s.log.next + 1)
        ∧ (ev = .clean → s.mem.eccAt loc = .clean → t.log = s.log ∧ t.cnt = s.cnt)
        ∧ Frame [.log, .cnt, .trc, .mem, .hosts] s t)

/-! ## Signals (R322–R336) -/

/-- SIG_BIND, SIG_UNBIND and CLRSAT (R324, R333): a free signal becomes a live signal of a context that owns fewer than 256; a signal that
nothing names becomes free; SAT of a signal that is not free, an abandoned one included, is cleared. Each reports OK in SIG_STAT. The
operation is over at once (log 8). -/
def Obligations.SignalsAreBoundAndFreed : Prop :=
  ∀ (mst : Master) (cls ctx : Nat) (v : Word) (s : State),
    let n := (s.sigRegs mst).sel
    let g := s.sigOf n
    let done := { s.sigRegs mst with status := stOk }
    s.sigOpen mst n →
    (g.state = .free → s.mayCtx mst ctx = true → (s.ownedSigs ctx).length < 256 → cls < 2 →
      exec (.sigBind mst cls ctx v) s = .next (((s.clearBus mst).setSig n
        ⟨.live, cls, ctx, v, false, false, 0, [], ⟨0, 0, 0, 0, 0, 0⟩⟩).setSigRegs mst done))
    ∧ (g.state ≠ .free → exec (.sigBind mst cls ctx v) s = .next ((s.clearBus mst).setSigRegs mst { done with status := stRange }))
    ∧ (g.state ≠ .free → g.refs = 0 → g.ownerSaved = false →
      exec (.sigUnbind mst) s = .next (((s.clearBus mst).setSig n Signal.free).setSigRegs mst done))
    ∧ (g.state = .free ∨ g.refs ≠ 0 ∨ g.ownerSaved = true →
      exec (.sigUnbind mst) s = .next ((s.clearBus mst).setSigRegs mst { done with status := stResource }))
    ∧ (g.state ≠ .free → exec (.clrsat mst) s = .next (((s.clearBus mst).setSig n { g with sat := false }).setSigRegs mst done))

/-- SIG_POST and SIG_ADD (R324, R326, R333, R334): a post to a live signal changes its value and SAT as its class and POP say, and leaves
the last-signaller record; a post that would leave the range of a data signal changes nothing but the report and the log. A post that
lets a waiting command go (R328): an unstarted command with one wait on the signal, of WOP GE or TAKE, which the new value satisfies,
becomes eligible to start and leaves the waiter list; a TAKE takes its tokens from the value, and the command holds them. That the post and
its report happen at the accepting write is the model's choice (log 8). -/
def Obligations.PostsChangeSignalsAndReleaseWaiters : Prop :=
  (∀ (mst : Master) (n pop : Nat) (v : Word) (s : State) (r : Option (Word × Bool)),
      let g := s.sigOf n
      s.sigOpen mst n → g.state = .live → g.waiters = [] → g.cls ≤ 1 → Posts g pop v r →
      (∀ w, r = some w → (s.sigRegs mst).sel = n →
        ∃ t, exec (.sigPost mst pop v) s = .next t ∧ t.sigOf n = g.posted mst pop w s.time.now ∧ OtherSigs n s t
          ∧ t.sigRegs mst = { s.sigRegs mst with status := stOk } ∧ Frame [.bus, .sig, .trc] s t)
      ∧ (r = none → (s.sigRegs mst).sel = n →
        ∃ t, exec (.sigPost mst pop v) s = .next t ∧ t.sigOf n = g ∧ OtherSigs n s t
          ∧ t.sigRegs mst = { s.sigRegs mst with status := stSigUnderflow } ∧ Frame [.bus, .sig, .log, .trc, .hosts] s t)
      ∧ (∀ w, r = some w → pop = 1 →
        ∃ t, exec (.sigAdd mst n v) s = .next t ∧ t.sigOf n = g.posted mst 1 w s.time.now ∧ OtherSigs n s t
          ∧ t.sigRegs mst = s.sigRegs mst ∧ Frame [.bus, .sig, .trc] s t)
      ∧ (r = none → pop = 1 →
        ∃ t, exec (.sigAdd mst n v) s = .next t ∧ t.sig = s.sig ∧ Frame [.bus, .log, .trc, .hosts] s t))
  ∧ (∀ (mst : Master) (n slot i wop : Nat) (v val : Word) (s : State) (c : Cmd),
      let g := s.sigOf n
      s.sigOpen mst n → g.state = .live → wop = 1 ∨ wop = 4 → g.waiters = [⟨slot, i, wop, val⟩] → s.cmd? slot = some c → c.phase = .admitted →
      c.waits = [(i, ⟨n, wop, val⟩)] → g.value.toNat + v.toNat < 2 ^ 32 → val.toNat ≤ g.value.toNat + v.toNat →
      ∃ t, exec (.sigAdd mst n v) s = .next t
        ∧ t.cmd? slot = some { c with phase := .ready, waitLeft := c.waitLeft - (s.time.cmdClk - c.waitAt).toNat
                                      held := if wop = 4 then [(n, val)] else [] }
        ∧ t.sigOf n = { g.posted mst 1 (g.value + v - (if wop = 4 then val else 0), g.sat) s.time.now with waiters := [] }
        ∧ OtherSigs n s t ∧ OtherSlots slot s t ∧ Frame [.bus, .sig, .cmds, .trc] s t)

/-- The posts of a command are applied all together or not at all (R330): a set that does not fit changes no signal; one that fits leaves
every live signal that it names with the poster in its last-signaller record, and no other signal's record. -/
def Obligations.PostsOfACommandAreAllOrNone : Prop :=
  ∀ (s : State) (p : Poster) (es : List SigEnt), (∀ e ∈ es, 1 ≤ e.op ∧ e.op ≤ 3) →
    (s.postsFit es = false → (s.postAll p es).2 = false ∧ (s.postAll p es).1.sig = s.sig)
    ∧ (s.postsFit es = true → (s.postAll p es).2 = true
      ∧ (∀ e ∈ es, (s.sigOf e.sig).state = .live →
        let l := ((s.postAll p es).1.sigOf e.sig).last
        l.master = p.master ∧ l.ctx = p.ctx ∧ l.queue = p.queue ∧ l.seq = p.seq ∧ l.time = s.time.now)
      ∧ (∀ n, (∀ e ∈ es, e.sig ≠ n) → ((s.postAll p es).1.sigOf n).last = (s.sigOf n).last))

/-! ## Mailboxes (R415–R421) -/

/-- MBX_LOCK (R417, R418): a bound master's read takes a free channel and returns zero, any other read of it returns the owner and changes
nothing; a master that is not bound reads bit 31 alone. The owner's write and the management core's release the channel. The doorbells
of a channel (R419, R420): a side sets the bits of its ringing half, clears those of its receiving half and masks its receiving half; a
host whose unmasked doorbells become non-zero is sent its vector 1. What a write of a free channel's lock does is the model's choice (log
32). -/
def Obligations.MailboxesLockAndRing : Prop :=
  (∀ (mst : Master) (ch : Nat) (v : Word) (s : State), s.regReady mst false = true →
      let c := s.chan ch
      let bound := ((s.mbxBind ch).side mst.code).isSome = true
      (bound → c.owner = 0 →
        exec (.mbxLockRead mst ch) s = .next (((s.clearBus mst).setChan ch { c with owner := mst.code }).answer 0))
      ∧ (bound → c.owner ≠ 0 → c.owner < 16 → exec (.mbxLockRead mst ch) s = .next ((s.clearBus mst).answer c.owner))
      ∧ (¬bound → mst ≠ .d → exec (.mbxLockRead mst ch) s = .next ((s.clearBus mst).answer (2 ^ 31)))
      ∧ (mst = .m ∨ (bound ∧ c.owner = mst.code) →
        exec (.mbxLockWrite mst ch v) s = .next ((s.clearBus mst).setChan ch { c with owner := 0 }))
      ∧ (mst ≠ .m → ¬(bound ∧ c.owner = mst.code) →
        exec (.mbxLockWrite mst ch v) s = .next ((s.clearBus mst).logReg mst (0x200000 + 0x200 * ch))))
  ∧ (∀ (mst : Master) (ch : Nat) (v : Word) (side : Bool) (s : State), s.regReady mst false = true → s.trc.dump.busy = false →
      (s.mbxBind ch).side mst.code = some side →
      let c := s.chan ch
      let mine : Word := if side then 0x0000FFFF else 0xFFFF0000
      let kept (t : State) : Prop := (∀ d, d ≠ ch → t.chan d = s.chan d)
        ∧ Frame [.bus, .log, .trc, .cmds, .sig, .hosts, .mbx] s t
      (∃ t, exec (.mbxDbset mst ch v) s = .next t ∧ t.chan ch = { c with db := c.db ||| (v &&& ~~~ mine) } ∧ kept t
        ∧ (∀ h, h < 4 → (s.mbxBind ch).who (!side) = h + 1 → (s.hostFn h).present = true → (s.hostFn h).vectorOpen 1 = true →
          c.db &&& ~~~ c.mask &&& ~~~ mine = 0 → v &&& ~~~ c.mask &&& ~~~ mine ≠ 0 → HostMsg.msix 1 ∈ (t.hostFn h).stream))
      ∧ (∃ t, exec (.mbxDbclr mst ch v) s = .next t ∧ t.chan ch = { c with db := c.db &&& ~~~ (v &&& mine) } ∧ kept t)
      ∧ (∃ t, exec (.mbxMask mst ch v) s = .next t ∧ t.chan ch = { c with mask := (c.mask &&& ~~~ mine) ||| (v &&& mine) } ∧ kept t))

/-! ## The table unit and translations (R149–R166, R229) -/

/-- BIND, UNBIND, LOAD, SWAP and SYNC (R152, R153, R156, R157, R500): what each leaves in its slot and its registers, when the conditions
under which R156 lets it act hold. The outcome is shown when the operation completes (log 8). -/
def Obligations.TableSlotsAreBoundAndLoaded : Prop :=
  ∀ (mst : Master) (kind slot ctx : Nat) (s : State), s.tblOpen mst kind slot →
    let t := s.tblSlot kind slot
    let r := s.tblRegs mst
    let ready (u : TblSlot) (res : Nat) : Host.Outcome State Fault Refusal :=
      .next (((s.clearBus mst).setTbl kind slot u).tblBusy mst stOk res none)
    (∀ k, kind = 2 ∨ kind = 3 → t.bound = false → s.mayCtx mst ctx = true → s.hostOfCtx ctx = some k →
      (kind = 2 → r.arg0 = 32) → (kind = 3 → r.arg0.toNat % 256 = 0 ∧ 256 ≤ r.arg0.toNat ∧ r.arg0.toNat ≤ 65536) →
      s.storeUsed k + (2 * r.arg0.toNat + 4095) / 4096 * 4096 ≤ (s.hostCfg k).tstoreMib * 2 ^ 20 →
      exec (.bind mst kind slot ctx) s = ready { TblSlot.unbound with bound := true, ctx := ctx, bankBytes := r.arg0.toNat } 0)
    ∧ (∀ k, kind = 1 → t.bound = false → s.mayCtx mst ctx = true → s.hostOfCtx ctx = some k → r.arg0.toNat < 2 ^ 52 →
      s.rangeFault ctx r.arg0.toNat 64 false = none → bindBad (s.rdBytes ctx r.arg0.toNat 64) = false →
      (let b := parseBind (s.rdBytes ctx r.arg0.toNat 64)
       s.storeUsed k + (2 * (8 * b.nseqMax + 4 * b.pagesMax) + 4 * b.frames + 4095) / 4096 * 4096 ≤ (s.hostCfg k).tstoreMib * 2 ^ 20 →
       exec (.bind mst kind slot ctx) s = ready { TblSlot.unbound with bound := true, ctx := ctx, kv := some b } 0))
    ∧ (t.bound = true → exec (.bind mst kind slot ctx) s = .next ((s.clearBus mst).tblBusy mst
        (if kind = 4 ∧ ctx ≠ 0 then stFormat else stRange) 0 none))
    ∧ (t.bound = true → s.latchedGens kind slot = [] → exec (.unbind mst kind slot) s = ready TblSlot.unbound 0)
    ∧ (∀ b, t.bound = true → kind ≠ 1 → s.holders kind slot = 0 → s.loadSrc kind t r.arg0.toNat r.arg1.toNat = .ok b →
      (kind = 3 → imageBad b = false) → (kind = 4 → routeBad b = false) →
      exec (.load mst kind slot) s = ready (t.setBank t.shadow (b ++ (t.bank t.shadow).drop b.length)) b.length)
    ∧ (t.bound = true → exec (.swap mst kind slot) s = ready { t with gen := t.gen + 1 } (t.gen + 1).toNat)
    ∧ (t.bound = true → s.holders kind slot = 0 →
      exec (.sync mst kind slot) s = ready ((t.setBank t.shadow (t.bank t.active)).setDir t.shadow (t.dir t.active))
        (if kind = 1 then t.entries t.active else t.bankBytes))
    ∧ (t.bound = true → s.holders kind slot ≠ 0 →
      exec (.sync mst kind slot) s = .next ((s.clearBus mst).tblBusy mst stResource 0 none))

/-- MAP, FORK, TRIM and MOVE (R163, R164): what each leaves in the shadow directory of a KV set. QUERY, COUNT and TABLE_OP_COMPLETE (R155,
R156, R163): the counts of a frame in both banks, the generation of a slot, and the outcome that the registers show when BUSY falls; an
operation written while BUSY is 1 has no effect but its log entry. A dump's freeze holds an operation that changes a table (R480). That
the directory changes at the accepting write is the model's choice (log 8). -/
def Obligations.PagesAreMappedAndOutcomesShown : Prop :=
  (∀ (mst : Master) (slot : Nat) (kv : BindRec) (s : State), s.tblOpen mst 1 slot →
      let t := s.tblSlot 1 slot
      let r := s.tblRegs mst
      let b := t.shadow
      let lo := r.arg0.toNat % 2 ^ 32
      let hi := r.arg0.toNat / 2 ^ 32
      let ready (u : TblSlot) (res : Nat) : Host.Outcome State Fault Refusal :=
        .next (((s.clearBus mst).setTbl 1 slot u).tblBusy mst stOk res none)
      t.bound = true → t.kv = some kv → s.holders 1 slot = 0 →
      (∀ w : Word, r.arg1 = 1 → lo < kv.nseqMax → r.arg2.toNat + 4 ≤ 2 ^ 52 → s.argOk t.ctx r.arg2.toNat 4 true = true →
        w = BitVec.ofNat 32 (leNat (s.rdBytes t.ctx r.arg2.toNat 4)) → w.toNat < t.frames → w.toNat < 0xFFFFFFFE → t.cnt b w < 0xFFFF →
        t.entries b + (hi + 1 - (t.pages b lo).length) ≤ kv.pagesMax →
        exec (.map mst 1 slot) s
          = ready (t.setPages b lo ((t.pages b lo ++ List.replicate (hi + 1 - (t.pages b lo).length) 0xFFFFFFFF).set hi w)) 1)
      ∧ (r.arg1 = 0 → lo < kv.nseqMax → r.arg2.toNat < 2 ^ 52 → t.entries b + (hi - (t.pages b lo).length) ≤ kv.pagesMax →
        exec (.map mst 1 slot) s = ready (t.setPages b lo (t.pages b lo ++ List.replicate (hi - (t.pages b lo).length) 0xFFFFFFFF)) 0)
      ∧ (∀ n, r.arg1.toNat = n → lo < kv.nseqMax → hi < kv.nseqMax → t.pages b lo = [] → n ≤ (t.pages b hi).length →
        t.entries b + n ≤ kv.pagesMax → (∀ f ∈ (t.pages b hi).take n, f ≠ 0xFFFFFFFF → t.cnt b f + n ≤ 0xFFFF) →
        ∃ u, exec (.fork mst 1 slot) s = ready u n ∧ u.pages b lo = (t.pages b hi).take n ∧ (∀ q, q ≠ lo → u.pages b q = t.pages b q)
          ∧ u.dir t.active = t.dir t.active ∧ u.gen = t.gen)
      ∧ (r.arg0.toNat < kv.nseqMax →
        (let l := t.pages b r.arg0.toNat
         let n := min r.arg1.toNat l.length
         exec (.trim mst 1 slot) s = ready (t.setPages b r.arg0.toNat (l.take n)) (l.length - n)))
      ∧ (lo < kv.nseqMax → hi < kv.nseqMax → t.pages b lo = [] →
        exec (.move mst 1 slot) s = ready ((t.setPages b hi []).setPages b lo (t.pages b hi)) (t.pages b hi).length))
  ∧ (∀ (mst : Master) (kind slot : Nat) (s : State),
      let t := s.tblSlot kind slot
      let r := s.tblRegs mst
      (s.tblOpen mst kind slot → t.bound = false →
        exec (.query mst kind slot) s = .next ((s.clearBus mst).tblBusy mst stOk 0 (some 0)))
      ∧ (s.tblOpen mst kind slot → t.bound = true → ∃ info : Dword,
        exec (.query mst kind slot) s = .next ((s.clearBus mst).tblBusy mst stOk t.gen.toNat (some info))
          ∧ info.setWidth 32 = t.gen ∧ info.getLsbD 33 = true ∧ info.toNat / 2 ^ 32 % 2 = t.active % 2)
      ∧ (s.tblOpen mst kind slot → kind = 1 → t.bound = true → r.arg0.toNat < t.frames →
        exec (.count mst kind slot) s = .next ((s.clearBus mst).tblBusy mst stOk
          (t.cnt 0 (BitVec.ofNat 32 r.arg0.toNat) + t.cnt 1 (BitVec.ofNat 32 r.arg0.toNat) % 2 ^ 16 * 2 ^ 16) none))
      ∧ (r.busy = true → s.trc.dump.busy = false → exec (.tableOpComplete mst) s = .next (s.setTblRegs mst { r with
          busy := false, status := r.pendStatus, result := r.pendResult, info := r.pendInfo.getD r.info
          pendStatus := 0, pendResult := 0, pendInfo := none }))
      ∧ (s.regReady mst true = true → r.busy = true → exec (.swap mst kind slot) s = .next ((s.clearBus mst).logReg mst 0x804000)
        ∧ exec (.query mst kind slot) s = .next ((s.clearBus mst).logReg mst 0x804000))
      ∧ (s.regReady mst true = true → r.busy = false → s.trc.dump.busy = true →
        exec (.swap mst kind slot) s = .next (((s.clearBus mst).holdBack (.registerWrite mst 0x804000 .w64 (tblWord 4 kind slot 0))).setTblRegs mst
          { r with busy := true })))

/-- COPY_ON_WRITE and PAGED_WRITE complete (R162, R163, R165). COPY_ON_WRITE: while another entry shares the frame of the oldest paged write,
every layer of both its planes is copied to the lowest free frame, every entry of that sequence and page that named the old frame names
the new one, in either bank, and the copy is counted; no other byte of memory, entry or slot changes. PAGED_WRITE: a write to a frame that
no other entry names leaves as write wagons, and no byte of memory changes yet. -/
def Obligations.SharedFramesAreCopied : Prop :=
  (∀ (slot : Nat) (s : State) (c : Cmd) (p : PagedReq) (rest : List PagedReq) (kv : BindRec) (f g : Word), s.trc.dump.busy = false →
      s.cmd? slot = some c → c.paged = p :: rest → s.xlt.mig = [] → p.slot < 4096 →
      let t := s.tblSlot 1 p.slot
      let copied (m : Memories) (i : Nat) : Memories :=
        let u : State := { s with mem := m }
        applied m (u.writeReqsVa 0 c.ctx 0 0 (kv.frameVa (i % 2) (i / 2) g 0) (u.rdBytes c.ctx (kv.frameVa (i % 2) (i / 2) f 0) kv.frameBytes))
      t.kv = some kv → kv.frames ≤ 2 ^ 24 → t.frameOf p.bank p.seq p.page = some f →
      (t.shares p.seq p.page f).2 < t.cnt 0 f + t.cnt 1 f → t.freeFrame = some g → s.copyFault c.ctx kv f g = none →
      ∃ u c', exec (.copyOnWrite slot) s = .next u ∧ u.cmd? slot = some c' ∧ c'.paged = c.paged ∧ c'.phase = c.phase
        ∧ getOc .kvCow c'.acc.oc = getOc .kvCow c.acc.oc + 1
        ∧ SameBytes ((List.range (2 * kv.layers)).foldl copied s.mem) u.mem
        ∧ t.cnt 0 g = 0 ∧ t.cnt 1 g = 0
        ∧ (∀ b, b < 2 → t.frameOf b p.seq p.page = some f → (u.tblSlot 1 p.slot).frameOf b p.seq p.page = some g)
        ∧ (∀ b, b < 2 → t.frameOf b p.seq p.page ≠ some f → (u.tblSlot 1 p.slot).pages b p.seq = t.pages b p.seq)
        ∧ (∀ b q, b < 2 → q ≠ p.seq → (u.tblSlot 1 p.slot).pages b q = t.pages b q) ∧ (u.tblSlot 1 p.slot).gen = t.gen
        ∧ (∀ kind k, k < 4096 → kind ≠ 1 ∨ k ≠ p.slot → u.tblSlot kind k = s.tblSlot kind k) ∧ Frame [.mem, .tbl, .cmds, .cnt, .hosts] s u)
  ∧ (∀ (slot : Nat) (s : State) (c : Cmd) (p : PagedReq) (rest : List PagedReq) (kv : BindRec) (f : Word), s.trc.dump.busy = false →
      s.cmd? slot = some c → c.paged = p :: rest → s.xlt.mig = [] → c.outQ = [] →
      let t := s.tblSlot 1 p.slot
      t.kv = some kv → t.frameOf p.bank p.seq p.page = some f → t.cnt 0 f + t.cnt 1 f ≤ (t.shares p.seq p.page f).2 →
      (∀ b ∈ p.segs, s.rangeFault c.ctx (kv.frameVa p.plane p.layer f b.1) b.2.length true = none) →
      (let reqs := p.segs.flatMap (fun b => s.writeReqsVa slot c.ctx p.stage p.field (kv.frameVa p.plane p.layer f b.1) b.2)
       NoPeer reqs →
       ∃ u c', exec (.pagedWrite slot) s = .next u ∧ u.cmd? slot = some c' ∧ c'.paged = rest ∧ c'.phase = c.phase ∧ Left u c' reqs
        ∧ OtherSlots slot s u ∧ Frame [.cmds, .cnt, .hosts] s u))

/-- XLT_INVAL and XLT_INVAL_COMPLETE (R229): an invalidation of a range is BUSY until every wagon of the context that was issued before
it, under a translation of the range, has been acknowledged, and no request that waits to be issued holds one; the requests that wait when
it begins are marked, and their wagons count too. The tiles that the context has fetched ahead are then given up. -/
def Obligations.InvalidationWaitsForWagons : Prop :=
  ∀ (mst : Master) (v : Dword) (s : State),
    (s.regReady mst false = true → s.mayCtx mst (s.xltSel mst) = true → s.xltInval mst = none →
      let i : Inval := ⟨s.xltSel mst, v.getLsbD 16, v.toNat / 2 ^ 17 % 2 ^ 36, v.toNat % 2 ^ 16 + 1, s.cmds.nextId⟩
      exec (.xltInval mst v) s = .next (((s.clearBus mst).markOld i).setInval mst (some i))
      ∧ (∀ slot c, s.cmd? slot = some c → ((s.clearBus mst).markOld i).cmd? slot = some { c with outQ := c.outQ.map (fun r =>
          if c.ctx = i.ctx ∧ (i.all = true ∨ r.va = 0 ∨ (i.vpn ≤ r.va / 65536 ∧ r.va / 65536 < i.vpn + i.pages)) then { r with old := true }
          else r) })
      ∧ Frame [.cmds] s (s.markOld i))
    ∧ (s.regReady mst false = true → (s.xltInval mst).isSome = true →
      exec (.xltInval mst v) s = .next ((s.clearBus mst).logReg mst 0x800010))
    ∧ (∀ i, s.xltInval mst = some i →
      let outside (va : Nat) : Prop := i.all = false ∧ va ≠ 0 ∧ (va / 65536 < i.vpn ∨ i.vpn + i.pages ≤ va / 65536)
      let inside (va : Nat) : Prop := i.vpn ≤ va / 65536 ∧ va / 65536 < i.vpn + i.pages
      ((∀ w ∈ s.cmds.wagons, w.ctx = i.ctx → w.id < i.upTo ∨ w.req.old = true → outside w.req.va) →
        (∀ x ∈ s.waiting, x.2.1.ctx = i.ctx → outside x.2.2.va) →
        exec (.xltInvalComplete mst) s = .next ((s.dropAhead i.ctx).setInval mst none))
      ∧ (∀ slot c, s.cmd? slot = some c → c.ctx = i.ctx → (s.dropAhead i.ctx).cmd? slot
        = some { c with tiles := c.tiles.map (fun t => if t.use = .ahead then t.dropped else t) })
      ∧ ((∃ w ∈ s.cmds.wagons, w.ctx = i.ctx ∧ (w.id < i.upTo ∨ w.req.old = true) ∧ inside w.req.va)
          ∨ (∃ x ∈ s.waiting, x.2.1.ctx = i.ctx ∧ inside x.2.2.va) →
        exec (.xltInvalComplete mst) s = .next s))

/-! ## The work of a command (R70, R73, R202, R205, R214–R220, R280, R306; a unit of work is one step: logs 7, 102) -/

/-- A command whose work asks for tiles that are all there consumes them step by step (R265, R267): its streams run ahead, which fetches
tiles, and nothing else of the command or of another changes. MATMUL, CONV, VECFN, NORM, COPY and ATTN_FWD without a ring: a started command
of one stage, whose next unit has all its tiles and whose outputs meet no fault, does that unit (R74, R134, R185, R192; one unit a step, in
order: logs 7, 102): what it has made final leaves as write wagons and paged writes, its partial regions and the panels of its tiles lie in
the Platforms (only panels lie there: log 113), and the words of a checkpoint wait for its retire point. No other byte of memory changes
yet. After its last unit the work is done; before, it goes on at the next unit, for which its streams run ahead (R267). FUSED_CHAIN without
a ring, or after its rings have gone round: the stages are computed in order, each taking what the ones before hand over (log 37), the bands
that pass through a ring of the Depot stand in its slots (R285), and the outputs of all of them leave. -/
def Obligations.ComputeRowsAndChainsDoTheirWork : Prop :=
  (∀ (slot : Nat) (s s1 : State) (c : Cmd), s.cmd? slot = some c → (∀ r ∈ c.outQ, r.kind = .read ∧ r.spec = true) →
      s.ready slot c = (s1, true) →
      ∃ c1, s1.cmd? slot = some c1 ∧ (∀ r ∈ c1.outQ, r.kind = .read ∧ r.spec = true)
        ∧ { c1 with tiles := c.tiles, outQ := c.outQ, bursts := c.bursts, eaten := c.eaten, acc := c.acc } = c
        ∧ c1.acc = { c.acc with specFault := c1.acc.specFault } ∧ OtherSlots slot s s1 ∧ Frame ([.cmds, .cnt] ++ aheadGroups) s s1)
  ∧ (∀ (slot op : Nat) (i : Instr) (s0 s : State) (c0 c : Cmd) (st : Stage) (w : WorkOut),
      (op, i) ∈ [(1, .matmul slot), (2, .conv slot), (3, .attnFwd slot), (5, .vecfn slot), (6, .norm slot), (7, .copy slot)] →
      s0.xlt.mig = [] → s0.workable slot op false = some c0 → c0.ring = none → c0.stages = [st] → st.op = op → handIns st = [] →
      s0.strangeParts c0 = false → s0.ready slot c0 = (s, true) → s.cmd? slot = some c → c.stages = [st] → c.chained = false →
      c.phase = .started →
      let s1 := (s.landPanels c).writeParts w.parts
      let u : Win := ⟨c.pos, c.pos + 1⟩
      (s.landPanels c).stageWork c 0 st u (fun _ => none) = some w → s.outFault c 0 w = none →
      tooLong c 0 st w = false → NoPeer (c.outQ ++ s1.outReqs slot c 0 op w) →
      ∃ t c', exec i s0 = .next t ∧ t.cmd? slot = some c' ∧ Left t c' (s1.outReqs slot c 0 op w)
        ∧ (st.units ≤ u.hi → c'.phase = .worked ∧ c'.tiles = [])
        ∧ (u.hi < st.units → c'.phase = .started ∧ c'.pos = u.hi ∧ c'.eaten = 0)
        ∧ c'.paged = c.paged ++ s1.pagedReqs c 0 op w ∧ c'.atRetire = c.atRetire ++ ckptRetire c st w ∧ t.mem = s1.mem
        ∧ OtherSlots slot s t ∧ Frame ([.cmds, .cnt, .mem, .hosts] ++ if u.hi < st.units then aheadGroups else []) s t)
  ∧ (∀ (slot : Nat) (s0 s s1 : State) (c0 c : Cmd) (done : List (Stage × WorkOut)),
      s0.xlt.mig = [] → s0.workable slot 0 true = some c0 → c0.ring = none → s0.strangeParts c0 = false → s0.ready slot c0 = (s, true) →
      s.cmd? slot = some c → c.chained = true → State.runStages c c.stages.zipIdx (s.landPanels c) [] = (s1, some done) →
      (∀ e ∈ done.zipIdx, s.outFault c e.2 e.1.2 = none ∧ tooLong c e.2 e.1.1 e.1.2 = false) →
      let s2 := s1.landBands slot c done
      let reqs := done.zipIdx.flatMap (fun e => s2.outReqs slot c e.2 e.1.1.op e.1.2)
      NoPeer (c.outQ ++ reqs) →
      ∃ t c', exec (.fusedChain slot) s0 = .next t ∧ t.cmd? slot = some c' ∧ c'.phase = .worked ∧ c'.tiles = [] ∧ Left t c' reqs
        ∧ c'.paged = c.paged ++ done.zipIdx.flatMap (fun e => s2.pagedReqs c e.2 e.1.1.op e.1.2) ∧ t.mem = s2.mem
        ∧ (bandWrites c.stages done = [] → OtherSlots slot s t) ∧ Frame [.cmds, .cnt, .mem, .hosts] s t)

/-- ATTN_BWD without a ring (R134, R141–R145): in SPLIT mode one sweep over the work items computes every output; in ACCUM mode the first
sweep leaves accumulate-write wagons into the dQ buffer, and the second, once they are acknowledged, converts the buffer. A step of a sweep
does one work item, and the next goes on at the next (logs 7, 102). -/
def Obligations.BackwardAttentionDoesItsWork : Prop :=
  ∀ (slot : Nat) (s0 s : State) (c0 c : Cmd) (st : Stage),
    s0.xlt.mig = [] → s0.workable slot 4 false = some c0 → c0.ring = none → c0.stages = [st] →
    s.cmd? slot = some c → c.stages = [st] → c.chained = false → c.phase = .started →
    let u : Win := ⟨c.pos, c.pos + 1⟩
    let accum := (atPar 4 st.pb).accum
    let gone (w : WorkOut) (ph : Phase) (info : Byte) (pos : Nat) (more : List Group) : Prop :=
      s.outFault c 0 w = none → NoPeer (c.outQ ++ s.outReqs slot c 0 st.op w) →
      ∃ t c', exec (.attnBwd slot) s0 = .next t ∧ t.cmd? slot = some c' ∧ c'.phase = ph ∧ Left t c' (s.outReqs slot c 0 st.op w)
        ∧ c'.info = info ∧ c'.pos = pos ∧ OtherSlots slot s t ∧ Frame ([.cmds, .cnt, .hosts] ++ more) s t
    (c0.info = 0 → c.info = 0 → s0.ready slot c0 = (s, true) →
      (st.units ≤ u.hi → accum = false → gone (s.bwdWork c st u) .worked 0 c.pos [])
      ∧ (st.units ≤ u.hi → accum = true → gone (s.bwdWork c st u) .started 1 c.pos [])
      ∧ (u.hi < st.units → gone (s.bwdWork c st u) .started 0 u.hi aheadGroups))
    ∧ (s0 = s → c.info ≠ 0 → (∀ w ∈ s.unacked slot, w.req.kind = .read) → (∀ r ∈ c.outQ, r.kind = .read) →
      s.meet slot c st.accumWants = (s, true) →
      gone (s.accumWork c st) .worked c.info c.pos [])

/-- UPDATE (R214, R216, R219, R220, R222): the control word is read once, when the work begins (log 81), and kept. With SKIP set, or a gradient
scale that is not finite, nothing more is read, nothing is written and the update is counted as skipped; otherwise a step of the work does
one range of the elements (logs 7, 102): the new values leave as write wagons, and after the last range the step count and the generation
word wait for the retire point. A control word with a reserved bit ends the command with FORMAT. -/
def Obligations.UpdateWritesOrSkips : Prop :=
  ∀ (slot : Nat) (s : State) (c : Cmd) (st : Stage),
    s.xlt.mig = [] → s.workable slot 0x0C false = some c → c.stages = [st] →
    let p := upPar st.pb
    ∀ ctrl, c.control = some ctrl ∨ (c.control = none ∧ s.gather slot c 0 ⟨[], [(16, p.ctrl, 16)], none⟩ = (s, true)
      ∧ ctrl = (upFrom p.ctrl 16).map (s.cmdByte c 0 16)) →
    let c1 := { c with control := some ctrl }
    let s1 := if c.control.isSome then s else s.setCmd slot (some c1)
    let n := u64At ctrl 0
    let k := upScal p n (w32At ctrl 8)
    let skip := bitAt (u32At ctrl 12) 0 = true ∨ fFinite k.gs = false
    let has (o : Nat) : Bool := u64At st.pb o != 0
    let u : Win := ⟨c.pos, c.pos + 1⟩
    (u32At ctrl 12 < 2 → skip → c.outQ = [] → ∃ t c', exec (.update slot) s = .next t ∧ t.cmd? slot = some c' ∧ c'.phase = .worked ∧ c'.outQ = []
      ∧ c'.atRetire = c.atRetire ∧ getOc .updSkip c'.acc.oc = getOc .updSkip c.acc.oc + 1 ∧ OtherSlots slot s t ∧ Frame [.cmds, .cnt] s t)
    ∧ (∀ s2 c2, u32At ctrl 12 < 2 → ¬skip → s1.ready slot c1 = (s2, true) → s2.cmd? slot = some c2 → c2.chained = false → c2.pos = c.pos →
      c2.phase = .started → c2.control = some ctrl →
      let stack (e : Nat) : Nat := (s2.updStack c2 p (has 0x70) e).getD 0
      let w := upWork (s2.ioOf c2 0 st (fun _ => none)) p k (has 0x50) (has 0x58) (has 0x60) (has 0x70) stack u
      s2.outFault c2 0 w = none → NoPeer (c2.outQ ++ s2.outReqs slot c2 0 st.op w) →
      ∃ t c', exec (.update slot) s = .next t ∧ t.cmd? slot = some c' ∧ Left t c' (s2.outReqs slot c2 0 st.op w) ∧ c'.control = some ctrl
        ∧ (st.units ≤ u.hi → c'.phase = .worked ∧ c'.atRetire = c2.atRetire ++ updateWords p n)
        ∧ (u.hi < st.units → c'.phase = .started ∧ c'.pos = u.hi ∧ c'.atRetire = c2.atRetire)
        ∧ OtherSlots slot s2 t ∧ Frame ([.cmds, .cnt, .hosts] ++ if u.hi < st.units then aheadGroups else []) s2 t)
    ∧ (2 ≤ u32At ctrl 12 → isError c.st = false → ∃ t, exec (.update slot) s = .next t ∧ Ended t slot stFormat 0)

/-- MIGRATE completes its steps (R246–R248). A planned move copies the page's bytes to its destination, marks the entry with MIG, advances the
arena's FILL with COMP, and holds the page. A page so held is settled by a compare-and-swap of its entry: an entry that is still the one
marked becomes the new one, the page counts as moved, and its outcome byte is 0; one that has changed stays, the page counts as lost, and
its outcome byte is 3. A page that stays in place has its outcome byte at once. After the last page the work is done. A page takes two
steps, and the list and the destinations are fetched when the work begins (log 33). An arena header whose reserved bytes are not zero ends
the command with FORMAT (log 112). -/
def Obligations.MigrateMovesPages : Prop :=
  (∀ (slot : Nat) (s : State) (c : Cmd), s.workable slot 8 false = some c → c.outQ = [] →
      let p := mgPar c.pb
      (∀ h, s.xlt.mig = [h] → h.slot = slot →
        let s0 : State := { s with xlt := { s.xlt with mig := [] } }
        let won := s.mem.hbmWord h.slotPa 8 = h.expect
        let s1 := if won then s0.putEntry h.slotPa h.fresh else s0
        let out := s1.writeReqsVa slot c.ctx 0 40 (p.out + h.page) [if won then 0 else 3]
        NoPeer out →
        ∃ t c', exec (.migrate slot) s = .next t ∧ t.cmd? slot = some c' ∧ c'.mig = h.page + 1 ∧ c'.phase = .started
          ∧ t.xlt.mig = []
          ∧ (won → getOc .migMoved c'.acc.oc = getOc .migMoved c.acc.oc + 1)
          ∧ (¬won → getOc .migLost c'.acc.oc = getOc .migLost c.acc.oc + 1)
          ∧ SameBytes (applied s1.mem out) t.mem
          ∧ (h.fresh < 2 ^ 64 → h.slotPa % 8 = 0 → (∀ r ∈ out, r.line ≠ (Loc.hbm h.slotPa).line) →
            t.mem.hbmWord h.slotPa 8 = (if won then h.fresh else s.mem.hbmWord h.slotPa 8))
          ∧ Frame ([.xlt, .mem, .cmds, .cnt, .hosts] ++ aheadGroups) s t)
      ∧ (s.xlt.mig = [] → p.npages ≤ c.mig →
        ∃ t c', exec (.migrate slot) s = .next t ∧ t.cmd? slot = some c' ∧ c'.phase = .worked ∧ c'.mig = c.mig ∧ OtherSlots slot s t
          ∧ Frame [.cmds] s t))
  ∧ (∀ (slot : Nat) (s : State) (c : Cmd), s.workable slot 8 false = some c →
      let p := mgPar c.pb
      s.xlt.mig = [] → c.mig < p.npages → s.gather slot c 0 p.demand = (s, true) → s.migFault c p = none →
      (s.arenaBad c p = true → isError c.st = false → ∃ t, exec (.migrate slot) s = .next t ∧ Ended t slot stFormat 0)
      ∧ (let va := s.migVa c p c.mig
         s.arenaBad c p = false → s.reading slot c = false → s.pageBusy c.ctx (va / 65536) = false → s.peerLines c va = [] →
         (∀ l d b fresh fill, s.migPlan c p c.mig = .move l d b fresh fill →
           let e := s.mem.hbmWord l.slotPa 8 + 2 ^ 9
           let s1 := (s.landLoc d b).putEntry l.slotPa e
           let full := if p.comp then s1.writeReqsVa slot c.ctx 0 40 (p.dst + 0x10) (toLe 8 fill) else []
           ∃ t c', exec (.migrate slot) s = .next t ∧ t.cmd? slot = some c' ∧ c'.mig = c.mig ∧ c'.phase = .started
             ∧ (∀ x ∈ c'.tiles, x.field = 41 ∨ (x.field = 42 ∧ p.comp = false))
             ∧ t.xlt.mig = [⟨slot, c.mig, l.slotPa, e, fresh⟩] ∧ SameBytes (applied s1.mem full) t.mem
             ∧ (l.slotPa % 8 = 0 → e < 2 ^ 64 → (∀ r ∈ full, r.line ≠ (Loc.hbm l.slotPa).line) → t.mem.hbmWord l.slotPa 8 = e))
         ∧ (∀ out, s.migPlan c p c.mig = .done out → outcomeStatus out = none →
           ∃ t c', exec (.migrate slot) s = .next t ∧ t.cmd? slot = some c' ∧ c'.mig = c.mig + 1 ∧ c'.phase = .started ∧ t.xlt = s.xlt
             ∧ SameBytes (applied s.mem (s.writeReqsVa slot c.ctx 0 40 (p.out + c.mig) [BitVec.ofNat 8 out])) t.mem)
         ∧ (∀ out x, s.migPlan c p c.mig = .done out → outcomeStatus out = some x → isError c.st = false →
           ∃ t, exec (.migrate slot) s = .next t ∧ Ended t slot x 0)))
  ∧ (∀ (d : Loc) (b : List Byte) (s : State), (∀ node pa, d ≠ .peer node pa) →
      (∀ i, i < b.length → (s.landLoc d b).mem.get (d.add i) = nth 0 b i)
      ∧ (∀ x, x.sameSpace d = true → (∀ i, i < b.length → x ≠ d.add i) → (s.landLoc d b).mem.get x = s.mem.get x))

/-! ## The Yard (R376–R395) -/

/-- REDUCE (R381, R382): a member of an axis of more than one node begins by queueing, for each direction, the chunk of the member behind
it, encoded with its own elements; the new error memory of those chunks leaves as write wagons. GATHER and PERMUTE (R388, R389, R392): a
GATHER writes its own shard into OUT and queues its halves, one for each direction, unless the generations differ, which ends it with
STALE_GEN; a PERMUTE queues the frames of its entries in order. How frames are cut and what PHASE they carry is log 76, that all of them
are queued in one row log 7. -/
def Obligations.YardCommandsQueueTheirFrames : Prop :=
  (∀ (slot : Nat) (s : State) (c : Cmd) (y : YardSt) (st : Stage),
      s.xlt.mig = [] → s.workable slot 9 false = some c → isError c.st = false → c.yard = some y → c.stages = [st] → c.outQ = [] →
      y.begun = false → y.landed = [] → (∀ m, Tab.get 0 y.credit m = 0) → s.yardDown c y = false →
      s.gather slot c 0 (c.yardDemand st) = (s, true) →
      let p := ydPar c.pb
      p.n ≠ 0 → 1 < y.size →
      let chunk (h : Nat) : Nat := prevMember y.own y.size h
      let code (h : Nat) : YCode :=
        let e := chunkRange p.n y.size h (chunk h)
        reduceChunk p none (s.yardIn c 5 p.fmtIn e.1 e.2) (if p.comp = 0 then [] else s.yardIn c 7 0 e.1 e.2)
      let out (h : Nat) : WorkOut := s.reduceWork c p (chunkRange p.n y.size h (chunk h)).1 none (code h)
      let reqs (h : Nat) : List WagonReq := s.outReqs slot c 0 st.op (out h)
      let frames (h : Nat) : List YOut := c.blockFrames y h 0 (chunk h) 0 (code h).enc 0 (code h).payload
      s.outFault c 0 (out 0) = none → s.outFault c 0 (out 1) = none → NoPeer (reqs 0 ++ reqs 1) →
      ∃ t c', exec (.reduce slot) s = .next t ∧ t.cmd? slot = some c' ∧ c'.phase = .started ∧ Left t c' (reqs 0 ++ reqs 1)
        ∧ c'.yard = some { y with begun := true, sendQ := y.sendQ ++ frames 0 ++ frames 1 }
        ∧ OtherSlots slot s t ∧ Frame [.cmds, .cnt, .hosts] s t)
  ∧ (∀ (slot op : Nat) (s : State) (c : Cmd) (y : YardSt) (st : Stage),
      s.xlt.mig = [] → s.workable slot op false = some c → isError c.st = false → c.yard = some y → c.stages = [st] → c.outQ = [] →
      y.begun = false → y.landed = [] → (∀ m, Tab.get 0 y.credit m = 0) → s.yardDown c y = false →
      s.gather slot c 0 (c.yardDemand st) = (s, true) →
      let p := ydPar c.pb
      let g := y.gens.headD 0
      let b := (List.range p.n).map (s.streamRd c 0 5)
      let w : WorkOut := { outs := if p.n = 0 then [] else [(6, y.own * p.n, b)] }
      let half (h : Nat) : List YOut := c.blockFrames y h 1 y.own 0 0 g (slice b (shardHalf p.n h).1 (shardHalf p.n h).2)
      (op = 10 → 1 < y.size → y.stale p g = false → s.outFault c 0 w = none → NoPeer (s.outReqs slot c 0 st.op w) →
        ∃ t c', exec (.gather slot) s = .next t ∧ t.cmd? slot = some c' ∧ c'.phase = .started ∧ Left t c' (s.outReqs slot c 0 st.op w)
          ∧ c'.yard = some { y with begun := true, sendQ := y.sendQ ++ half 0 ++ half 1 } ∧ OtherSlots slot s t
          ∧ Frame [.cmds, .cnt, .hosts] s t)
      ∧ (op = 10 → y.stale p g = true → ∃ t, exec (.gather slot) s = .next t ∧ Ended t slot stStaleGen 0)
      ∧ (op = 11 → (∀ e ∈ st.sends, e.dest ≠ y.own) → y.recvd < p.recvBytes →
        ∃ t c', exec (.permute slot) s = .next t ∧ t.cmd? slot = some c' ∧ c'.phase = .started
          ∧ c'.yard = some { y with begun := true, sendQ := y.sendQ ++ st.sends.flatMap (s.entryFrames c y) } ∧ OtherSlots slot s t
          ∧ Frame [.cmds] s t))

/-- The end of a Yard command's work (R389, R392, R306): everything has been sent and received. A GATHER reports the common generation. A port
that it needs and that is down ends a Yard command with LINK_DOWN (R395; which ports a PERMUTE needs while it receives: log 108). -/
def Obligations.YardCommandsFinish : Prop :=
  ∀ (slot op : Nat) (i : Instr) (s : State) (c : Cmd) (y : YardSt) (st : Stage),
    (op, i) ∈ [(9, .reduce slot), (10, .gather slot), (11, .permute slot)] →
    s.xlt.mig = [] → s.workable slot op false = some c → isError c.st = false → c.yard = some y → c.stages = [st] → y.begun = true →
    (c.outQ = [] → y.sendQ = [] → y.landed = [] → y.expecting op (ydPar c.pb) = false → s.packetsOut slot = false → s.yardDown c y = false →
      ∃ t c', exec i s = .next t ∧ t.cmd? slot = some c' ∧ c'.phase = .worked ∧ OtherSlots slot s t ∧ Frame [.cmds, .cnt] s t
        ∧ (op = 10 → getOc .ydGen c'.acc.oc = getOc .ydGen c.acc.oc + y.gens.headD 0
          ∧ c'.atRetire = c.atRetire ++ (if (ydPar c.pb).genOut = 0 then [] else [⟨(ydPar c.pb).genOut, toLe 4 (y.gens.headD 0), false⟩]))
        ∧ (op ≠ 10 → c'.atRetire = c.atRetire))
    ∧ (s.yardDown c y = true → ∃ t, exec i s = .next t ∧ Ended t slot stLinkDown 0)

/-- OPEN, GRANT and REJECT (R376): an OPEN that no admitted command answers waits in the pending table, unless its job is in another epoch or
the table is full; one that matches a command gives its sender two credits, unless the shapes or the axes differ; a GRANT adds its credits,
and a REJECT with an error status ends the command with it. A dump's freeze holds each of them back (R480). -/
def Obligations.OpensGrantsAndRejects : Prop :=
  ∀ (axis : Nat) (f : YardFrame) (s : State),
    (∀ i, i ∈ [Instr.openFrame axis f, .grantFrame axis f, .rejectFrame axis f] → s.trc.dump.busy = true → exec i s = .next (s.holdBack i))
    ∧ (s.trc.dump.busy = false →
    (s.yardTarget f = none → s.epochDiffers f = false → s.yard.pend.length < 256 →
      exec (.openFrame axis f) s = .next { s.bump (cntYard 2) 1 with yard := { s.yard with pend := s.yard.pend ++ [⟨axis, f, s.time.cmdClk⟩] } })
    ∧ (s.yardTarget f = none → s.epochDiffers f = true ∨ 256 ≤ s.yard.pend.length →
      ∃ t, exec (.openFrame axis f) s = .next t ∧ Frame [.log, .cnt, .trc, .fab, .hosts] s t)
    ∧ (∀ slot c y, s.yardTarget f = some slot → s.cmd? slot = some c → c.yard = some y →
      let fits := f.shapeHash = yardHash c.op c.pb ∧ (ydPar c.pb).axis = axis
      (fits →
        ∃ t, exec (.openFrame axis f) s = .next t ∧ OtherSlots slot s t ∧ Frame [.log, .cnt, .trc, .cmds, .fab, .hosts] s t
          ∧ t.cmd? slot = some { c with yard := some { y with grants := Tab.set 0 y.grants f.sender (Tab.get 0 y.grants f.sender + 2) } })
      ∧ (¬fits → ∃ t, exec (.openFrame axis f) s = .next t ∧ Frame [.log, .cnt, .trc, .fab, .hosts] s t)
      ∧ (c.phase ≠ .started → y.axis = axis →
        exec (.grantFrame axis f) s = .next ((s.bump (cntYard 2) 1).setCmd slot (some { c with yard := some { y with
          credit := Tab.set 0 y.credit f.sender (Tab.get 0 y.credit f.sender + f.argb.toNat), waitFrom := s.time.cmdClk } })))
      ∧ (isReturned f.argb = true → isError c.st = false → c.started = true → y.axis = axis →
        ∃ t, exec (.rejectFrame axis f) s = .next t ∧ Ended t slot f.argb (if f.argb = stTimeout then 0x05 else 0))))

/-- DATA (R377): a frame that the schedule expects lands in its staging slot and waits to be taken up; one of another shape ends the command
with FORMAT; any other frame is discarded, counted and logged. A dump's freeze holds it back (R480). Which slot a frame takes, and what
becomes of an unmatched one, is log 77. -/
def Obligations.DataFramesLandInStaging : Prop :=
  ∀ (axis : Nat) (f : YardFrame) (s : State),
    (s.trc.dump.busy = true → exec (.dataFrame axis f) s = .next (s.holdBack (.dataFrame axis f)))
    ∧ (s.trc.dump.busy = false →
    (s.yardPeer axis f = none → ∃ t, exec (.dataFrame axis f) s = .next t ∧ Tab.get 0 t.cnt (cntYard 6) = Tab.get 0 s.cnt (cntYard 6) + 1
      ∧ Frame [.log, .cnt, .trc, .hosts] s t)
    ∧ (∀ slot c y, s.yardPeer axis f = some slot → s.cmd? slot = some c → c.yard = some y → isError c.st = false → c.phase ≠ .worked →
      let p := ydPar c.pb
      (f.shapeHash = yardHash c.op c.pb → y.takes c.op p f = true → ¬(c.op = 11 ∧ c.permuteOver y f = true) → s.xlt.mig = [] →
        c.phase ≠ .started ∨ y.begun = false →
        ∃ t c', exec (.dataFrame axis f) s = .next t ∧ t.cmd? slot = some c' ∧ c'.phase = c.phase
          ∧ c'.yard = some { y with landed := y.landed ++ [f], waitFrom := s.time.cmdClk }
          ∧ SameBytes (applied s.mem (s.writeReqsVa 0 c.ctx 0 0 (p.stage + frameMax * y.stageSlot c.op f) f.payload)) t.mem
          ∧ Frame [.cmds, .cnt, .mem, .hosts] s t)
      ∧ (f.shapeHash = yardHash c.op c.pb → y.takes c.op p f = false →
        ∃ t c', exec (.dataFrame axis f) s = .next t ∧ t.cmd? slot = some c' ∧ c'.yard = some y
          ∧ getOc .ydBad c'.acc.oc = getOc .ydBad c.acc.oc + 1 ∧ OtherSlots slot s t ∧ Frame [.log, .cnt, .trc, .cmds, .hosts] s t)
      ∧ (f.shapeHash ≠ yardHash c.op c.pb → c.started = true → ∃ t, exec (.dataFrame axis f) s = .next t ∧ Ended t slot stFormat 0)))

/-- The time-outs and cancels of the Yard (R376, R394, R395): a pending OPEN leaves the table, and a started command that waits for frames,
one that waits for the drain of its job, and one that a cancel names, end. RING_CANCEL and RING_TIMEOUT (R140): a cancel ends the ring
command of its tag with ABORTED; a started member that has waited for a credit, or for a whole chunk, for COLL_MS ends with TIMEOUT, detail
0x05. A dump's freeze holds the cancels back (R480). The drain is timed from the PERMUTE's admission (log 77), the chunk and the credit apart
(log 22). -/
def Obligations.YardsAndRingsTimeOutAndAreCancelled : Prop :=
  ((∀ (entry : Nat) (s : State) (e : PendOpen), s.trc.dump.busy = false → s.yard.pend[entry]? = some e →
      e.at_.toNat + s.cfg.collMs * 1000000 ≤ s.time.cmdClk.toNat →
      ∃ t, exec (.pendingOpenTimeout entry) s = .next t
        ∧ t.yard = { s.yard with pend := s.yard.pend.take entry ++ s.yard.pend.drop (entry + 1) }
        ∧ Frame [.log, .cnt, .trc, .yard, .fab, .hosts] s t)
    ∧ (∀ (slot : Nat) (s : State) (c : Cmd), s.trc.dump.busy = false → s.cmd? slot = some c → isError c.st = false →
      (∀ y, c.yard = some y → c.phase = .started → y.begun = true → y.sendQ ≠ [] ∨ y.expecting c.op (ydPar c.pb) = true →
        y.waitFrom.toNat + s.cfg.collMs * 1000000 ≤ s.time.cmdClk.toNat →
        ∃ t, exec (.collectiveTimeout slot) s = .next t ∧ Ended t slot stTimeout 0x05)
      ∧ (slot < 4096 → c.op = 11 → c.started = false → c.dual = none → c.parent = none → s.draining c = true →
        c.admitAt.toNat + s.cfg.collMs * 1000000 ≤ s.time.cmdClk.toNat →
        ∃ t, exec (.drainTimeout slot) s = .next t ∧ t.cmd? slot = none)
      ∧ (∀ port tag, s.yardByTag tag = some slot → c.started = true → ∃ t, exec (.yardCancel port tag) s = .next t ∧ Ended t slot stAborted 0)
      ∧ (∀ port tag, s.yardByTag tag = some slot → slot < 4096 → c.started = false → c.dual = none → c.parent = none →
        ∃ t, exec (.yardCancel port tag) s = .next t ∧ t.cmd? slot = none)))
  ∧ (∀ (s : State) (port : Nat) (tag : Word), s.trc.dump.busy = true → exec (.yardCancel port tag) s = .next (s.holdBack (.yardCancel port tag))
      ∧ exec (.ringCancel port tag) s = .next (s.holdBack (.ringCancel port tag)))
  ∧ (∀ (slot : Nat) (s : State) (c : Cmd), s.trc.dump.busy = false → s.cmd? slot = some c → isError c.st = false → c.started = true →
      (∀ port tag, s.ringByTag tag = some slot → ∃ t, exec (.ringCancel port tag) s = .next t ∧ Ended t slot stAborted 0)
      ∧ (∀ st r, s.ringOf slot = some (c, st, r) →
        (r.waitsCredit (atPar st.op st.pb) = true ∧ r.creditFrom.toNat + s.cfg.collMs * 1000000 ≤ s.time.cmdClk.toNat)
          ∨ (r.waitsChunk (atPar st.op st.pb) = true ∧ r.waitFrom.toNat + s.cfg.collMs * 1000000 ≤ s.time.cmdClk.toNat) →
        ∃ t, exec (.ringTimeout slot) s = .next t ∧ Ended t slot stTimeout 0x05))

/-! ## The ring of the sequence axis (R135–R140, R146) -/

/-- ATTN_FWD and ATTN_BWD around a ring (R133, R135, R140, R145, R146): a forward member that holds the chunk of its step joins it to its rows,
and passes on to the next step; once every step has been computed and every chunk sent on and acknowledged, the outputs leave, and a
backward member in ACCUM mode goes on to convert its dQ buffer. A wait for a credit that runs while a step is computed goes on (R140). A
member whose sequences have no query has done its work at once (log 22). A
port of the ring that is down ends the command with LINK_DOWN. -/
def Obligations.RingMembersComputeTheirSteps : Prop :=
  ∀ (slot op : Nat) (i : Instr) (s : State) (c : Cmd) (st : Stage) (j : Nat) (r : RingSt),
    (op, i) ∈ [(3, .attnFwd slot), (4, .attnBwd slot)] → s.xlt.mig = [] → s.workable slot op false = some c → c.ring = some r →
    c.ringStage = some (st, j) → st.op = op → isError c.st = false → c.outQ = [] →
    let a := s.atIn c r.stage st
    let p := a.p
    let k := r.step
    let c1 := { c with rung := c.rung ++ [(r.stage, r.rows)] }
    let w := if op = 3 then s.fwdWork c1 r.stage st ⟨0, st.units⟩ else s.ringBwdOut c st r
    let reqs := (s.setCmd slot (some c1)).outReqs slot c1 r.stage op w
    (st.idle = false → s.ringDown = true → ∃ t, exec i s = .next t ∧ Ended t slot stLinkDown 0)
    ∧ (st.idle = true ∨ (s.ringDown = false ∧ r.over p = true) → s.outFault c r.stage w = none → NoPeer reqs →
      ∃ t c', exec i s = .next t ∧ t.cmd? slot = some c' ∧ Left t c' reqs
        ∧ (op = 3 ∨ (atPar 4 st.pb).accum = false → c'.phase = .worked)
        ∧ (op = 4 → (atPar 4 st.pb).accum = true → c'.phase = .started ∧ c'.info = 1)
        ∧ OtherSlots slot s t ∧ Frame [.cmds, .cnt, .hosts] s t)
    ∧ (op = 3 → st.idle = false → s.ringDown = false → r.over p = false → k < p.ringLen → k = 0 ∨ r.present.contains k = true →
      r.credits = 0 → r.owed = 0 → ∀ s1 c1, s.ready slot c = (s1, true) → s1.cmd? slot = some c1 → c1.ring = c.ring → c1.stages = c.stages →
      c1.status = c.status → c1.phase = .started → NoPeer c1.outQ →
      ∃ t c', exec i s = .next t ∧ t.cmd? slot = some c' ∧ c'.phase = .started ∧ c'.eaten = 0
        ∧ (∃ rows, rows = ((s1.atIn c1 r.stage st).fwdChunk
              (if k = 0 then s1.kvOwn c1 r.stage st else s1.kvRing c1 r.stage st k) (p.originAt k)
              (if k = 0 then (s1.atIn c1 r.stage st).start else r.rows)).1
          ∧ c'.ring = some { r with step := k + 1, rows := rows, acc := [], waitFrom := s.time.cmdClk
                                    creditFrom := if r.waitsCredit p then r.creditFrom else s.time.cmdClk
                                    present := r.present.filter (fun x => x != k) }))

/-- RING_CHUNK_RX and RING_CREDIT_RX (R136–R138): the next frame of the image lands in its slot, and the whole image is a chunk or the own
accumulators; a frame of another shape ends the command with FORMAT, and any other is discarded and counted. A credit is one more slot of
the neighbour, of two. A dump's freeze holds both back (R480). Frames are accepted from the command's admission on, and what a frame or a
credit that fails is met by is the model's choice (log 22). -/
def Obligations.RingChunksAndCreditsArrive : Prop :=
  (∀ (slot : Nat) (f : RingFrame) (s : State), s.trc.dump.busy = true →
    exec (.ringChunkRx slot f) s = .next (s.holdBack (.ringChunkRx slot f)) ∧ exec (.ringCreditRx slot f) s = .next (s.holdBack (.ringCreditRx slot f)))
  ∧ ∀ (slot : Nat) (f : RingFrame) (s : State) (c : Cmd) (st : Stage) (r : RingSt), s.trc.dump.busy = false → s.ringOf slot = some (c, st, r) →
    let p := atPar st.op st.pb
    let n := st.shard
    let got := r.rxOff + f.payload.length
    let va := slotVa p n r.rxStep + (if r.rxStep = p.ringLen then accOff p n else 0) + r.rxOff
    (f.ringTag = p.ringTag → f.shapeHash = ringHash st.pb → ringMatches p n r f = true → s.xlt.mig = [] →
      ∃ t c', exec (.ringChunkRx slot f) s = .next t ∧ t.cmd? slot = some c' ∧ SameBytes (applied s.mem (s.writeReqsVa 0 c.ctx 0 0 va f.payload)) t.mem
        ∧ (got ≠ ringExpect p n r → c'.ring = some { r with rxOff := got })
        ∧ (got = ringExpect p n r → r.rxStep ≠ p.ringLen → c'.ring = some { r with
            rxOff := 0, rxStep := r.rxStep + 1, present := r.present ++ [r.rxStep], waitFrom := s.time.cmdClk })
        ∧ (got = ringExpect p n r → r.rxStep = p.ringLen → c'.ring = some { r with
            rxOff := 0, rxStep := r.rxStep + 1, accIn := true, waitFrom := s.time.cmdClk })
        ∧ Frame [.cmds, .cnt, .mem, .hosts] s t)
    ∧ (f.ringTag ≠ p.ringTag ∨ (f.shapeHash = ringHash st.pb ∧ ringMatches p n r f = false) →
      ∃ t c', exec (.ringChunkRx slot f) s = .next t ∧ t.cmd? slot = some c' ∧ c'.ring = some r
        ∧ getOc .ringBad c'.acc.oc = getOc .ringBad c.acc.oc + 1 ∧ Frame [.log, .cnt, .trc, .cmds, .hosts] s t)
    ∧ (f.ringTag = p.ringTag → f.shapeHash ≠ ringHash st.pb → c.started = true → isError c.st = false →
      ∃ t, exec (.ringChunkRx slot f) s = .next t ∧ Ended t slot stFormat 0)
    ∧ (f.ringTag = p.ringTag → f.ftype = 3 → r.step ≤ r.sent ∨ ringLimit p ≤ r.sent →
      exec (.ringCreditRx slot f) s = .next (s.setCmd slot (some { c with
        ring := some { r with credits := min 2 (r.credits + 1), creditFrom := s.time.cmdClk } })))

/-! ## Ports, packets and fabric time (R343–R369) -/

/-- The states of a port (R346, R350, R351, R354): TRAIN takes a DOWN port into TRAINING and an UP port into RETRAINING, and DISABLE takes it
DOWN, for the management core alone; a lost lane, replays without progress, a credit stall and an attempt that takes 2 ms take the
port where R351 says. The REASON and the log of a retraining are the model's choice (log 38). -/
def Obligations.PortsChangeTheirStates : Prop :=
  (∀ (mst : Master) (k : Nat) (s : State), s.regReady mst false = true →
    let p := s.port k
    (mst ≠ .m → exec (.train mst k) s = .next ((s.clearBus mst).logReg mst (0x701008 + 0x100 * k))
      ∧ exec (.disable mst k) s = .next ((s.clearBus mst).logReg mst (0x701008 + 0x100 * k)))
    ∧ (mst = .m → p.state = .down → s.trainable k = true → ∃ t, exec (.train mst k) s = .next t ∧ (t.port k).state = .training
      ∧ (t.port k).attempt = 1 ∧ (t.port k).tstate = 1 ∧ (t.port k).trainAt = s.time.clk ∧ OtherPorts k s t ∧ Frame [.bus, .trc, .fab] s t)
    ∧ (mst = .m → p.state = .up → ∃ t, exec (.train mst k) s = .next t ∧ (t.port k).state = .retraining ∧ (t.port k).reason = 0
      ∧ (t.port k).retrains = min 255 (p.retrains + 1) ∧ (t.port k).replay = p.replay ∧ OtherPorts k s t ∧ Frame [.bus, .trc, .fab] s t)
    ∧ (mst = .m → p.state = .off → exec (.disable mst k) s = .next (s.clearBus mst))
    ∧ (mst = .m → p.state ≠ .off → ∃ t, exec (.disable mst k) s = .next t ∧ (t.port k).state = .down ∧ (t.port k).reason = 6
      ∧ (t.port k).replay = [] ∧ (t.port k).quiet ∧ (t.port k).rxSlots = p.keepWhole.rxSlots))
  ∧ (∀ (k : Nat) (s : State),
    let p := s.port k
    let retrained (t : State) (reason : Nat) : Prop := (t.port k).state = .retraining ∧ (t.port k).reason = reason
      ∧ (t.port k).attempt = 1 ∧ (t.port k).replay = p.replay ∧ OtherPorts k s t
    (p.state = .up → ∃ t, exec (.laneLockLoss k) s = .next t ∧ retrained t 1 ∧ Frame [.log, .trc, .fab, .hosts] s t)
    ∧ (p.state ≠ .up → exec (.laneLockLoss k) s = .next s)
    ∧ (p.state = .training → p.trainAt.toNat + 2000000 ≤ s.time.clk.toNat →
      ∃ t, exec (.trainTimeout k) s = .next t ∧ (t.port k).state = .down ∧ (t.port k).reason = 3)
    ∧ (p.state = .retraining → p.attempt < 3 → p.trainAt.toNat + 2000000 ≤ s.time.clk.toNat →
      ∃ t, exec (.trainTimeout k) s = .next t ∧ (t.port k).state = .retraining ∧ (t.port k).attempt = p.attempt + 1
        ∧ (t.port k).trainAt = s.time.clk ∧ OtherPorts k s t ∧ Frame [.log, .trc, .fab, .hosts] s t)
    ∧ (∀ e l, p.state = .up → p.replay = e :: l → e.1.toNat + s.cfg.replayNs ≤ s.time.clk.toNat →
      (p.runs < 8 → ∃ t, exec (.replayTimeout k) s = .next t ∧ (t.port k).runs = p.runs + 1
        ∧ (t.port k).replay = p.replay.map (fun x => (s.time.clk, x.2)) ∧ (t.port k).sent.length = p.sent.length + p.replay.length
        ∧ Tab.get 0 t.cnt (cntPort k 0) = Tab.get 0 s.cnt (cntPort k 0) + BitVec.ofNat 64 p.replay.length
        ∧ OtherPorts k s t ∧ Frame [.log, .cnt, .trc, .fab, .hosts] s t)
      ∧ (8 ≤ p.runs → ∃ t, exec (.replayTimeout k) s = .next t ∧ retrained t 4 ∧ Frame [.log, .trc, .fab, .hosts] s t))
    ∧ (∀ vc x l, p.state = .up → vc < 8 → p.queue vc = x :: l → p.credit vc < x.p.len + 1 → x.since.toNat + 1000000 ≤ s.time.clk.toNat →
      ∃ t, exec (.creditStall k vc) s = .next t ∧ retrained t 5 ∧ Frame [.log, .trc, .fab, .hosts] s t))

/-- FLIT_RX (R344–R346): a flit that fails its CRC is discarded and asked for again, a DATA flit is taken in the order of SEQ, and an ACK
removes the flits that it covers from the replay buffer. -/
def Obligations.FlitsAreTakenInOrder : Prop :=
  ∀ (k : Nat) (b : List Byte) (s : State),
    let p := s.port k
    (p.state = .off → exec (.flitRx k b) s = .next s)
    ∧ (p.state = .up → parseFlit b = none → ∃ t, exec (.flitRx k b) s = .next t ∧ (t.port k).crcErr = min 0xFFFFFFFF (p.crcErr + 1)
      ∧ (t.port k).rxNext = p.rxNext ∧ (t.port k).rxSlots = p.rxSlots
      ∧ (p.nakGone = false → ∃ f l, (t.port k).sent = p.sent ++ f :: l ∧ f.nak = true) ∧ Frame [.cnt, .fab] s t)
    ∧ (∀ f, p.state = .up → parseFlit b = some f → f.ftype = 1 → f.ackV = false → f.nak = false →
      (f.seq = p.rxNext → ∃ t, exec (.flitRx k b) s = .next t ∧ (t.port k).rxNext = p.rxNext + 1 ∧ (t.port k).ackV = true
        ∧ (t.port k).rxSlots = p.rxSlots ++ f.body ∧ Tab.get 0 t.cnt (cntPort k 1) = Tab.get 0 s.cnt (cntPort k 1) + 1
        ∧ Frame [.cnt, .fab] s t)
      ∧ (f.seq ≠ p.rxNext → ∃ t, exec (.flitRx k b) s = .next t ∧ (t.port k).rxNext = p.rxNext ∧ (t.port k).rxSlots = p.rxSlots
        ∧ Frame [.cnt, .fab] s t))
    ∧ (∀ f before e after, p.state = .up → p.quiet → parseFlit b = some f → f.ftype = 0 → f.ackV = true → f.nak = false →
      p.replay = before ++ e :: after → e.2.seq = f.ack → (∀ x ∈ before, x.2.seq ≠ f.ack) →
      ∃ t, exec (.flitRx k b) s = .next t ∧ (t.port k).replay = after ∧ (t.port k).runs = 0
        ∧ (∀ x ∈ (t.port k).inReplay, x ∈ p.inReplay ∧ ∀ y ∈ before ++ [e], y.2.seq ≠ x.seq) ∧ OtherPorts k s t ∧ Frame [.fab] s t)

/-- PACKET_RX, CREDIT, CREDIT_RETURN_TIMER and DEPARTURE_WINDOW (R347–R350, R356, R368): PACKET_RX completes: a received packet for this
device leaves the receive stream, gives its slots back and is what the row of its kind says, one for another node is sent on by dimension
order, a CREDIT packet of the neighbour is taken by its port; credits are added to their channels, and those to be returned leave in a CREDIT
packet; in a departure window the packet at the head of a channel leaves, and uses its credits; a departure that it has missed is logged while
a supply warning slows the cores (R456; what a port has missed: log 120). The order of loop-back, transit and received packets is log
50. -/
def Obligations.PacketsAreTakenAndSent : Prop :=
  ∀ (k : Nat) (s : State),
    let q := s.port k
    (∀ (p : Packet) (rest : List Byte) (i : Instr), s.fab.loop = [] → q.rxSlots = p.slots ++ rest → p.data.length = 32 * p.len → p.len ≤ 256 →
      headerBad p.header = false → s.mustWait p = false → p.dst.toNat = s.cfg.node.node → s.cfg.node.node < s.cfg.node.count →
      (p.kind.toNat, i) ∈ [(1, .rdReq k p), (2, .wr k p), (3, .wrMask k p), (4, .rdRsp k p), (5, .wrAck k p), (6, .errRsp k p)] →
      let q1 := { q with rxSlots := rest, rxRpl := q.rxRpl.drop (p.len + 1), rxAt := q.rxAt.drop (p.len + 1) }
      let s1 := (s.setPort k q1).setPort k { q1 with ret := Tab.set 0 q.ret p.vc (Tab.get 0 q.ret p.vc + p.len + 1) }
      ∃ t, exec (.packetRx k) s = .next t ∧ exec i s1 = .next t)
    ∧ (∀ (p : Packet) (rest : List Byte) (t : State), s.fab.loop = [] → q.rxSlots = p.slots ++ rest → p.data.length = 32 * p.len →
      p.len ≤ 256 → headerBad p.header = false → s.mustWait p = false → p.linkLocal = false → p.dst.toNat ≠ s.cfg.node.node →
      p.dst.toNat < s.cfg.node.count →
      (s.setPort k { q with rxSlots := rest, rxRpl := q.rxRpl.drop (p.len + 1), rxAt := q.rxAt.drop (p.len + 1) }).sendPacket p none none (some (k, p.vc)) = (t, .sent) →
      exec (.packetRx k) s = .next t)
    ∧ (∀ (p : Packet) (rest : List Byte), s.fab.loop = [] → q.rxSlots = p.slots ++ rest → p.data.length = 32 * p.len → p.len ≤ 256 →
      p.kind = 9 → headerBad p.header = false → p.src.toNat = q.peerNode →
      ∃ t, exec (.packetRx k) s = .next t
        ∧ exec (.credit k p) (s.setPort k { q with rxSlots := rest, rxRpl := q.rxRpl.drop (p.len + 1), rxAt := q.rxAt.drop (p.len + 1) })
          = .next t)
    ∧ (∀ (p : Packet) (rest : List Packet) (i : Instr), s.fab.loop = p :: rest → s.mustWait p = false →
      (p.kind.toNat, i) ∈ [(1, .rdReq k p), (2, .wr k p), (3, .wrMask k p), (4, .rdRsp k p), (5, .wrAck k p), (6, .errRsp k p)] →
      ∃ t, exec (.packetRx k) s = .next t ∧ exec i { s with fab := { s.fab with loop := rest } } = .next t)
    ∧ (s.fab.loop = [] → q.rxSlots = [] → exec (.packetRx k) s = .next s)
    ∧ (∀ p, q.quiet → ∃ t, exec (.credit k p) s = .next t ∧ OtherPorts k s t ∧ Frame [.fab] s t
      ∧ (∀ vc, vc < 8 → (t.port k).credit vc = q.credit vc + (if vc < 4 then p.addr.toNat else p.arg2.toNat) / 2 ^ (16 * (vc % 4)) % 2 ^ 16))
    ∧ (q.quiet → q.state = .up → q.ret ≠ [] → q.retAt.toNat + 64 ≤ s.time.clk.toNat → q.replay.length < 512 →
      ∃ t f, exec (.creditReturnTimer k) s = .next t ∧ (t.port k).ret = [] ∧ (t.port k).retAt = s.time.clk
        ∧ (t.port k).sent = q.sent ++ [f] ∧ f.ftype = 1 ∧ f.seq = q.txSeq
        ∧ (let w (a : Nat) : Nat := Tab.get 0 q.ret a + Tab.get 0 q.ret (a + 1) * 2 ^ 16 + Tab.get 0 q.ret (a + 2) * 2 ^ 32
             + Tab.get 0 q.ret (a + 3) * 2 ^ 48
           (∀ vc, Tab.get 0 q.ret vc < 2 ^ 16) → (packetOf (f.body.take 32) []).kind = 9 ∧ (packetOf (f.body.take 32) []).addr.toNat = w 0
             ∧ (packetOf (f.body.take 32) []).arg2.toNat = w 4) ∧ OtherPorts k s t ∧ Frame [.cnt, .fab] s t)
    ∧ (s.cfg.profile ≠ .express → q.state ≠ .up ∨ (∀ vc, s.startable k vc = none) → exec (.departureWindow k) s = .next s)
    ∧ (∀ vc x l w, s.cfg.profile = .express → vc = 4 ∨ vc = 5 → q.queue vc = x :: l → (∀ d, d ≠ vc → q.queue d = []) → s.missedBy k x = [w] →
      Tab.get 0 q.missed vc ≤ w → ∃ t, exec (.departureWindow k) s = .next t ∧ Tab.get 0 (t.port k).missed vc = w + 1
        ∧ (s.slowed = true → ∃ e ∈ t.log.entries, e.status = stOk ∧ e.unit = uPort ∧ e.addr = w)
        ∧ (s.slowed = false → t.log = s.log) ∧ Frame [.log, .cnt, .trc, .fab, .hosts] s t)
    ∧ (∀ vc x, q.state = .up → q.replay.length < 512 → vc < 8 → s.startable k vc = some x → (∀ d, d ≠ vc → q.queue d = []) → q.queue vc = [x] →
      x.from_ = none → x.p.data.length = 32 * x.p.len →
      ∃ t, exec (.departureWindow k) s = .next t ∧ (t.port k).quiet ∧ (t.port k).credit vc + (x.p.len + 1) = q.credit vc
        ∧ (t.port k).sent.length = q.sent.length + (x.p.len + 8) / 8 ∧ OtherPorts k s t ∧ Frame [.log, .cnt, .trc, .fab, .hosts] s t)

/-- Dimension order (R356): a node's own packets are delivered locally; any other leaves on the first axis of D, P, T, S where the coordinates
differ, in the direction a+ when twice the distance is at most the size of the axis, and a− otherwise (R355 gives the coordinates). -/
def Obligations.PacketsFollowDimensionOrder : Prop :=
  ∀ (s : State) (dst : Nat),
    let n := s.cfg.node
    let delta (a : Nat) : Int := ((n.coord dst a : Int) - n.own a) % n.size a
    (∀ a, a < 4 → n.own a < n.size a) → n.node = n.member 0 (n.own 0) → dst < n.count →
    (dst = n.node → s.routeTo dst = .here)
    ∧ (dst ≠ n.node → ∃ a, a < 4 ∧ delta a ≠ 0)
    ∧ (∀ a, a < 4 → (∀ b, b < a → delta b = 0) → delta a ≠ 0 →
      n.dimOrder dst = some (if 2 * delta a ≤ n.size a then 2 * a else 2 * a + 1)
      ∧ (∀ k, n.dimOrder dst = some k → (s.tblSlot 4 k).bound = false → s.routeTo dst = .port k))

/-- RD_REQ, WR and WR_MASK (R274, R360): a request for a line that an export window opens to its source is served and answered; any other is
answered with ERR_RSP, and changes no byte of memory. RD_RSP, WR_ACK and ERR_RSP (R274, R349, R354, R360): a response serves the wagon that
it names, an acknowledged write of this device is watched, an ERR_RSP ends the command of a write with its STATUS, and a response that names
no wagon is discarded and logged. A dump's freeze holds a request (R480). How a response is matched is log 50. -/
def Obligations.PeerRequestsAndResponsesAreServed : Prop :=
  (∀ (k : Nat) (p : Packet) (s : State), s.trc.dump.busy = true →
    exec (.rdReq k p) s = .next { s with fab := { s.fab with loop := s.fab.loop ++ [{ p with kind := 1 }] } }
    ∧ exec (.wr k p) s = .next { s with fab := { s.fab with loop := s.fab.loop ++ [{ p with kind := 2 }] } }
    ∧ exec (.wrMask k p) s = .next { s with fab := { s.fab with loop := s.fab.loop ++ [{ p with kind := 3 }] } })
  ∧ (∀ (k : Nat) (p : Packet) (s : State), s.asleep = false → s.trc.dump.busy = false →
      let pa := p.addr.toNat
      let rd := { p with kind := 1 }
      (s.peerOk rd false = false → exec (.rdReq k p) s = .next (s.errRsp rd stXlate))
      ∧ (s.peerOk rd false = true → s.mem.eccAt (.hbm pa) = .clean → exec (.rdReq k p) s
        = .next ((s.bump (cntStack (s.stackOf pa) 1) 1).respond (s.mkPacket p.src.toNat 4 pa p.tag.toNat (s.mem.read (.hbm pa) 512))))
      ∧ (s.peerOk rd false = true → s.mem.eccAt (.hbm pa) = .uncorrectable →
        ∃ t, exec (.rdReq k p) s = .next t ∧ SameBytes s.mem t.mem ∧ t.mem.eccAt (.hbm pa) = .uncorrectable
          ∧ Frame [.log, .cnt, .trc, .mem, .fab, .hosts] s t)
      ∧ (∀ (wr : Packet) (i : Instr), (wr, i) ∈ [({ p with kind := 2 }, .wr k p), ({ p with kind := 3 }, .wrMask k p)] →
        (s.peerOk wr true = false → exec i s = .next (s.errRsp wr stXlate))
        ∧ (s.peerOk wr true = true → ∃ t, exec i s = .next t ∧ SameBytes (s.mem.writeMasked (.hbm pa) (wrBytesOf wr)) t.mem
          ∧ Frame [.log, .cnt, .trc, .mem, .cmds, .fab, .hosts] s t)))
  ∧ (∀ (k : Nat) (p : Packet) (s : State),
      ((∀ w ∈ s.cmds.wagons, w.served = true ∨ w.tag ≠ p.tag.toNat) → exec (.rdRsp k p) s = .next (s.discardPacket k p)
        ∧ exec (.wrAck k p) s = .next (s.discardPacket k p) ∧ exec (.errRsp k p) s = .next (s.discardPacket k p))
      ∧ (∀ (before after : List Wagon) (w : Wagon), s.cmds.wagons = before ++ w :: after → (∀ x ∈ before ++ after, x.tag ≠ p.tag.toNat) →
        w.tag = p.tag.toNat → w.served = false → w.req.line = .peer p.src.toNat p.addr.toNat →
        (w.req.kind = .read → exec (.rdRsp k p) s = .next (s.modWagon w.id (fun x => { x with served := true, data := slice p.data 0 512 }))
          ∧ exec (.wrAck k p) s = .next (s.discardPacket k p))
        ∧ (w.req.kind ≠ .read → exec (.wrAck k p) s
            = .next ((s.watchBytes (some w.req.slot) w.req.line w.req.bytes).modWagon w.id (fun x => { x with served := true }))
          ∧ exec (.rdRsp k p) s = .next (s.discardPacket k p))
        ∧ (∀ c, w.req.kind = .write → isReturned p.status = true → w.discard = false → w.timedOut = false → w.req.field ≠ loadField →
          s.cmd? w.req.slot = some c → c.started = true → isError c.st = false →
          ∃ t, exec (.errRsp k p) s = .next t ∧ Ended t w.req.slot p.status 0)
        ∧ (isReturned p.status = false → exec (.errRsp k p) s = .next (s.discardPacket k p))))

/-- Fabric time (R361, R449): a tick adds 4, and one tick in 1,000 adds 5 or 3 while the clock slews forward or back, in cold reset too; TT_NOW
reads the count. When a tick happens is the model's choice (log 1), and in holdover which ticks slew (log 56). -/
def Obligations.FabricTimeAdvances : Prop :=
  ∀ s : State, s.pending = [] →
    let t := s.time
    (∀ mst, s.regRead mst .ttNow = t.now.toNat)
    ∧ (∃ u, step s = .next u ∧ u.time.clk - t.clk = u.time.now - t.now
      ∧ (s.trc.dump.busy = true → u.time.cmdClk = t.cmdClk) ∧ (s.trc.dump.busy = false → u.time.cmdClk - t.cmdClk = u.time.now - t.now)
      ∧ (t.phase ≠ 999 → u.time.now = t.now + 4 ∧ u.time.phase = t.phase + 1 ∧ u.time.slew = t.slew)
      ∧ (t.phase = 999 → u.time.phase = 0
        ∧ (t.holdover = false → 0 < t.slew → u.time.now = t.now + 5 ∧ u.time.slew = t.slew - 1)
        ∧ (t.holdover = false → t.slew < 0 → u.time.now = t.now + 3 ∧ u.time.slew = t.slew + 1)
        ∧ (t.holdover = false → t.slew = 0 → u.time.now = t.now + 4 ∧ u.time.slew = 0)
        ∧ (t.holdover = true → u.time.slew = t.slew ∧ (u.time.now = t.now + 3 ∨ u.time.now = t.now + 4 ∨ u.time.now = t.now + 5))))

/-- The time exchange of a follower (R363–R365): a request is noted with its time of departure; a response that is not too late adds its
offset, and 64 samples move the clock, by a step or by a slew; without a sample for 1 ms the follower moves to its other port or into
holdover, and after 10 ms of holdover its time is not good, each expiry logged (the ports that it tries in holdover, and LOCKED after it:
log 96). The time of an anchor (R362): TT_CTRL.ARM, of the management core, makes the next REF_SYNC edge load TT_NEXT; later edges correct
the time by slewing, and three in a row that are more than 1 µs out make it not good; the edge's time is the captured one (R492; a load that
would set time back, and the entries of edges: log 39). -/
def Obligations.TimeIsExchangedAndLoaded : Prop :=
  (∀ (s : State),
      let t := s.time
      ((s.timePort = none → exec .timeExchangeTimer s = .next s)
      ∧ (s.follower = false → exec .timeSampleTimeout s = .next s)
      ∧ (∀ k, s.timePort = some k → (s.port k).state = .up → t.lastReq.toNat + 16000 ≤ t.clk.toNat →
        ∃ u, exec .timeExchangeTimer s = .next u ∧ Frame [.time, .cnt, .fab] s u
          ∧ u.time = { t with reqs := t.reqs.filter (fun r => r.1 != t.nextTag) ++ [(t.nextTag, s.portTime k)], nextTag := (t.nextTag + 1) % 512
                              lastReq := t.clk })
      ∧ (∀ k p, (s.port k).state ≠ .up → exec (.timeReq k p) s = .next s)
      ∧ (∀ k p, (s.port k).state = .up → exec (.timeReq k p) s = .next (s.sendLocal k (s.timePacket
          (2 + flagAt t.timeOk 8 + (if s.cfg.ttRole = 1 then 0 else t.hops) % 256 * 2 ^ 16) p.tag.toNat (s.portTime k) (s.portTime k)))))
      ∧ (∀ (k : Nat) (p : Packet), s.timePort = some k → (t.reqs.any (fun r => r.1 == p.tag.toNat)) = true →
        Tab.get none (s.port k).reqAt p.tag.toNat = none →
        exec (.timeRsp k p) s = .next (s.setTime { t with reqs := t.reqs.filter (fun r => r.1 != p.tag.toNat) }))
      ∧ (∀ (k : Nat) (p : Packet) (t1 : Dword), s.timePort = some k → (t.reqs.any (fun r => r.1 == p.tag.toNat)) = true →
        Tab.get none (s.port k).reqAt p.tag.toNat = some t1 →
        let reqs := t.reqs.filter (fun r => r.1 != p.tag.toNat)
        let out : Int := (p.addr.toNat : Int) - t1.toNat
        let back : Int := ((s.portTime k).toNat : Int) - p.arg2.toNat
        let xs := (if 64 ≤ t.samples.length then t.samples.drop 1 else t.samples) ++ [out - back]
        let sum := xs.foldl (· + ·) 0
        let est := Int.tdiv sum 128
        let hops := min 255 (p.arg.toNat / 2 ^ 16 % 2 ^ 8 + 1)
        (2000 < out + back → exec (.timeRsp k p) s = .next (s.setTime { t with reqs := reqs }))
        ∧ (out + back ≤ 2000 → xs.length < 64 → exec (.timeRsp k p) s = .next (s.setTime { t with
            reqs := reqs, samples := xs, lastOk := t.clk, holdover := false, srcPort := k, hops := hops
            timeOk := t.locked && p.arg.getLsbD 8 }))
        ∧ (out + back ≤ 2000 → 64 ≤ xs.length → (t.stepped = true ∧ sum ≤ 128000) ∨ (t.stepped = false ∧ sum ≤ 0) →
          ∃ u, exec (.timeRsp k p) s = .next u ∧ u.time.now = t.now ∧ u.time.slew = est ∧ u.time.samples = xs
            ∧ (u.time.locked = true ↔ -128 ≤ sum ∧ sum ≤ 128) ∧ u.time.timeOk = (u.time.locked && p.arg.getLsbD 8) ∧ Frame [.time] s u)
        ∧ (out + back ≤ 2000 → 64 ≤ xs.length → (t.stepped = false ∧ 0 < sum) ∨ (t.stepped = true ∧ 128000 < sum) →
          ∃ u, exec (.timeRsp k p) s = .next u ∧ u.time.now = t.now + BitVec.ofInt 64 est ∧ u.time.slew = 0 ∧ u.time.stepped = true
            ∧ u.time.samples = xs.map (fun x => x - 2 * est) ∧ Frame [.time, .log, .trc, .hosts] s u))
      ∧ (s.follower = true → t.holdover = true → t.lastOk.toNat + 1000000 ≤ t.clk.toNat →
        ∃ u, exec .timeSampleTimeout s = .next u ∧ u.time.tryAlt = (!t.tryAlt && s.altUp) ∧ u.time.lastOk = t.clk ∧ u.time.now = t.now
          ∧ (∃ e ∈ u.log.entries, e.status = stTimeout ∧ e.unit = uPort) ∧ Frame [.time, .log, .trc, .hosts] s u)
      ∧ (∀ k, s.follower = true → t.srcPort = k → t.holdover = false → t.lastOk.toNat + 1000000 ≤ t.clk.toNat →
        let alt := s.cfg.ttAlt
        (k ≠ alt → alt < 8 → (s.port alt).state = .up → ∃ u, exec .timeSampleTimeout s = .next u ∧ u.time.srcPort = alt ∧ u.time.samples = []
          ∧ u.time.lastOk = t.clk ∧ u.time.now = t.now ∧ u.time.timeOk = t.timeOk ∧ Frame [.time, .log, .trc, .hosts] s u)
        ∧ (k = alt ∨ 8 ≤ alt ∨ (s.port alt).state ≠ .up → ∃ u, exec .timeSampleTimeout s = .next u ∧ u.time.holdover = true
          ∧ u.time.srcPort = 15 ∧ u.time.holdFrom = t.clk ∧ u.time.now = t.now ∧ u.time.timeOk = t.timeOk ∧ Frame [.time, .log, .trc, .hosts] s u))
      ∧ (t.holdover = true → t.expired = false → t.holdFrom.toNat + 10000000 ≤ t.clk.toNat →
        ∃ u, exec .holdoverTimeout s = .next u ∧ u.time = { t with timeOk := false, locked := false, expired := true }
          ∧ Frame [.time, .log, .trc, .hosts] s u)
      ∧ (t.holdover = false ∨ t.expired = true → exec .holdoverTimeout s = .next s))
  ∧ (∀ (s : State),
      let t := s.time
      (∀ mst, s.regReady mst false = true →
        (mst = .m → s.cfg.ttRole = 1 → exec (.ttArm mst) s = .next ((s.clearBus mst).setTime { t with armed := true }))
        ∧ (mst ≠ .m ∨ s.cfg.ttRole ≠ 1 → exec (.ttArm mst) s = .next ((s.clearBus mst).logReg mst 0x700820)))
      ∧ (s.cfg.cfgDone = false ∨ s.cfg.ttRole ≠ 1 → exec .refSyncEdge s = .next s)
      ∧ (s.cfg.cfgDone = true → s.cfg.ttRole = 1 →
        (-2 ≤ t.edgeAt ∧ t.edgeAt ≤ 5)
        ∧ (t.armed = true → (t.now.toNat : Int) + t.edgeAt ≤ t.next.toNat → ∃ u, exec .refSyncEdge s = .next u
          ∧ u.time.now = t.next - BitVec.ofInt 64 t.edgeAt ∧ u.time.clk = t.clk
          ∧ u.time.armed = false ∧ u.time.loaded = true ∧ u.time.locked = true ∧ u.time.timeOk = true ∧ u.time.slew = 0 ∧ Frame [.time] s u)
        ∧ (t.armed = false → t.loaded = false → exec .refSyncEdge s = .next s)
        ∧ (∀ n : Nat, ∀ e : Int, t.armed = false → t.loaded = true → 0 ≤ (t.now.toNat : Int) + t.edgeAt → (t.now.toNat : Int) + t.edgeAt = n * 1000000000 + e → -500000000 ≤ e → e < 500000000 →
          (-1000 ≤ e → e ≤ 1000 → exec .refSyncEdge s = .next (s.setTime { t with slew := -e, badEdges := 0 }))
          ∧ (e < -1000 ∨ 1000 < e → ∃ u, exec .refSyncEdge s = .next u ∧ u.time.badEdges = t.badEdges + 1 ∧ u.time.now = t.now ∧ u.time.slew = t.slew
            ∧ u.time.timeOk = (t.timeOk && decide (t.badEdges + 1 < 3)) ∧ Frame [.time, .log, .trc, .hosts] s u))))

/-! ## Hosts, attestation and update (R398–R414, R440–R444) -/

/-- The links and resets of a host function (R398–R400, R413, R414, R494): what each event leaves in the function, that a reset of it resets
its contexts and frees its locks, and its latency tolerance; the function that owns PWR_LTR is the one that writes it, and what the
registers of another master say is the model's choice (logs 11, 82). The regions of a function (R400–R402, R411): its identity, the sizes of
its BARs, FLR by Device Control, the decoder in BAR2, which a function in CXL.io mode does not have (R399), and the MSI-X table and pending
bits in BAR4, where a vector that is unmasked while pending is sent. Where the registers lie inside a region is PRESUMED (log 89), and so is
what masks a vector (log 42). -/
def Obligations.HostFunctionsLinkAndReset : Prop :=
  (∀ (k : Nat) (s : State), k < 4 →
    let h := s.hostFn k
    let wiped (t : State) : Prop := (t.hostFn k).doe = none ∧ (t.hostFn k).negotiated = false ∧ (t.hostFn k).msixTab = []
      ∧ (s.pwr.warming = false → ∀ ch, ch < 64 → (s.chan ch).owner = k + 1 → (t.chan ch).owner = 0)
      ∧ (s.pwr.warming = false → s.trc.dump.busy = false → ∀ c, s.ctxOfHost k c = true → (s.ctx c).state ≠ .off → (t.ctx c).state = .resetting)
    let down (t : State) : Prop := (t.hostFn k).width = 0 ∧ (t.hostFn k).committed = false ∧ (t.hostFn k).memActive = false
    (h.present = true → h.perst = false →
      ∃ t, exec (.perstAssert k) s = .next t ∧ wiped t ∧ down t ∧ (t.hostFn k).perst = true)
    ∧ (h.present = false → h.perst = false → exec (.perstAssert k) s = .next (s.setHost k { h with perst := true }))
    ∧ (h.perst = true → exec (.perstRelease k) s = .next (s.setHost k { h with perst := false }))
    ∧ (h.width ≠ 0 → (∃ t, exec (.hostLinkDown k) s = .next t ∧ wiped t ∧ down t)
      ∧ ∃ t, exec (.flr k) s = .next t ∧ wiped t ∧ (t.hostFn k).width = h.width ∧ (t.hostFn k).committed = h.committed)
    ∧ (h.width = 0 → exec (.hostLinkDown k) s = .next s ∧ exec (.flr k) s = .next s)
    ∧ (∀ width speed cxl, s.cfg.cfgDone = true → h.present = true → h.perst = false → h.width = 0 → 1 ≤ width → width ≤ 5 →
      widthLanes width ≤ s.hostLanes k → 1 ≤ speed → speed ≤ 5 → (cxl = true → 3 ≤ speed) →
      exec (.hostLinkUp k width speed cxl) s
        = .next (s.setHost k { h with width := width, speed := speed, cxl := cxl, memActive := cxl }))
    ∧ (∀ a, h.cxl = true → exec (.h2dSnoop k a) s = .next (s.setHost k { h with snoop := true }))
    ∧ (∀ a, h.cxl = false → exec (.h2dSnoop k a) s = .next s))
  ∧ (∀ (mst : Master) (v : Word) (s : State), s.regReady mst false = true →
    let scale := v.toNat / 2 ^ 10 % 8
    (∀ k, mst.host? = some k → scale < 6 → exec (.pwrLtrWrite mst v) s = .next ((s.clearBus mst).setHost k { s.hostFn k with
        ltrValue := v.toNat % 2 ^ 10, ltrScale := scale, ltrReq := v.getLsbD 15 }))
    ∧ (mst.host? = none ∨ 6 ≤ scale → exec (.pwrLtrWrite mst v) s = .next ((s.clearBus mst).logReg mst 0x400100)))
  ∧ (∀ (k : Nat) (s : State), k < 4 → (s.hostFn k).present = true → (s.hostFn k).width ≠ 0 →
    let mst := hostMaster k
    let h := s.hostFn k
    let s0 := s.clearBus mst
    let at_ (region o : Nat) : Nat := region * 2 ^ 32 + o
    let reads (region o v : Nat) : Prop := exec (.lowHalfRead mst ⟨at_ region o, .w32⟩) s = .next (s0.answer v)
    let writes (region o : Nat) (v : Word) (t : State) : Prop := exec (.registerWrite mst (at_ region o) .w32 (v.setWidth 64)) s = .next t
    reads 1 0 0x58161F6B ∧ reads 1 8 (0x12000000 + s.stepping.toNat)
    ∧ (∀ bar mask, (bar, mask) = (0x10, 0xFC000000) ∨ (bar, mask) = (0x18, 0xFFFF0000) ∨ (bar, mask) = (0x20, 0xFFFF0000) →
      ∃ t, writes 1 bar 0xFFFFFFFF t ∧ exec (.lowHalfRead mst ⟨at_ 1 bar, .w32⟩) t = .next ((t.clearBus mst).answer (mask + 4)))
    ∧ exec (.registerWrite mst (at_ 1 0x48) .w32 0x8000) s = exec (.flr k) (s0.setHost k { h with pci := Tab.set 0 h.pci 0x48 0 })
    ∧ (∀ o v, o < 0x10000 → o % 4 = 0 → h.cxl = false → reads 2 o 0 ∧ writes 2 o v s0)
    ∧ (h.cxl = true → exec (.registerWrite mst (at_ 2 0x1030) .w32 0x200) s
      = exec (.hdmDecoderCommit k h.decBase h.decSize 1) (s0.setHost k { h with pci := Tab.set 0 h.pci 0x11030 0x200 }))
    ∧ (∀ v w : Nat, ∀ x : Word, v < 2048 → w < 3 → ∃ t, writes 4 (16 * v + 4 * w) x t
      ∧ exec (.lowHalfRead mst ⟨at_ 4 (16 * v + 4 * w), .w32⟩) t = .next ((t.clearBus mst).answer (if w = 0 then x.toNat / 4 * 4 else x.toNat)))
    ∧ (∀ v, v < 2048 → h.msixPend = [v] →
      (∃ t, writes 4 (16 * v + 12) 1 t ∧ (t.hostFn k).msixPend = [v] ∧ (t.hostFn k).stream = h.stream)
      ∧ (∃ t, writes 4 (16 * v + 12) 0 t
        ∧ ((Tab.get 0 h.pci 0x80).getLsbD 31 = true → (Tab.get 0 h.pci 0x80).getLsbD 30 = false →
          (t.hostFn k).msixPend = [] ∧ (t.hostFn k).stream = h.stream ++ [.msix v])
        ∧ ((Tab.get 0 h.pci 0x80).getLsbD 31 = false ∨ (Tab.get 0 h.pci 0x80).getLsbD 30 = true →
          (t.hostFn k).msixPend = [v] ∧ (t.hostFn k).stream = h.stream)))
    ∧ (∀ j, j < 64 → ∃ n, reads 4 (0x8000 + 4 * j) n ∧ n < 2 ^ 32 ∧ ∀ i, i < 32 → n.testBit i = h.msixPend.contains (32 * j + i)))

/-- The HDM range of a host function (R404–R406, R454): a committed decoder maps its range onto the function's two HBM ranges in order; a
read answers the 64 bytes of its line, or zeros where the line cannot be read, a write stores its bytes and is answered with Cmp, and in an idle
state both are accepted, with their address translated, and wait. -/
def Obligations.HostMemoryRequestsReachHbm : Prop :=
  (∀ (k base size ways : Nat) (s : State), k < 4 → (s.hostFn k).width ≠ 0 → (s.hostFn k).cxl = true → s.cfg.cfgDone = true →
    let h := s.hostFn k
    let p := s.hostCfg k
    let bad := (p.h0Size + p.h1Size) * 2 ^ 30 < size ∨ ways ≠ 1 ∨ base % 2 ^ 28 ≠ 0 ∨ size % 2 ^ 28 ≠ 0
    (bad → exec (.hdmDecoderCommit k base size ways) s = .next (s.setHost k { h with committed := false, decErr := true }))
    ∧ (¬bad → exec (.hdmDecoderCommit k base size ways) s
      = .next (s.setHost k { h with decBase := base, decSize := size, committed := true, decErr := false })))
  ∧ (∀ (k a : Nat) (s : State), (s.hostFn k).committed = true → (s.hostFn k).width ≠ 0 → (s.hostFn k).cxl = true →
    let h := s.hostFn k
    let p := s.hostCfg k
    let d := a - h.decBase
    h.decBase ≤ a → a < h.decBase + h.decSize →
    (d < p.h0Size * 2 ^ 30 → s.hdmAddr k a = some (p.h0Base * 2 ^ 30 + d))
    ∧ (p.h0Size * 2 ^ 30 ≤ d → s.hdmAddr k a = some (2 ^ 38 + p.h1Base * 2 ^ 30 + (d - p.h0Size * 2 ^ 30))))
  ∧ (∀ (k a : Nat) (b : List Byte) (s : State),
    let asleep := s.pwr.state ≠ 0 ∨ s.pwr.trans = true
    let rd (m : List Byte) : State := s.setHost k { s.hostFn k with rdData := m }
    let cmp (t : State) : State := t.setHost k { s.hostFn k with cmps := (s.hostFn k).cmps + 1 }
    (∀ pa, asleep → s.hdmAddr k (a / 64 * 64) = some pa →
      exec (.hdmRead k a) s = .next (s.setPwr { s.pwr with held := s.pwr.held ++ [.hdmRead k pa] }))
    ∧ (∀ pa, asleep → s.hdmAddr k a = some pa →
      exec (.hdmWrite k a b) s = .next (s.setPwr { s.pwr with held := s.pwr.held ++ [.hdmWrite k pa b] }))
    ∧ (s.hdmAddr k (a / 64 * 64) = none → exec (.hdmRead k a) s = .next s)
    ∧ (s.hdmAddr k a = none → exec (.hdmWrite k a b) s = .next s)
    ∧ (∀ pa, ¬asleep → s.hdmAddr k (a / 64 * 64) = some pa → s.hbmExists pa = true → s.mem.eccAt (.hbm pa) = .clean →
      exec (.hdmRead k a) s = .next (rd (s.mem.read (.hbm pa) 64)))
    ∧ (∀ pa, ¬asleep → s.hdmAddr k (a / 64 * 64) = some pa → s.hbmExists pa = false ∨ s.mem.eccAt (.hbm pa) = .uncorrectable →
      ∃ t, exec (.hdmRead k a) s = .next t ∧ (t.hostFn k).rdData = List.replicate 64 0 ∧ SameBytes s.mem t.mem
        ∧ (s.hbmExists pa = true → ∃ e ∈ t.log.entries, e.status = stEcc ∧ e.host = k ∧ e.addr = pa) ∧ Frame [.log, .cnt, .trc, .mem, .hosts] s t)
    ∧ (∀ pa, ¬asleep → s.hdmAddr k a = some pa → s.hbmExists pa = true →
      exec (.hdmWrite k a b) s = .next (cmp { s with mem := s.mem.write (.hbm pa) (b.take (64 - pa % 64)) }))
    ∧ (∀ pa, ¬asleep → s.hdmAddr k a = some pa → s.hbmExists pa = false →
      ∃ t, exec (.hdmWrite k a b) s = .next t ∧ (t.hostFn k).cmps = (s.hostFn k).cmps + 1 ∧ Frame [.log, .trc, .hosts] s t))

/-- The answers of the SPDM responder (R440, R441): version, capabilities and algorithms; digests, certificates, challenges and measurements to
a requester that has selected the algorithms, and an error to any other (the answer to it is the model's choice, log 36). Signatures are
those of the Alias key over an opaque message, with an opaque nonce (log 10). -/
def Obligations.TheResponderAnswers : Prop :=
  ∀ (k : Nat) (s : State), k < 4 → (s.hostFn k).width ≠ 0 →
    let h := s.hostFn k
    let obj (r : SpdmResp) : Option DoeObj := some ⟨0x0001, 0x01, r⟩
    let answers (r : SpdmResp) : Host.Outcome State Fault Refusal := .next (s.setHost k { h with doe := obj r })
    let signed (g : List Byte → List Byte → SpdmResp) (kind : Nat) (m : List Byte) : Host.Outcome State Fault Refusal :=
      let n := Config.spdmNonce (4 * h.spdmCount + k)
      .next (s.setHost k { h with doe := obj (g n (Config.mldsaSign s.boot.aliasSk (sha3 (Config.spdmMessage kind n m))))
                                  spdmCount := h.spdmCount + 1 })
    exec (.getVersion k) s = answers (.version 0x12)
    ∧ exec (.getCapabilities k) s = answers (.capabilities true true true 16)
    ∧ (∀ code, exec (.unsupportedRequest k code) s = answers (.errUnsupported code))
    ∧ (∀ sel : AlgSel, exec (.negotiateAlgorithms k sel) s
      = (if sel.baseAsymNone ∧ sel.baseHashSha3 ∧ sel.measHashSha3 ∧ sel.extMlDsa then .next (s.setHost k { h with
           negotiated := true, doe := obj (.algorithms .sha3_512 .sha3_512 [] [⟨0x1F6B, 0x0087⟩]) })
         else .next (s.setHost k { h with negotiated := false, doe := obj .errInvalid })))
    ∧ (h.negotiated = true →
      exec (.getDigests k) s = answers (.digests 1 (sha3 s.chain))
      ∧ (∀ off len, off < s.chain.length → exec (.getCertificate k 0 off len) s
        = answers (.certificate (slice s.chain off (min len (s.chain.length - off))) (s.chain.length - off - min len (s.chain.length - off))))
      ∧ (∀ slot off len, slot ≠ 0 ∨ s.chain.length ≤ off → exec (.getCertificate k slot off len) s = answers .errInvalid)
      ∧ (∀ nonce, s.boot.idOk = true → exec (.challenge k 0 nonce) s
        = signed (fun n g => .challengeAuth (sha3 s.chain) n (sha3 (s.measures.flatMap (·.value))) g) 0x83
            (nonce ++ sha3 s.chain ++ sha3 (s.measures.flatMap (·.value))))
      ∧ (∀ slot nonce, s.boot.idOk = false → exec (.challenge k slot nonce) s = answers .errUnspecified)
      ∧ (∀ slot nonce, s.boot.idOk = true → slot ≠ 0 → exec (.challenge k slot nonce) s = answers .errInvalid)
      ∧ (∀ index nonce, index ≤ 6 ∨ index = 0xFF →
        let blocks := if index = 0xFF then s.measures else s.measures.filter (fun b => b.index == index)
        exec (.getMeasurements k index false nonce) s = answers (.measurements blocks [] [])
        ∧ (s.boot.idOk = true → exec (.getMeasurements k index true nonce) s
          = signed (fun n g => .measurements blocks n g) 0xE0 (nonce ++ blocks.flatMap (·.value))))
      ∧ (∀ index nonce, 6 < index → index ≠ 0xFF → exec (.getMeasurements k index false nonce) s = answers .errInvalid))
    ∧ (h.negotiated = false → ∀ slot off len index signed nonce,
      ∀ i ∈ [Instr.getDigests k, .getCertificate k slot off len, .challenge k slot nonce, .getMeasurements k index signed nonce],
        exec i s = answers .errInvalid)

/-- STAGE, STAGE_COMPLETE, STATUS and COMMIT_SVN (R427, R442–R444): a request that a host function that may update has rung on its channel with the
management core has its effect, and is answered in MBX_MSG32 and 33 and by a doorbell; one of another function is answered with RANGE; the bit that
was rung is cleared (log 119). The counter's answer to an increment is authenticated. How the flash behaves is an operand (log 54). -/
def Obligations.UpdatesAreStagedAndCommitted : Prop :=
  (∀ (k ch : Nat) (a : Bool) (s : State), s.updChannel k ch = some a →
    let c := s.chan ch
    let w := (c.word 0).toNat
    let b := s.boot
    let p := s.hostCfg k
    let dpa := (c.word 1).toNat + (c.word 2).toNat * 2 ^ 32
    let n := (c.word 3).toNat
    let bell : Word := if a then 0x00010000 else 0x00000001
    let answered (t : State) (result : Byte) : Prop :=
      (t.chan ch).word 32 = BitVec.ofNat 32 (result.toNat + t.boot.upd.state.code * 2 ^ 8 + w / 2 ^ 16 * 2 ^ 16)
        ∧ (t.chan ch).word 33 = t.boot.upd.fail.setWidth 32
        ∧ (t.chan ch).db = ((c.db &&& ~~~bell) ||| (if a then 0x00000001 else 0x00010000))
        ∧ Frame [.boot, .log, .trc, .cmds, .sig, .hosts, .mbx] s t
    (∀ (req : Nat) (i : Instr) (r : CtrResp), (req, i) ∈ [(1, .stage k ch), (2, .status k ch), (3, .commitSvn k ⟨ch, r⟩)] →
      (c.db &&& bell = 0 ∨ w % 2 ^ 8 ≠ req → exec i s = .next s)
      ∧ (c.db &&& bell ≠ 0 → w % 2 ^ 8 = req → s.cfg.updHosts.getLsbD k = false → ∃ t, exec i s = .next t ∧ answered t stRange ∧ t.boot = b))
    ∧ (s.cfg.updHosts.getLsbD k = true → c.db &&& bell ≠ 0 →
      (w % 2 ^ 8 = 2 → ∃ t, exec (.status k ch) s = .next t ∧ answered t stOk ∧ t.boot = b)
      ∧ (∀ r, w % 2 ^ 8 = 3 → b.ctrPresent = false → ∃ t, exec (.commitSvn k ⟨ch, r⟩) s = .next t ∧ answered t stRange ∧ t.boot = b)
      ∧ (∀ r, w % 2 ^ 8 = 3 → b.ctrPresent = true → b.svn.toNat ≤ b.counter.toNat →
        ∃ t, exec (.commitSvn k ⟨ch, r⟩) s = .next t ∧ answered t stOk ∧ t.boot = b)
      ∧ (∀ r f, w % 2 ^ 8 = 3 → b.ctrPresent = true → b.counter.toNat < b.svn.toNat → b.fctr = some f →
        let f1 : FlashCtr := { f with value := b.svn }
        (∀ v, ctrAnswer f1 b.ctrKey 1 r = some v →
          ∃ t, exec (.commitSvn k ⟨ch, r⟩) s = .next t ∧ answered t stOk ∧ t.boot = { b with fctr := some f1, counter := v })
        ∧ (ctrAnswer f1 b.ctrKey 1 r = none → ∃ t, exec (.commitSvn k ⟨ch, r⟩) s = .next t ∧ answered t stRange
          ∧ t.boot = { b with fctr := some f1, counter := 0, ctrPresent := false, rbProt := false })
        ∧ (f.key = some b.ctrKey → ctrAnswer f1 b.ctrKey 1 .own = some b.svn)
        ∧ (∀ v mac, ctrAnswer f1 b.ctrKey 1 (.other v mac) = if mac = hmac256 b.ctrKey (Config.ctrMessage 1 v) then some v else none))
      ∧ (w % 2 ^ 8 = 1 → (p.h0Size + p.h1Size) * 2 ^ 30 < dpa + n ∨ b.flashSize / 2 < n →
        ∃ t, exec (.stage k ch) s = .next t ∧ answered t stRange ∧ t.boot = b)
      ∧ (w % 2 ^ 8 = 1 → dpa + n ≤ (p.h0Size + p.h1Size) * 2 ^ 30 → n ≤ b.flashSize / 2 →
        (b.upd.state = .busy → ∃ t, exec (.stage k ch) s = .next t ∧ answered t stResource ∧ t.boot = b)
        ∧ (∀ img, b.upd.state ≠ .busy → s.readStaged k dpa n = some img →
          ∃ t, exec (.stage k ch) s = .next t ∧ answered t stOk
            ∧ t.boot.upd = ⟨.busy, 0, k, ch, BitVec.ofNat 16 (w / 2 ^ 16), (s.stageFail img).getD 0, img⟩
            ∧ t.boot.flash = (if (s.stageFail img).getD 0 = 0 then (b.writeSlot (1 - b.slot) []).flash else b.flash)))))
  ∧ (∀ (ok : Bool) (s : State),
    let u := s.boot.upd
    let bytes := s.stagedBytes u.image
    let ended (t : State) (st : StageState) (fail : Nat) : Prop :=
      t.boot.upd = { u with state := st, fail := BitVec.ofNat 8 fail, found := 0, image := [] }
    (u.state ≠ .busy → exec (.stageComplete ok) s = .next s)
    ∧ (u.state = .busy → u.found ≠ 0 →
      ∃ t, exec (.stageComplete ok) s = .next t ∧ ended t .failed u.found ∧ t.boot.flash = s.boot.flash)
    ∧ (u.state = .busy → u.found = 0 → headFail (listImg bytes) (s.boot.flashSize / 2) false = none →
      (ok = true → ∃ t, exec (.stageComplete ok) s = .next t ∧ ended t .done 0
        ∧ t.boot.flash = (s.boot.writeSlot (1 - s.boot.slot) bytes).flash)
      ∧ (ok = false → ∃ t, exec (.stageComplete ok) s = .next t ∧ ended t .failed 0x10)))

/-! ## Boot, resets, supply, heat and idle states (R422–R463, R494, R495) -/

/-- The phases of the boot (R423, R427, R433, R434, R437, R438, R445, R447): each phase passes on to the next, or rejects its slot, or leaves the
device unserviceable; CONFIG locks the configuration and lets the used ports train. What the ROM, the flash, the PUF and self-test find is an operand
(log 52), and a rejection does not start the load time-out anew (log 115). -/
def Obligations.TheBootGoesThroughItsPhases : Prop :=
  ∀ s : State,
    let b := s.boot
    let img := b.img b.slot
    (∀ ok, b.phase ≠ 1 → exec (.rom ok) s = .next s)
    ∧ (b.phase = 1 → s.inv.pllFailed.contains 23 = false → s.inv.pllFailed.contains 5 = false →
      exec (.rom true) s = .next (s.setBoot { b with phase := 2, romOk := true, tLoad := s.time.clk }))
    ∧ (b.phase = 1 → ∃ t, exec (.rom false) s = .next t ∧ t.boot.phase = 8 ∧ t.boot.failCode = 0x0E ∧ Frame [.boot] s t)
    ∧ (b.phase = 2 → ∃ t, exec (.flash none false) s = .next t ∧ t.boot.phase = 8 ∧ t.boot.failCode = 0x01 ∧ Frame [.boot] s t)
    ∧ (∀ size bytes ctr probe, b.phase = 2 → exec (.flash (some ⟨size, bytes, ctr⟩) probe) s
      = exec (.flash none probe) (s.setBoot { b with
          flashSize := size, flash := bytes.foldl (fun t e => Tab.set 0 t e.1 e.2) [], fctr := ctr }))
    ∧ (b.phase = 2 → flashSizeOk b.flashSize = true →
      (headOk (b.img 0) = true → headOk (b.img 1) = true → exec (.flash none true) s = .next (s.setBoot { b with
        slot := if serialAfter 32 (imgSeq (b.img 0)).toNat (imgSeq (b.img 1)).toNat then 1 else 0, phase := 3 }))
      ∧ (headOk (b.img 0) ≠ headOk (b.img 1) → exec (.flash none true) s
        = .next (s.setBoot { b with slot := if headOk (b.img 0) then 0 else 1, phase := 3 }))
      ∧ (headOk (b.img 0) = false → headOk (b.img 1) = false →
        ∃ t, exec (.flash none true) s = .next t ∧ t.boot.phase = 8 ∧ t.boot.failCode = 0x02 ∧ Frame [.boot] s t))
    ∧ (∀ puf ctr f, b.phase = 3 → (headFail img (b.flashSize / 2) false).or (signFail img) = some f →
      ∃ t, exec (.verify puf ctr) s = .next t ∧ Rejected s t f.code ∧ Frame [.boot] s t)
    ∧ (∀ puf ctr, b.phase = 3 → headFail img (b.flashSize / 2) false = none → signFail img = none →
      (let d := b.derive img (if b.pufLocked then none else puf)
       let c := d.counterOf ctr
       (∀ f, (rollFail img c).or (hashFail img false) = some f →
         ∃ t, exec (.verify puf ctr) s = .next t ∧ Rejected s t f.code ∧ Frame [.boot, .log, .trc, .hosts] s t)
       ∧ ((rollFail img c).or (hashFail img false) = none →
         ∃ t, exec (.verify puf ctr) s = .next t ∧ t.boot = { d with
           fctr := d.provision, counter := c.getD 0, ctrPresent := c.isSome, ctrKeySet := c.isSome, rbProt := c.isSome
           svn := imgSvn img, slotSeq := imgSeq img, phase := 4 } ∧ Frame [.boot, .log, .trc, .hosts] s t)))
    ∧ (b.phase = 4 → exec (.fw true) s = .next (s.setBoot { b with
        pufKey := [], uds := [], devSk := [], pufLocked := true, phase := 5, bistAt := s.time.clk
        mgmtMem := sectionOf img 1, mgmtEntry := some 0 }))
    ∧ (b.phase = 4 → ∃ t, exec (.fw false) s = .next t ∧ Rejected s t 0 ∧ t.boot.pufKey = [] ∧ t.boot.uds = [] ∧ t.boot.devSk = []
      ∧ Frame [.boot] s t)
    ∧ (∀ r, b.phase = 5 →
      let listed := if b.repairOk then (repairEntries (sectionOf img 3)).map (fun e => u64At e 0) else []
      ∃ t, exec (.bist r) s = .next t ∧ t.boot.phase = 6
        ∧ t.inv = selfTest (listed ++ ((foundWords r).filter (fun w => !listed.contains w)).eraseDups) r s.inv.pllFailed b.straps
        ∧ Frame [.inv, .boot, .log, .trc, .hosts] s t)
    ∧ (∀ f, b.phase = 6 → loadCfg img s.inv b.straps = .inl f → ∃ t, exec .config s = .next t ∧ Rejected s t f.code ∧ Frame [.boot] s t)
    ∧ (∀ c, b.phase = 6 → loadCfg img s.inv b.straps = .inr c →
      (s.inv.floorOk = false → ∃ t, exec .config s = .next t ∧ t.boot.phase = 8 ∧ t.boot.failCode = 0x0E ∧ Frame [.boot] s t)
      ∧ (s.inv.floorOk = true → ∃ t, exec .config s = .next t ∧ t.cfg = { c with cfgDone := true } ∧ t.boot.phase = 7
        ∧ t.boot.serviceable = true ∧ (∀ k, k < 8 → c.portUse.getLsbD k = true →
          (t.port k).state = (if s.inv.portsBad.contains k then .down else .training))
        ∧ Frame [.cfg, .boot, .time, .trc, .fab] s t))
    ∧ (s.time.clk.toNat < b.tLoad.toNat + 2000000000 → exec .configLoadTimeout s = .next s)
    ∧ (b.tLoad.toNat + 2000000000 ≤ s.time.clk.toNat →
      (b.phase = 2 → ∃ t, exec .configLoadTimeout s = .next t ∧ t.boot.phase = 8 ∧ t.boot.failCode = 0x0D ∧ Frame [.boot] s t)
      ∧ (b.phase = 3 ∨ b.phase = 4 ∨ b.phase = 6 → ∃ t, exec .configLoadTimeout s = .next t ∧ Rejected s t 0x0D ∧ Frame [.boot] s t))
    ∧ (∀ d, s.inv.pllFailed.contains d = false →
      ((d = 5 ∨ d = 23) → b.phase = 1 → exec (.pllLockTimeout d) s = .next { s with inv := { s.inv with pllFailed := s.inv.pllFailed ++ [d] } })
      ∧ (14 ≤ d → d ≤ 21 → b.phase = 7 → (s.port (d - 14)).state = .down ∨ (s.port (d - 14)).state = .training →
        ∃ t, exec (.pllLockTimeout d) s = .next t ∧ (t.port (d - 14)).state = .down ∧ t.inv.portsBad = s.inv.portsBad ++ [d - 14]
          ∧ t.trainable (d - 14) = false ∧ OtherPorts (d - 14) s t ∧ Frame [.inv, .trc, .fab] s t))

/-- Cold resets (R460, R488, R494): power-up, SYS_RST_N held low for 1 µs and a supply that fails outside reset and a trip reset everything, with
their cause; a release of SYS_RST_N samples the straps and begins the boot, and ends a thermal trip once it has been asserted. What lies outside the
device is kept, and memory reads as log 3 says (logs 3, 53). -/
def Obligations.ColdResetsClearTheDevice : Prop :=
  (∀ s : State, (∃ t, exec .powerUp s = .next t ∧ ColdAfter s t 0)
    ∧ (∀ r, s.pwr.trip = false → s.pwr.inReset = false → ∃ t, exec (.supplyReset r) s = .next t ∧ ColdAfter s t 2)
    ∧ (∀ r, s.pwr.trip = true ∨ s.pwr.inReset = true → exec (.supplyReset r) s = .next s)
    ∧ (∀ ns, ns < 1000 → exec (.sysRstNAssert ns) s = .next s)
    ∧ (∀ ns, 1000 ≤ ns → s.pwr.trip = false → ∃ t, exec (.sysRstNAssert ns) s = .next t ∧ ColdAfter s t 1))
  ∧ (∀ (split addr : Nat) (s : State),
    let begun (t : State) : Prop := t.boot.phase = 1 ∧ t.boot.straps = split % 4 ∧ t.boot.sbAddr = addr ∧ t.pwr.inReset = false
      ∧ t.pwr.trip = false ∧ (∀ k, k < 4 → ((t.hostFn k).present = true ↔ splitLanes (split % 4) k ≠ 0))
    (s.pwr.inReset = false → s.boot.phase ≠ 0 ∨ s.pwr.trip = true → exec (.sysRstNRelease split addr) s = .next s)
    ∧ (s.pwr.inReset = true → s.pwr.trip = false → ∃ t, exec (.sysRstNRelease split addr) s = .next t ∧ begun t
      ∧ t.pwr.rstCause = s.pwr.rstCause ∧ Frame [.boot, .log, .trc, .hosts, .pwr] s t)
    ∧ (s.pwr.inReset = true → s.pwr.trip = true →
      (s.pwr.tjC0 < 95 → s.pwr.tjC1 < 95 → s.pwr.tjH < 95 → ∃ t, exec (.sysRstNRelease split addr) s = .next t ∧ begun t ∧ t.pwr.rstCause = 3)
      ∧ (95 ≤ s.pwr.tjC0 ∨ 95 ≤ s.pwr.tjC1 ∨ 95 ≤ s.pwr.tjH →
        exec (.sysRstNRelease split addr) s = .next (s.setPwr { s.pwr with inReset := false }))))

/-- RST_CAUSE (R463): the value that each reset leaves; no command but a cold or a warm reset writes it, and the end of a context's reset only
where a warm reset waits for it (R461). -/
def Obligations.ResetCauseNamesTheLastReset : Prop :=
  (∀ s : State, (∃ t, exec .powerUp s = .next t ∧ t.pwr.rstCause = 0)
    ∧ (∀ ns, 1000 ≤ ns → s.pwr.trip = false → ∃ t, exec (.sysRstNAssert ns) s = .next t ∧ t.pwr.rstCause = 1)
    ∧ (∀ r, s.pwr.trip = false → s.pwr.inReset = false → ∃ t, exec (.supplyReset r) s = .next t ∧ t.pwr.rstCause = 2)
    ∧ (∀ split addr, s.pwr.inReset = true → s.pwr.trip = true → s.pwr.tjC0 < 95 → s.pwr.tjC1 < 95 → s.pwr.tjH < 95 →
      ∃ t, exec (.sysRstNRelease split addr) s = .next t ∧ t.pwr.rstCause = 3)
    ∧ (∀ c t, s.pwr.warming = false → exec (.ctxResetDone c) s = .next t → t.pwr.rstCause = s.pwr.rstCause)
    ∧ (∀ c0 c1 h m, 115 ≤ c0 ∨ 115 ≤ c1 ∨ 115 ≤ h ∨ 105 ≤ m →
      ∃ t, exec (.thermalTrip c0 c1 h m) s = .next t ∧ t.pwr.rstCause = 3)
    ∧ (∀ v, s.regOpen .m = true → s.trc.dump.busy = false ∨ s.trc.dump.done = true → s.pwr.warming = false → (∀ e ∈ s.ctxs, e.2.state = .off) →
      ∃ t, exec (.warm .m v) s = .next t ∧ t.pwr.rstCause = 4))
  ∧ (∀ (c : Instr) (s t : State), resetRow c = false → exec c s = .next t → t.pwr.rstCause = s.pwr.rstCause)

/-- A warm reset (R460–R462, R481) and PWR_TMO (R464): WARM, of the management core, resets every context; once they are OFF, it resets every host
function, empties the Yard's tables, retrains the UP ports and leaves the Platforms undefined (free values, log 4). While a dump is being written
it has no effect, and one in progress absorbs another; it has its effect before CFG_DONE too (log 53). A PWR_TMO value is taken in its range
(log 61). -/
def Obligations.WarmResetsKeepTheConfiguration : Prop :=
  ∀ (mst : Master) (v : Word) (s : State), s.regReady mst false = true →
    let cap := v.toNat / 2 ^ 16 % 2 ^ 11
    let us := v.toNat % 2 ^ 16
    let ms := v.toNat / 2 ^ 16
    let taken := mst = .m ∧ 10 ≤ us ∧ us ≤ 1000 ∧ 1 ≤ ms ∧ ms ≤ 1000 ∧ us < ms * 1000
    let rest (t : State) : Prop := t.pwr.rstCause = 4 ∧ t.pwr.warming = false ∧ t.cfg = s.cfg ∧ t.boot = s.boot ∧ t.time = s.time
      ∧ t.yard.jobs = [] ∧ t.yard.leases = [] ∧ t.yard.pend = []
      ∧ (∀ c o, t.mem.get (.plat c o) = Config.platByte t.mem.platEra (platKey c o))
      ∧ (∀ k, k < 4 → (t.hostFn k).doe = none ∧ (t.hostFn k).negotiated = false ∧ (t.hostFn k).msixTab = []
        ∧ (t.hostFn k).width = (s.hostFn k).width)
      ∧ (∀ k, k < 8 → (s.port k).state = .up → (t.port k).state = .retraining)
    (mst ≠ .m → exec (.warm mst v) s = .next ((s.clearBus mst).logReg mst 0x400008))
    ∧ (mst = .m → s.trc.dump.busy = false ∨ s.trc.dump.done = true → s.pwr.warming = false →
      ∃ t, exec (.warm mst v) s = .next t ∧ t.pwr.idleEn = v.toNat % 2 ^ 4
        ∧ t.pwr.cap = (if 150 ≤ cap ∧ cap ≤ 400 then cap else s.pwr.cap) ∧ t.cfg = s.cfg ∧ t.boot = s.boot ∧ t.time = s.time ∧ t.tbl = s.tbl
        ∧ t.trc.dump.busy = false ∧ (∀ c, (s.ctx c).state ≠ .off → (t.ctx c).state = .resetting)
        ∧ ((∃ c, (s.ctx c).state ≠ .off) → t.pwr.warming = true ∧ t.pwr.rstCause = s.pwr.rstCause)
        ∧ ((∀ e ∈ s.ctxs, e.2.state = .off) → rest t))
    ∧ (∀ ctx, s.pwr.warming = true → (s.ctx ctx).state = .resetting → s.trc.dump.busy = false → (∀ e ∈ s.cmdList, e.2.ctx ≠ ctx) →
      (∀ w ∈ s.cmds.wagons, w.ctx = ctx → w.timedOut = true) → (∀ e ∈ s.ctxs, e.1 ≠ ctx → e.2.state = .off) →
      ∃ t, exec (.ctxResetDone ctx) s = .next t ∧ rest t ∧ (t.ctx ctx).state = .off)
    ∧ (mst = .m → (s.trc.dump.busy = true ∧ s.trc.dump.done = false) ∨ s.pwr.warming = true →
      ∃ t, exec (.warm mst v) s = .next t ∧ t.pwr.idleEn = v.toNat % 2 ^ 4 ∧ t.pwr.rstCause = s.pwr.rstCause
        ∧ Frame [.bus, .log, .trc, .hosts, .pwr] s t)
    ∧ (taken → exec (.pwrTmoWrite mst v) s = .next ((s.clearBus mst).setPwr { s.pwr with wagonUs := us, stallMs := ms }))
    ∧ (¬taken → exec (.pwrTmoWrite mst v) s = .next ((s.clearBus mst).logReg mst 0x400020))

/-- Supply and heat (R455–R459): a supply warning holds both dies at step 5 and stops admission, until 50 µs after its release or, for
admission, until the hold window has passed; heat and the power cap move the clock steps one at a time; critical heat is held until it is
cleared, and a trip, of a logic die or a stack, resets every domain but the always-on one and keeps fabric time. The fields of the log entries are
log 55. -/
def Obligations.SupplyAndHeatSetTheClockSteps : Prop :=
  ∀ s : State,
    let p := s.pwr
    let now := s.time.clk
    (∀ r, p.warn = false → p.trip = false → p.inReset = false → ∃ t, exec (.supplyWarning r) s = .next t
      ∧ t.pwr = { p with warn := true, admitStop := true, holdExp := false, warnAt := now, releasedAt := none
                         warnEvents := min 0xFFFF (p.warnEvents + 1) }
      ∧ t.pwr.step 0 = 5 ∧ t.pwr.step 1 = 5 ∧ Frame [.log, .trc, .hosts, .pwr] s t)
    ∧ (p.warn = true → ∃ t, exec .warningReleased s = .next t ∧ t.pwr = { p with warn := false, releasedAt := some now }
      ∧ t.pwr.step 0 = 5 ∧ t.pwr.step 1 = 5 ∧ Frame [.trc, .pwr] s t)
    ∧ (∀ at_, p.releasedAt = some at_ → at_.toNat + 50000 ≤ now.toNat → ∃ t, exec .warningReturn s = .next t
      ∧ t.pwr = { p with releasedAt := none, admitStop := false, holdExp := false } ∧ Frame [.trc, .pwr] s t)
    ∧ (p.warn = true → p.holdExp = false → p.warnAt.toNat + 1000000 ≤ now.toNat → ∃ t, exec .holdWindowExpire s = .next t
      ∧ t.pwr = { p with admitStop := false, holdExp := true, holdExpired := min 0xFFFF (p.holdExpired + 1) } ∧ Frame [.trc, .pwr] s t)
    ∧ (∀ c0 c1 w, ∃ t, exec (.throttleTick c0 c1 w) s = .next t ∧ t.pwr.tjC0 = c0 ∧ t.pwr.tjC1 = c1 ∧ Frame [.trc, .pwr] s t
      ∧ (s.cfg.profile = .express ∨ s.cfg.cfgDone = false → t.pwr = { p with tjC0 := c0, tjC1 := c1 })
      ∧ (s.cfg.profile ≠ .express → s.cfg.cfgDone = true →
        (95 ≤ c0 → p.thC0 < 4 → (Tab.get 0 p.downAt 0).toNat + 100000 ≤ now.toNat → t.pwr.thC0 = p.thC0 + 1)
        ∧ (95 ≤ c0 → 4 ≤ p.thC0 ∨ now.toNat < (Tab.get 0 p.downAt 0).toNat + 100000 → t.pwr.thC0 = p.thC0)
        ∧ (c0 ≤ 90 → 0 < p.thC0 → (Tab.get 0 p.upAt 0).toNat + 1000000 ≤ now.toNat → t.pwr.thC0 = p.thC0 - 1)
        ∧ (90 < c0 → c0 < 95 → t.pwr.thC0 = p.thC0)
        ∧ (95 ≤ c1 → p.thC1 < 4 → (Tab.get 0 p.downAt 1).toNat + 100000 ≤ now.toNat → t.pwr.thC1 = p.thC1 + 1)
        ∧ (c1 ≤ 90 → 0 < p.thC1 → (Tab.get 0 p.upAt 1).toNat + 1000000 ≤ now.toNat → t.pwr.thC1 = p.thC1 - 1)
        ∧ (4 * p.cap < w → p.capStep < 4 → (Tab.get 0 p.downAt 2).toNat + 100000 ≤ now.toNat → t.pwr.capStep = p.capStep + 1)
        ∧ (100 * w < 380 * p.cap → 0 < p.capStep → (Tab.get 0 p.upAt 2).toNat + 1000000 ≤ now.toNat → t.pwr.capStep = p.capStep - 1)))
    ∧ (∀ c0 c1 h,
      let hot : PwrSt := { p with tjC0 := c0, tjC1 := c1, tjH := h }
      (105 ≤ c0 ∨ 105 ≤ c1 ∨ 105 ≤ h → p.thermCrit = false → ∃ t, exec (.thermCrit c0 c1 h) s = .next t
        ∧ t.pwr = { hot with thermCrit := true, critEvents := min 0xFFFF (p.critEvents + 1) } ∧ t.pwr.step 0 = 5 ∧ t.pwr.step 1 = 5
        ∧ Frame [.log, .trc, .hosts, .pwr] s t)
      ∧ (c0 ≤ 100 → c1 ≤ 100 → h ≤ 100 → p.thermCrit = true → ∃ t, exec (.thermCritClear c0 c1 h) s = .next t
        ∧ t.pwr = { hot with thermCrit := false } ∧ Frame [.log, .trc, .hosts, .pwr] s t)
      ∧ (∀ m, 115 ≤ c0 ∨ 115 ≤ c1 ∨ 115 ≤ h ∨ 105 ≤ m → ∃ t, exec (.thermalTrip c0 c1 h m) s = .next t ∧ t.pwr.trip = true
        ∧ t.pwr.rstCause = 3 ∧ t.pwr.tjC0 = c0 ∧ t.time.now = s.time.now ∧ t.cfg.cfgDone = false ∧ t.ctxs = [] ∧ t.mem.hbm = [] ∧ t.boot.phase = 0)
      ∧ (∀ m, c0 < 115 → c1 < 115 → h < 115 → m < 105 → ∃ t, exec (.thermalTrip c0 c1 h m) s = .next t ∧ t.pwr = hot ∧ Frame [.trc, .pwr] s t))
    ∧ (∀ st m, 105 ≤ m → ∃ t, exec (.hbmTempChange st m) s = .next t ∧ t.pwr.trip = true ∧ t.pwr.rstCause = 3
      ∧ Tab.get 0 t.pwr.tHbm st = m ∧ t.time.now = s.time.now ∧ t.cfg.cfgDone = false ∧ t.ctxs = [] ∧ t.mem.hbm = [] ∧ t.boot.phase = 0)
    ∧ (∀ st m, m < 105 → ∃ t, exec (.hbmTempChange st m) s = .next t ∧ Tab.get 0 t.pwr.tHbm st = m
      ∧ (st ∈ t.pwr.fastRefresh ↔ 85 ≤ m) ∧ (st ∈ t.pwr.halfRate ↔ 95 ≤ m ∨ (st ∈ p.halfRate ∧ 90 < m))
      ∧ (∀ x, x ≠ st → (x ∈ t.pwr.fastRefresh ↔ x ∈ p.fastRefresh) ∧ (x ∈ t.pwr.halfRate ↔ x ∈ p.halfRate))
      ∧ Frame [.log, .trc, .hosts, .pwr] s t)

/-- Idle states (R452–R454): the shallowest deeper state that is allowed is entered, at the next tick (log 14); a host's register access that needs a
path waits, and so does one behind it (logs 116, 118); a wake event starts the exit, and at its end the device is in P0, the Platforms read zero after
I4, and the requests that waited proceed, in their order. The sequencers neither fetch nor admit while their clock is stopped. -/
def Obligations.IdleStatesAreEnteredAndLeft : Prop :=
  ∀ s : State,
    let p := s.pwr
    (∀ t0 k, p.idleSince = some t0 → p.trans = false → s.idle = true → s.cfg.cfgDone = true → 1 ≤ k → k ≤ 4 → p.state < k →
      s.mayEnter k t0 = true → (∀ j, p.state < j → j < k → s.mayEnter j t0 = false) →
      ∃ t, exec .idleEntry s = .next t ∧ t.pwr = { p with trans := true, exiting := false, target := k, entryAt := s.time.clk }
        ∧ Frame [.trc, .pwr] s t)
    ∧ (p.idleSince = none → exec .idleEntry s = .next s)
    ∧ (s.pending = [] → p.trans = true → p.exiting = false →
      ∃ t, step s = .next t ∧ t.pwr.state = p.target ∧ t.pwr.trans = false)
    ∧ (p.state ≠ 0 ∨ p.trans = true → p.exiting = false → s.wakeDue = true →
      ∃ t, exec .wake s = .next t ∧ t.pwr = { p with trans := true, exiting := true, entryAt := s.time.clk } ∧ Frame [.trc, .pwr] s t)
    ∧ (s.wakeDue = false → exec .wake s = .next s)
    ∧ (p.exiting = false → exec .idleExitDone s = .next s)
    ∧ (∀ (mst : Master) (i : Instr), writerOf i = some mst → mst.host?.isSome = true → s.regOpen mst = true → s.asleep = true →
      (∀ off, offsetOf i = some off → bootHidden mst off = false ∧ pciHost mst off = none) →
      needsPath i = true ∨ (∃ j, HeldReq.access mst j ∈ p.held) → exec i s = .next (s.setPwr { p with held := p.held ++ [.access mst i] }))
    ∧ (s.dieStopped = true → exec .cmdAdmit s = .next s ∧ ∀ ctx q, exec (.cmdFetch ctx q) s = .next s)
    ∧ (p.exiting = true →
      let up : State := s.setPwr { p with state := 0, trans := false, exiting := false, target := 0, held := [], idleSince := none }
      (p.held = [] → ∃ t, exec .idleExitDone s = .next t ∧ t.pwr = up.pwr
        ∧ (p.state = 4 → (∀ c o, t.mem.get (.plat c o) = 0) ∧ (∀ l, (∀ c o, l ≠ .plat c o) → t.mem.get l = s.mem.get l))
        ∧ (p.state ≠ 4 → t.mem = s.mem) ∧ Frame [.trc, .mem, .pwr] s t)
      ∧ (∀ l, p.held = l → p.state ≠ 4 → exec .idleExitDone s = .next (s.tracePwr (l.foldl HeldReq.run up)))
      ∧ (∀ mst ctx v, HeldReq.run up (.access mst (.ctxSeedWrite mst ctx v)) = (match exec (.ctxSeedWrite mst ctx v) up with
        | .next t => t
        | _ => up)))

/-- The sideband (R495): from the end of phase 0x1 a block read answers the eight bytes of its register, and the alert response the target's
address while an alert is active; before that nothing is acknowledged. -/
def Obligations.TheSidebandAnswers : Prop :=
  ∀ s : State,
    let reads := [(Instr.sbBootStat, s.bootStat), (.sbPwrStat, s.pwrStat), (.sbPwrTemp, s.pwrTemp), (.sbPwrSupply, s.pwrSupply)
                  , (.sbGctlInventory, if s.cfg.cfgDone then s.inventory else 0)]
    (∀ e ∈ reads, exec e.1 s = .next (s.setPwr { s.pwr with sbResp := if s.boot.romOk then some (toLe 8 e.2) else none }))
    ∧ (s.boot.romOk = true → s.pwr.thermCrit = true ∨ s.pwr.holdExp = true ∨ s.boot.phase = 8 →
      exec .sbAlertResponse s = .next (s.setPwr { s.pwr with sbResp := some (toLe 1 (0x58 + s.boot.sbAddr % 8)) }))
    ∧ (s.boot.romOk = false ∨ (s.pwr.thermCrit = false ∧ s.pwr.holdExp = false ∧ s.boot.phase ≠ 8) →
      exec .sbAlertResponse s = .next (s.setPwr { s.pwr with sbResp := none }))

/-! ## Observation (R339, R474–R482) -/

/-- The trace (R474–R478): ARM empties the buffer; MARK writes a record that the sources' rules let through into its source's FIFO, where it
stays while the hub takes nothing, or is dropped and counted when 64 records stand there; else it is written into the buffer, and fires the
trigger with TRIG; SAMPLE is due every SAMPLE_US, and the trace port takes the oldest record. When the hub takes nothing is a free value
(log 40); A of a TRIGGER record that a MARK fires, and that a frozen buffer is not drained, are log 58. The error log (R411, R471, R472), on
a misaligned access, which is an event of it (R7; its UNIT is log 121): a new entry takes the next SEQ, carries the event, replaces the
oldest of 4,096, and raises the error vector of the host function it names; an event that repeats the entry of the last 1 ms only raises its
REPEAT. ERR_STAT names the entries held, and ERR_SEL chooses the one that ERR_ENT0–3 show to a master that may see it; another reads VALID =
0, and here a whole word of zeros (log 121). -/
def Obligations.TheTraceRecords : Prop :=
  (∀ (mst : Master) (v : Word) (s : State), s.regReady mst false = true →
    (mst = .m ∨ mst = .d → v.toNat / 2 % 4 ≠ 3 → v.toNat / 8 % 16 ≠ 0 → ∃ t, exec (.arm mst v) s = .next t ∧ t.trc.buf = []
      ∧ t.trc.dropped = 0 ∧ t.trc.triggered = false ∧ t.trc.frozen = false ∧ t.trc.en = v.getLsbD 0 ∧ t.trc.mode = v.toNat / 2 % 4
      ∧ t.trc.post = v.toNat / 8 % 16 ∧ t.trc.sampleUs = v.toNat / 2 ^ 16 ∧ t.trc.sent = s.trc.sent ∧ t.trc.dump = s.trc.dump ∧ Frame [.bus, .trc] s t)
    ∧ (mst ≠ .m → mst ≠ .d → exec (.arm mst v) s = .next ((s.clearBus mst).logReg mst 0x600000)))
  ∧ (∀ (mst : Master) (v : Dword) (s : State), s.regReady mst false = true →
    let r : TrcRec := ⟨0x0C, mst.code, 0, 0, 0, s.replica mst.code, BitVec.ofNat 64 (v.toNat % 2 ^ 63), 0⟩
    let f := Tab.get Fifo.empty s.trc.fifos mst.code
    (s.trc.emits false r = false → exec (.mark mst v) s = .next (s.clearBus mst))
    ∧ (s.trc.emits false r = true → ∃ t, exec (.mark mst v) s = .next t ∧ t.trc.turn = s.trc.turn + 1 ∧ Frame [.bus, .trc] s t
      ∧ (Config.fifoStall s.trc.turn = true → f.recs.length < 64 → f.lost.count = 0 → t.trc.dropped = s.trc.dropped ∧ t.trc.buf = s.trc.buf
        ∧ Tab.get Fifo.empty t.trc.fifos mst.code = ⟨f.recs ++ [⟨r, v.getLsbD 63⟩], f.lost⟩)
      ∧ (Config.fifoStall s.trc.turn = true → 64 ≤ f.recs.length → t.trc.dropped = s.trc.dropped + 1 ∧ t.trc.buf = s.trc.buf
        ∧ (Tab.get Fifo.empty t.trc.fifos mst.code).recs = f.recs ∧ (Tab.get Fifo.empty t.trc.fifos mst.code).lost.count = f.lost.count + 1)
      ∧ (Config.fifoStall s.trc.turn = false → s.trc.fifos = [] → t.trc.fifos = []
        ∧ (v.getLsbD 63 = true → t.trc.triggered = true)
        ∧ (v.getLsbD 63 = false → s.trc.mode ≠ 0 → s.trc.frozen = false → s.trc.share = none → s.trc.buf.length < 32767 →
          t.trc.buf = s.trc.buf ++ [r]))))
  ∧ (∀ s : State,
    (s.trc.sampleUs = 0 ∨ s.time.clk.toNat < s.trc.sampleAt.toNat + 1000 * s.trc.sampleUs → exec .sample s = .next s)
    ∧ (s.trc.sampleUs ≠ 0 → s.trc.sampleAt.toNat + 1000 * s.trc.sampleUs ≤ s.time.clk.toNat →
      ∃ t, exec .sample s = .next t ∧ t.trc.sampleAt = s.time.clk ∧ Frame [.trc] s t)
    ∧ (s.trc.portEn = false → exec .traceRecordSent s = .next s)
    ∧ (∀ r rest, s.trc.portEn = true → s.inv.pllFailed.contains 24 = false → s.trc.frozen = false → s.trc.headGap.count = 0 →
      s.trc.tailGap = none → s.trc.buf = r :: rest →
      exec .traceRecordSent s = .next (s.setTrc { s.trc with buf := rest, sent := s.trc.sent ++ [r] })))
  ∧ (∀ (mst : Master) (off : Nat) (s : State), s.regReady mst (offNeeds off) = true → bootHidden mst off = false → pciHost mst off = none →
    spotOf off .w32 = .bad →
    let e : ErrEnt := ⟨s.log.next, 0x06, mst.code, mst.hostCode, 0x07, s.time.now, off, 0, 0, 0, 0, 0⟩
    let again (x : ErrEnt) : Prop := x.status = 0x06 ∧ x.unit = 0x07 ∧ x.ctx = 0 ∧ x.addr = off ∧ s.time.now.toNat ≤ x.time.toNat + 1000000
    ∃ t, exec (.lowHalfRead mst ⟨off, .w32⟩) s = .next t ∧ t.log.sel = s.log.sel
      ∧ ((∀ x ∈ s.log.entries, ¬again x) → t.log.next = s.log.next + 1
        ∧ t.log.entries = (if s.log.entries.length < 4096 then s.log.entries else s.log.entries.drop 1) ++ [e]
        ∧ (∀ k, mst.host? = some k → (s.hostFn k).vectorOpen 0 = true → (t.hostFn k).stream = (s.hostFn k).stream ++ [.msix 0])
        ∧ (∀ k, mst.host? = some k → (s.hostFn k).vectorOpen 0 = false → 0 ∈ (t.hostFn k).msixPend))
      ∧ (∀ pre x post, s.log.entries = pre ++ x :: post → again x → (∀ y ∈ post, ¬again y) → (∀ y ∈ pre, y.seq ≠ x.seq) →
        t.log.next = s.log.next ∧ t.log.entries = pre ++ { x with rep := min 65535 (x.rep + 1) } :: post ∧ t.hosts = s.hosts))
  ∧ (∀ (mst : Master) (s : State), s.regReady mst false = true →
    let sel := Tab.get 0 s.log.sel mst.code
    let reads (off v : Nat) : Prop := exec (.lowHalfRead mst ⟨off, .w64⟩) s = .next ((s.clearBus mst).answer v)
    (∀ w : Word, ∃ t, exec (.registerWrite mst 0x900008 .w32 (w.setWidth 64)) s = .next t ∧ Tab.get 0 t.log.sel mst.code = w
      ∧ t.log.entries = s.log.entries ∧ t.log.next = s.log.next ∧ Frame [.bus, .log] s t)
    ∧ reads 0x900000 (s.log.next.toNat + 2 ^ 32 * ((s.log.entries.head?.map (·.seq)).getD s.log.next).toNat)
    ∧ ((∀ y ∈ s.log.entries, y.seq ≠ sel) → reads 0x900010 0)
    ∧ (∀ pre e post, s.log.entries = pre ++ e :: post → e.seq = sel → (∀ y ∈ pre, y.seq ≠ sel) →
      (∀ k, mst.host? = some k → e.host ≠ k → e.host ≠ 0xF → reads 0x900010 0)
      ∧ ((∀ k, mst.host? = some k → e.host = k ∨ e.host = 0xF) → e.master < 16 → e.host < 16 → e.unit < 128 → e.ctx < 4096 → e.where_ < 16 →
        e.index < 65536 → e.rep < 65536 → e.detail < 65536 →
        reads 0x900010 (e.seq.toNat + 2 ^ 32 * e.status.toNat + 2 ^ 40 * e.master + 2 ^ 44 * e.host + 2 ^ 48 * e.unit + 2 ^ 63)
        ∧ reads 0x900018 e.time.toNat ∧ reads 0x900020 e.addr
        ∧ reads 0x900028 (e.ctx + 2 ^ 12 * e.where_ + 2 ^ 16 * e.index + 2 ^ 32 * e.rep + 2 ^ 48 * e.detail))))

/-- Hang dumps and books (R339, R480–R482): GO, of the management core or the debug port, captures the state and freezes the device; DUMP_DONE
writes what was captured; RESUME releases the freeze, and resets a context whose watchdog started the dump. A book fault is counted, and
starts a dump with AUTO_BOOK. -/
def Obligations.DumpsFreezeAndRelease : Prop :=
  (∀ (mst : Master) (v : Dword) (s : State), s.regReady mst false = true →
    let d := s.trc.dump
    (mst ≠ .m → mst ≠ .d → exec (.go mst v) s = .next ((s.clearBus mst).logReg mst 0x600040)
      ∧ exec (.resume mst v) s = .next ((s.clearBus mst).logReg mst 0x600040))
    ∧ (mst = .m ∨ mst = .d → d.busy = false → v.getLsbD 1 = false → ∃ t, exec (.go mst v) s = .next t ∧ t.trc.dump.busy = true
      ∧ t.trc.dump.done = false ∧ t.trc.dump.at_ = s.time.now ∧ t.trc.dump.cause = 0 ∧ t.trc.dump.held = [] ∧ t.trc.dump.wdogCtx = none
      ∧ t.trc.dump.addr = v.toNat / 2 ^ 15 % 2 ^ 24 ∧ Frame [.bus, .trc] s t)
    ∧ (mst = .m ∨ mst = .d → d.busy = true → d.done = true → d.held = [] → v.getLsbD 0 = false → (∀ e ∈ s.cmdList, e.2.outQ = []) →
      (d.wdogCtx = none → ∃ t, exec (.resume mst v) s = .next t ∧ t.trc.dump.busy = false ∧ Frame [.bus, .trc] s t)
      ∧ (∀ c, d.wdogCtx = some c → (s.ctx c).state = .on ∨ (s.ctx c).state = .preempting →
        ∃ t, exec (.resume mst v) s = .next t ∧ t.trc.dump.busy = false ∧ (t.ctx c).state = .resetting ∧ (t.ctx c).fault = true))
    ∧ (mst = .m ∨ mst = .d → d.busy = false ∨ d.done = false → v.getLsbD 0 = false →
      ∃ t, exec (.resume mst v) s = .next t ∧ t.trc.dump.busy = d.busy ∧ t.trc.dump.done = d.done ∧ Frame [.bus, .trc] s t))
  ∧ (∀ s : State,
    let d := s.trc.dump
    (d.busy = true → d.done = false → ∃ t, exec .dumpDone s = .next t ∧ t.trc.dump = { d with done := true, image := [] }
      ∧ t.mem = d.image.foldl (fun (m : Memories) (e : Nat × List Byte) => m.write (.hbm e.1) e.2) s.mem ∧ Frame [.trc, .mem] s t)
    ∧ (d.busy = false ∨ d.done = true → exec .dumpDone s = .next s)
    ∧ (∀ b, ∃ t, exec (.bookTimeout b) s = .next t ∧ Tab.get 0 t.cnt (cntDev 18) = Tab.get 0 s.cnt (cntDev 18) + 1
      ∧ OtherCounters (cntDev 18) s t ∧ Frame [.log, .cnt, .trc, .hosts] s t
      ∧ (d.autoBook = false → t.trc.dump = d) ∧ (d.autoBook = true → d.busy = false → t.trc.dump.busy = true ∧ t.trc.dump.cause = 2)))

/-! ## What every command keeps -/

/-- Once the configuration load has completed, the configuration stays as it is, and the device stays in the phase RUN, under every command
but a reset of the whole device (00_scope.md, access code RWL; R460). The commands of the sequencers, the engines and the links leave the
registers' side of the device alone at any time. -/
def Obligations.CommandsKeepWhatIsNotTheirs : Prop :=
  (∀ (c : Instr) (s t : State), s.cfg.cfgDone = true → s.boot.phase = 7 → coldRow c = false → exec c s = .next t →
    t.cfg = s.cfg ∧ t.boot.phase = 7)
  ∧ (∀ (c : Instr) (s t : State), lifeRow c = true → exec c s = .next t →
    Frame [.log, .cnt, .trc, .mem, .xlt, .ctxs, .cmds, .sig, .yard, .fab, .hosts] s t)

/-- Every command, and every step, keeps the canonical form of the memories: keys rising, and no byte listed that reads so unlisted. -/
def Obligations.MemoryKeepsItsForm : Prop :=
  (∀ (c : Instr) (s t : State), s.mem.wf = true → exec c s = .next t → t.mem.wf = true)
    ∧ (∀ s t : State, s.mem.wf = true → step s = .next t → t.mem.wf = true)

/-- The encodings of the links and of numbers lose nothing (R137, R344, R348, R375; R31, R40–R43): a flit, a packet, a Yard frame and a ring
frame read back as they were sent, and converting the value of a finite code of FP32, BF16, E4M3 or E5M2 gives that code, under every
rounding. -/
def Obligations.EncodingsReadBack : Prop :=
  (∀ f : Flit, f.ftype ≤ 2 → f.first < 16 → f.body.length = 256 → parseFlit f.bytes = some f)
    ∧ (∀ p : Packet, packetOf p.header p.data = p ∧ p.header.length = 32)
    ∧ (∀ f : YardFrame, f.payload.length < 2 ^ 32 → parseYardFrame f.sender f.ttClass (yardFrameBytes f) = f)
    ∧ (∀ f : RingFrame, f.payload.length < 2 ^ 32 → parseRingFrame (ringFrameBytes f) = f)
    ∧ (∀ E ∈ [Enc.fp32, Enc.bf16, Enc.e4m3, Enc.e5m2], ∀ (b : Nat) (n : Bool) (m : Nat) (e : Int), b < 2 ^ E.width → E.decode b = .fin n m e →
      ∀ (rnd : Rnd) (sat : Bool), E.conv rnd sat (E.decode b) = ⟨b, false, false⟩)
end

