-- ==== Sys2Proof/Laws/State.lean ====
section
/-!
SUPPORT. What each named update of the state does to each field, by computation.
-/
namespace Sys2Proof.Machine

variable (s : State)

/-! ## `State.setCtx` -/

@[simp] theorem State.setCtx_pending (c : Nat) (x : Ctx) : (s.setCtx c x).pending = s.pending := rfl
@[simp] theorem State.setCtx_stepping (c : Nat) (x : Ctx) : (s.setCtx c x).stepping = s.stepping := rfl
@[simp] theorem State.setCtx_bus (c : Nat) (x : Ctx) : (s.setCtx c x).bus = s.bus := rfl
@[simp] theorem State.setCtx_cfg (c : Nat) (x : Ctx) : (s.setCtx c x).cfg = s.cfg := rfl
@[simp] theorem State.setCtx_inv (c : Nat) (x : Ctx) : (s.setCtx c x).inv = s.inv := rfl
@[simp] theorem State.setCtx_boot (c : Nat) (x : Ctx) : (s.setCtx c x).boot = s.boot := rfl
@[simp] theorem State.setCtx_time (c : Nat) (x : Ctx) : (s.setCtx c x).time = s.time := rfl
@[simp] theorem State.setCtx_log (c : Nat) (x : Ctx) : (s.setCtx c x).log = s.log := rfl
@[simp] theorem State.setCtx_cnt (c : Nat) (x : Ctx) : (s.setCtx c x).cnt = s.cnt := rfl
@[simp] theorem State.setCtx_trc (c : Nat) (x : Ctx) : (s.setCtx c x).trc = s.trc := rfl
@[simp] theorem State.setCtx_mem (c : Nat) (x : Ctx) : (s.setCtx c x).mem = s.mem := rfl
@[simp] theorem State.setCtx_xlt (c : Nat) (x : Ctx) : (s.setCtx c x).xlt = s.xlt := rfl
@[simp] theorem State.setCtx_tbl (c : Nat) (x : Ctx) : (s.setCtx c x).tbl = s.tbl := rfl
@[simp] theorem State.setCtx_ctxs (c : Nat) (x : Ctx) :
    (s.setCtx c x).ctxs = Tab.set Ctx.zero s.ctxs c x := rfl
@[simp] theorem State.setCtx_cmds (c : Nat) (x : Ctx) : (s.setCtx c x).cmds = s.cmds := rfl
@[simp] theorem State.setCtx_sig (c : Nat) (x : Ctx) : (s.setCtx c x).sig = s.sig := rfl
@[simp] theorem State.setCtx_yard (c : Nat) (x : Ctx) : (s.setCtx c x).yard = s.yard := rfl
@[simp] theorem State.setCtx_fab (c : Nat) (x : Ctx) : (s.setCtx c x).fab = s.fab := rfl
@[simp] theorem State.setCtx_hosts (c : Nat) (x : Ctx) : (s.setCtx c x).hosts = s.hosts := rfl
@[simp] theorem State.setCtx_mbx (c : Nat) (x : Ctx) : (s.setCtx c x).mbx = s.mbx := rfl
@[simp] theorem State.setCtx_pwr (c : Nat) (x : Ctx) : (s.setCtx c x).pwr = s.pwr := rfl

/-! ## `State.modCtx` -/

@[simp] theorem State.modCtx_pending (c : Nat) (f : Ctx → Ctx) : (s.modCtx c f).pending = s.pending := rfl
@[simp] theorem State.modCtx_stepping (c : Nat) (f : Ctx → Ctx) : (s.modCtx c f).stepping = s.stepping := rfl
@[simp] theorem State.modCtx_bus (c : Nat) (f : Ctx → Ctx) : (s.modCtx c f).bus = s.bus := rfl
@[simp] theorem State.modCtx_cfg (c : Nat) (f : Ctx → Ctx) : (s.modCtx c f).cfg = s.cfg := rfl
@[simp] theorem State.modCtx_inv (c : Nat) (f : Ctx → Ctx) : (s.modCtx c f).inv = s.inv := rfl
@[simp] theorem State.modCtx_boot (c : Nat) (f : Ctx → Ctx) : (s.modCtx c f).boot = s.boot := rfl
@[simp] theorem State.modCtx_time (c : Nat) (f : Ctx → Ctx) : (s.modCtx c f).time = s.time := rfl
@[simp] theorem State.modCtx_log (c : Nat) (f : Ctx → Ctx) : (s.modCtx c f).log = s.log := rfl
@[simp] theorem State.modCtx_cnt (c : Nat) (f : Ctx → Ctx) : (s.modCtx c f).cnt = s.cnt := rfl
@[simp] theorem State.modCtx_trc (c : Nat) (f : Ctx → Ctx) : (s.modCtx c f).trc = s.trc := rfl
@[simp] theorem State.modCtx_mem (c : Nat) (f : Ctx → Ctx) : (s.modCtx c f).mem = s.mem := rfl
@[simp] theorem State.modCtx_xlt (c : Nat) (f : Ctx → Ctx) : (s.modCtx c f).xlt = s.xlt := rfl
@[simp] theorem State.modCtx_tbl (c : Nat) (f : Ctx → Ctx) : (s.modCtx c f).tbl = s.tbl := rfl
@[simp] theorem State.modCtx_ctxs (c : Nat) (f : Ctx → Ctx) :
    (s.modCtx c f).ctxs = Tab.set Ctx.zero s.ctxs c (f (s.ctx c)) := rfl
@[simp] theorem State.modCtx_cmds (c : Nat) (f : Ctx → Ctx) : (s.modCtx c f).cmds = s.cmds := rfl
@[simp] theorem State.modCtx_sig (c : Nat) (f : Ctx → Ctx) : (s.modCtx c f).sig = s.sig := rfl
@[simp] theorem State.modCtx_yard (c : Nat) (f : Ctx → Ctx) : (s.modCtx c f).yard = s.yard := rfl
@[simp] theorem State.modCtx_fab (c : Nat) (f : Ctx → Ctx) : (s.modCtx c f).fab = s.fab := rfl
@[simp] theorem State.modCtx_hosts (c : Nat) (f : Ctx → Ctx) : (s.modCtx c f).hosts = s.hosts := rfl
@[simp] theorem State.modCtx_mbx (c : Nat) (f : Ctx → Ctx) : (s.modCtx c f).mbx = s.mbx := rfl
@[simp] theorem State.modCtx_pwr (c : Nat) (f : Ctx → Ctx) : (s.modCtx c f).pwr = s.pwr := rfl

/-! ## `State.setCmd` -/

@[simp] theorem State.setCmd_pending (slot : Nat) (c : Option Cmd) : (s.setCmd slot c).pending = s.pending := rfl
@[simp] theorem State.setCmd_stepping (slot : Nat) (c : Option Cmd) : (s.setCmd slot c).stepping = s.stepping := rfl
@[simp] theorem State.setCmd_bus (slot : Nat) (c : Option Cmd) : (s.setCmd slot c).bus = s.bus := rfl
@[simp] theorem State.setCmd_cfg (slot : Nat) (c : Option Cmd) : (s.setCmd slot c).cfg = s.cfg := rfl
@[simp] theorem State.setCmd_inv (slot : Nat) (c : Option Cmd) : (s.setCmd slot c).inv = s.inv := rfl
@[simp] theorem State.setCmd_boot (slot : Nat) (c : Option Cmd) : (s.setCmd slot c).boot = s.boot := rfl
@[simp] theorem State.setCmd_time (slot : Nat) (c : Option Cmd) : (s.setCmd slot c).time = s.time := rfl
@[simp] theorem State.setCmd_log (slot : Nat) (c : Option Cmd) : (s.setCmd slot c).log = s.log := rfl
@[simp] theorem State.setCmd_cnt (slot : Nat) (c : Option Cmd) : (s.setCmd slot c).cnt = s.cnt := rfl
@[simp] theorem State.setCmd_trc (slot : Nat) (c : Option Cmd) : (s.setCmd slot c).trc = s.trc := rfl
@[simp] theorem State.setCmd_mem (slot : Nat) (c : Option Cmd) : (s.setCmd slot c).mem = s.mem := rfl
@[simp] theorem State.setCmd_xlt (slot : Nat) (c : Option Cmd) : (s.setCmd slot c).xlt = s.xlt := rfl
@[simp] theorem State.setCmd_tbl (slot : Nat) (c : Option Cmd) : (s.setCmd slot c).tbl = s.tbl := rfl
@[simp] theorem State.setCmd_ctxs (slot : Nat) (c : Option Cmd) : (s.setCmd slot c).ctxs = s.ctxs := rfl
@[simp] theorem State.setCmd_cmds (slot : Nat) (c : Option Cmd) :
    (s.setCmd slot c).cmds = { s.cmds with slots := Tab.set none s.cmds.slots slot c } := rfl
@[simp] theorem State.setCmd_sig (slot : Nat) (c : Option Cmd) : (s.setCmd slot c).sig = s.sig := rfl
@[simp] theorem State.setCmd_yard (slot : Nat) (c : Option Cmd) : (s.setCmd slot c).yard = s.yard := rfl
@[simp] theorem State.setCmd_fab (slot : Nat) (c : Option Cmd) : (s.setCmd slot c).fab = s.fab := rfl
@[simp] theorem State.setCmd_hosts (slot : Nat) (c : Option Cmd) : (s.setCmd slot c).hosts = s.hosts := rfl
@[simp] theorem State.setCmd_mbx (slot : Nat) (c : Option Cmd) : (s.setCmd slot c).mbx = s.mbx := rfl
@[simp] theorem State.setCmd_pwr (slot : Nat) (c : Option Cmd) : (s.setCmd slot c).pwr = s.pwr := rfl

/-! ## `State.setSig` -/

@[simp] theorem State.setSig_pending (n : Nat) (g : Signal) : (s.setSig n g).pending = s.pending := rfl
@[simp] theorem State.setSig_stepping (n : Nat) (g : Signal) : (s.setSig n g).stepping = s.stepping := rfl
@[simp] theorem State.setSig_bus (n : Nat) (g : Signal) : (s.setSig n g).bus = s.bus := rfl
@[simp] theorem State.setSig_cfg (n : Nat) (g : Signal) : (s.setSig n g).cfg = s.cfg := rfl
@[simp] theorem State.setSig_inv (n : Nat) (g : Signal) : (s.setSig n g).inv = s.inv := rfl
@[simp] theorem State.setSig_boot (n : Nat) (g : Signal) : (s.setSig n g).boot = s.boot := rfl
@[simp] theorem State.setSig_time (n : Nat) (g : Signal) : (s.setSig n g).time = s.time := rfl
@[simp] theorem State.setSig_log (n : Nat) (g : Signal) : (s.setSig n g).log = s.log := rfl
@[simp] theorem State.setSig_cnt (n : Nat) (g : Signal) : (s.setSig n g).cnt = s.cnt := rfl
@[simp] theorem State.setSig_trc (n : Nat) (g : Signal) : (s.setSig n g).trc = s.trc := rfl
@[simp] theorem State.setSig_mem (n : Nat) (g : Signal) : (s.setSig n g).mem = s.mem := rfl
@[simp] theorem State.setSig_xlt (n : Nat) (g : Signal) : (s.setSig n g).xlt = s.xlt := rfl
@[simp] theorem State.setSig_tbl (n : Nat) (g : Signal) : (s.setSig n g).tbl = s.tbl := rfl
@[simp] theorem State.setSig_ctxs (n : Nat) (g : Signal) : (s.setSig n g).ctxs = s.ctxs := rfl
@[simp] theorem State.setSig_cmds (n : Nat) (g : Signal) : (s.setSig n g).cmds = s.cmds := rfl
@[simp] theorem State.setSig_sig (n : Nat) (g : Signal) :
    (s.setSig n g).sig = { s.sig with sigs := Tab.set Signal.free s.sig.sigs n g } := rfl
@[simp] theorem State.setSig_yard (n : Nat) (g : Signal) : (s.setSig n g).yard = s.yard := rfl
@[simp] theorem State.setSig_fab (n : Nat) (g : Signal) : (s.setSig n g).fab = s.fab := rfl
@[simp] theorem State.setSig_hosts (n : Nat) (g : Signal) : (s.setSig n g).hosts = s.hosts := rfl
@[simp] theorem State.setSig_mbx (n : Nat) (g : Signal) : (s.setSig n g).mbx = s.mbx := rfl
@[simp] theorem State.setSig_pwr (n : Nat) (g : Signal) : (s.setSig n g).pwr = s.pwr := rfl

/-! ## `State.setSigRegs` -/

@[simp] theorem State.setSigRegs_pending (mst : Master) (r : SigRegs) : (s.setSigRegs mst r).pending = s.pending := rfl
@[simp] theorem State.setSigRegs_stepping (mst : Master) (r : SigRegs) : (s.setSigRegs mst r).stepping = s.stepping := rfl
@[simp] theorem State.setSigRegs_bus (mst : Master) (r : SigRegs) : (s.setSigRegs mst r).bus = s.bus := rfl
@[simp] theorem State.setSigRegs_cfg (mst : Master) (r : SigRegs) : (s.setSigRegs mst r).cfg = s.cfg := rfl
@[simp] theorem State.setSigRegs_inv (mst : Master) (r : SigRegs) : (s.setSigRegs mst r).inv = s.inv := rfl
@[simp] theorem State.setSigRegs_boot (mst : Master) (r : SigRegs) : (s.setSigRegs mst r).boot = s.boot := rfl
@[simp] theorem State.setSigRegs_time (mst : Master) (r : SigRegs) : (s.setSigRegs mst r).time = s.time := rfl
@[simp] theorem State.setSigRegs_log (mst : Master) (r : SigRegs) : (s.setSigRegs mst r).log = s.log := rfl
@[simp] theorem State.setSigRegs_cnt (mst : Master) (r : SigRegs) : (s.setSigRegs mst r).cnt = s.cnt := rfl
@[simp] theorem State.setSigRegs_trc (mst : Master) (r : SigRegs) : (s.setSigRegs mst r).trc = s.trc := rfl
@[simp] theorem State.setSigRegs_mem (mst : Master) (r : SigRegs) : (s.setSigRegs mst r).mem = s.mem := rfl
@[simp] theorem State.setSigRegs_xlt (mst : Master) (r : SigRegs) : (s.setSigRegs mst r).xlt = s.xlt := rfl
@[simp] theorem State.setSigRegs_tbl (mst : Master) (r : SigRegs) : (s.setSigRegs mst r).tbl = s.tbl := rfl
@[simp] theorem State.setSigRegs_ctxs (mst : Master) (r : SigRegs) : (s.setSigRegs mst r).ctxs = s.ctxs := rfl
@[simp] theorem State.setSigRegs_cmds (mst : Master) (r : SigRegs) : (s.setSigRegs mst r).cmds = s.cmds := rfl
@[simp] theorem State.setSigRegs_sig (mst : Master) (r : SigRegs) :
    (s.setSigRegs mst r).sig = { s.sig with regs := Tab.set SigRegs.zero s.sig.regs mst.code r } := rfl
@[simp] theorem State.setSigRegs_yard (mst : Master) (r : SigRegs) : (s.setSigRegs mst r).yard = s.yard := rfl
@[simp] theorem State.setSigRegs_fab (mst : Master) (r : SigRegs) : (s.setSigRegs mst r).fab = s.fab := rfl
@[simp] theorem State.setSigRegs_hosts (mst : Master) (r : SigRegs) : (s.setSigRegs mst r).hosts = s.hosts := rfl
@[simp] theorem State.setSigRegs_mbx (mst : Master) (r : SigRegs) : (s.setSigRegs mst r).mbx = s.mbx := rfl
@[simp] theorem State.setSigRegs_pwr (mst : Master) (r : SigRegs) : (s.setSigRegs mst r).pwr = s.pwr := rfl

/-! ## `State.setPort` -/

@[simp] theorem State.setPort_pending (k : Nat) (p : Port) : (s.setPort k p).pending = s.pending := rfl
@[simp] theorem State.setPort_stepping (k : Nat) (p : Port) : (s.setPort k p).stepping = s.stepping := rfl
@[simp] theorem State.setPort_bus (k : Nat) (p : Port) : (s.setPort k p).bus = s.bus := rfl
@[simp] theorem State.setPort_cfg (k : Nat) (p : Port) : (s.setPort k p).cfg = s.cfg := rfl
@[simp] theorem State.setPort_inv (k : Nat) (p : Port) : (s.setPort k p).inv = s.inv := rfl
@[simp] theorem State.setPort_boot (k : Nat) (p : Port) : (s.setPort k p).boot = s.boot := rfl
@[simp] theorem State.setPort_time (k : Nat) (p : Port) : (s.setPort k p).time = s.time := rfl
@[simp] theorem State.setPort_log (k : Nat) (p : Port) : (s.setPort k p).log = s.log := rfl
@[simp] theorem State.setPort_cnt (k : Nat) (p : Port) : (s.setPort k p).cnt = s.cnt := rfl
@[simp] theorem State.setPort_trc (k : Nat) (p : Port) : (s.setPort k p).trc = s.trc := rfl
@[simp] theorem State.setPort_mem (k : Nat) (p : Port) : (s.setPort k p).mem = s.mem := rfl
@[simp] theorem State.setPort_xlt (k : Nat) (p : Port) : (s.setPort k p).xlt = s.xlt := rfl
@[simp] theorem State.setPort_tbl (k : Nat) (p : Port) : (s.setPort k p).tbl = s.tbl := rfl
@[simp] theorem State.setPort_ctxs (k : Nat) (p : Port) : (s.setPort k p).ctxs = s.ctxs := rfl
@[simp] theorem State.setPort_cmds (k : Nat) (p : Port) : (s.setPort k p).cmds = s.cmds := rfl
@[simp] theorem State.setPort_sig (k : Nat) (p : Port) : (s.setPort k p).sig = s.sig := rfl
@[simp] theorem State.setPort_yard (k : Nat) (p : Port) : (s.setPort k p).yard = s.yard := rfl
@[simp] theorem State.setPort_fab (k : Nat) (p : Port) :
    (s.setPort k p).fab = { s.fab with ports := Tab.set Port.reset s.fab.ports k p } := rfl
@[simp] theorem State.setPort_hosts (k : Nat) (p : Port) : (s.setPort k p).hosts = s.hosts := rfl
@[simp] theorem State.setPort_mbx (k : Nat) (p : Port) : (s.setPort k p).mbx = s.mbx := rfl
@[simp] theorem State.setPort_pwr (k : Nat) (p : Port) : (s.setPort k p).pwr = s.pwr := rfl

/-! ## `State.modPort` -/

@[simp] theorem State.modPort_pending (k : Nat) (f : Port → Port) : (s.modPort k f).pending = s.pending := rfl
@[simp] theorem State.modPort_stepping (k : Nat) (f : Port → Port) : (s.modPort k f).stepping = s.stepping := rfl
@[simp] theorem State.modPort_bus (k : Nat) (f : Port → Port) : (s.modPort k f).bus = s.bus := rfl
@[simp] theorem State.modPort_cfg (k : Nat) (f : Port → Port) : (s.modPort k f).cfg = s.cfg := rfl
@[simp] theorem State.modPort_inv (k : Nat) (f : Port → Port) : (s.modPort k f).inv = s.inv := rfl
@[simp] theorem State.modPort_boot (k : Nat) (f : Port → Port) : (s.modPort k f).boot = s.boot := rfl
@[simp] theorem State.modPort_time (k : Nat) (f : Port → Port) : (s.modPort k f).time = s.time := rfl
@[simp] theorem State.modPort_log (k : Nat) (f : Port → Port) : (s.modPort k f).log = s.log := rfl
@[simp] theorem State.modPort_cnt (k : Nat) (f : Port → Port) : (s.modPort k f).cnt = s.cnt := rfl
@[simp] theorem State.modPort_trc (k : Nat) (f : Port → Port) : (s.modPort k f).trc = s.trc := rfl
@[simp] theorem State.modPort_mem (k : Nat) (f : Port → Port) : (s.modPort k f).mem = s.mem := rfl
@[simp] theorem State.modPort_xlt (k : Nat) (f : Port → Port) : (s.modPort k f).xlt = s.xlt := rfl
@[simp] theorem State.modPort_tbl (k : Nat) (f : Port → Port) : (s.modPort k f).tbl = s.tbl := rfl
@[simp] theorem State.modPort_ctxs (k : Nat) (f : Port → Port) : (s.modPort k f).ctxs = s.ctxs := rfl
@[simp] theorem State.modPort_cmds (k : Nat) (f : Port → Port) : (s.modPort k f).cmds = s.cmds := rfl
@[simp] theorem State.modPort_sig (k : Nat) (f : Port → Port) : (s.modPort k f).sig = s.sig := rfl
@[simp] theorem State.modPort_yard (k : Nat) (f : Port → Port) : (s.modPort k f).yard = s.yard := rfl
@[simp] theorem State.modPort_fab (k : Nat) (f : Port → Port) :
    (s.modPort k f).fab = { s.fab with ports := Tab.set Port.reset s.fab.ports k (f (s.port k)) } := rfl
@[simp] theorem State.modPort_hosts (k : Nat) (f : Port → Port) : (s.modPort k f).hosts = s.hosts := rfl
@[simp] theorem State.modPort_mbx (k : Nat) (f : Port → Port) : (s.modPort k f).mbx = s.mbx := rfl
@[simp] theorem State.modPort_pwr (k : Nat) (f : Port → Port) : (s.modPort k f).pwr = s.pwr := rfl

/-! ## `State.setHost` -/

@[simp] theorem State.setHost_pending (k : Nat) (h : HostFn) : (s.setHost k h).pending = s.pending := rfl
@[simp] theorem State.setHost_stepping (k : Nat) (h : HostFn) : (s.setHost k h).stepping = s.stepping := rfl
@[simp] theorem State.setHost_bus (k : Nat) (h : HostFn) : (s.setHost k h).bus = s.bus := rfl
@[simp] theorem State.setHost_cfg (k : Nat) (h : HostFn) : (s.setHost k h).cfg = s.cfg := rfl
@[simp] theorem State.setHost_inv (k : Nat) (h : HostFn) : (s.setHost k h).inv = s.inv := rfl
@[simp] theorem State.setHost_boot (k : Nat) (h : HostFn) : (s.setHost k h).boot = s.boot := rfl
@[simp] theorem State.setHost_time (k : Nat) (h : HostFn) : (s.setHost k h).time = s.time := rfl
@[simp] theorem State.setHost_log (k : Nat) (h : HostFn) : (s.setHost k h).log = s.log := rfl
@[simp] theorem State.setHost_cnt (k : Nat) (h : HostFn) : (s.setHost k h).cnt = s.cnt := rfl
@[simp] theorem State.setHost_trc (k : Nat) (h : HostFn) : (s.setHost k h).trc = s.trc := rfl
@[simp] theorem State.setHost_mem (k : Nat) (h : HostFn) : (s.setHost k h).mem = s.mem := rfl
@[simp] theorem State.setHost_xlt (k : Nat) (h : HostFn) : (s.setHost k h).xlt = s.xlt := rfl
@[simp] theorem State.setHost_tbl (k : Nat) (h : HostFn) : (s.setHost k h).tbl = s.tbl := rfl
@[simp] theorem State.setHost_ctxs (k : Nat) (h : HostFn) : (s.setHost k h).ctxs = s.ctxs := rfl
@[simp] theorem State.setHost_cmds (k : Nat) (h : HostFn) : (s.setHost k h).cmds = s.cmds := rfl
@[simp] theorem State.setHost_sig (k : Nat) (h : HostFn) : (s.setHost k h).sig = s.sig := rfl
@[simp] theorem State.setHost_yard (k : Nat) (h : HostFn) : (s.setHost k h).yard = s.yard := rfl
@[simp] theorem State.setHost_fab (k : Nat) (h : HostFn) : (s.setHost k h).fab = s.fab := rfl
@[simp] theorem State.setHost_hosts (k : Nat) (h : HostFn) :
    (s.setHost k h).hosts = Tab.set HostFn.reset s.hosts k h := rfl
@[simp] theorem State.setHost_mbx (k : Nat) (h : HostFn) : (s.setHost k h).mbx = s.mbx := rfl
@[simp] theorem State.setHost_pwr (k : Nat) (h : HostFn) : (s.setHost k h).pwr = s.pwr := rfl

/-! ## `State.modHost` -/

@[simp] theorem State.modHost_pending (k : Nat) (f : HostFn → HostFn) : (s.modHost k f).pending = s.pending := rfl
@[simp] theorem State.modHost_stepping (k : Nat) (f : HostFn → HostFn) : (s.modHost k f).stepping = s.stepping := rfl
@[simp] theorem State.modHost_bus (k : Nat) (f : HostFn → HostFn) : (s.modHost k f).bus = s.bus := rfl
@[simp] theorem State.modHost_cfg (k : Nat) (f : HostFn → HostFn) : (s.modHost k f).cfg = s.cfg := rfl
@[simp] theorem State.modHost_inv (k : Nat) (f : HostFn → HostFn) : (s.modHost k f).inv = s.inv := rfl
@[simp] theorem State.modHost_boot (k : Nat) (f : HostFn → HostFn) : (s.modHost k f).boot = s.boot := rfl
@[simp] theorem State.modHost_time (k : Nat) (f : HostFn → HostFn) : (s.modHost k f).time = s.time := rfl
@[simp] theorem State.modHost_log (k : Nat) (f : HostFn → HostFn) : (s.modHost k f).log = s.log := rfl
@[simp] theorem State.modHost_cnt (k : Nat) (f : HostFn → HostFn) : (s.modHost k f).cnt = s.cnt := rfl
@[simp] theorem State.modHost_trc (k : Nat) (f : HostFn → HostFn) : (s.modHost k f).trc = s.trc := rfl
@[simp] theorem State.modHost_mem (k : Nat) (f : HostFn → HostFn) : (s.modHost k f).mem = s.mem := rfl
@[simp] theorem State.modHost_xlt (k : Nat) (f : HostFn → HostFn) : (s.modHost k f).xlt = s.xlt := rfl
@[simp] theorem State.modHost_tbl (k : Nat) (f : HostFn → HostFn) : (s.modHost k f).tbl = s.tbl := rfl
@[simp] theorem State.modHost_ctxs (k : Nat) (f : HostFn → HostFn) : (s.modHost k f).ctxs = s.ctxs := rfl
@[simp] theorem State.modHost_cmds (k : Nat) (f : HostFn → HostFn) : (s.modHost k f).cmds = s.cmds := rfl
@[simp] theorem State.modHost_sig (k : Nat) (f : HostFn → HostFn) : (s.modHost k f).sig = s.sig := rfl
@[simp] theorem State.modHost_yard (k : Nat) (f : HostFn → HostFn) : (s.modHost k f).yard = s.yard := rfl
@[simp] theorem State.modHost_fab (k : Nat) (f : HostFn → HostFn) : (s.modHost k f).fab = s.fab := rfl
@[simp] theorem State.modHost_hosts (k : Nat) (f : HostFn → HostFn) :
    (s.modHost k f).hosts = Tab.set HostFn.reset s.hosts k (f (s.hostFn k)) := rfl
@[simp] theorem State.modHost_mbx (k : Nat) (f : HostFn → HostFn) : (s.modHost k f).mbx = s.mbx := rfl
@[simp] theorem State.modHost_pwr (k : Nat) (f : HostFn → HostFn) : (s.modHost k f).pwr = s.pwr := rfl

/-! ## `State.hostPush` -/

@[simp] theorem State.hostPush_pending (k : Nat) (msg : HostMsg) : (s.hostPush k msg).pending = s.pending := rfl
@[simp] theorem State.hostPush_stepping (k : Nat) (msg : HostMsg) : (s.hostPush k msg).stepping = s.stepping := rfl
@[simp] theorem State.hostPush_bus (k : Nat) (msg : HostMsg) : (s.hostPush k msg).bus = s.bus := rfl
@[simp] theorem State.hostPush_cfg (k : Nat) (msg : HostMsg) : (s.hostPush k msg).cfg = s.cfg := rfl
@[simp] theorem State.hostPush_inv (k : Nat) (msg : HostMsg) : (s.hostPush k msg).inv = s.inv := rfl
@[simp] theorem State.hostPush_boot (k : Nat) (msg : HostMsg) : (s.hostPush k msg).boot = s.boot := rfl
@[simp] theorem State.hostPush_time (k : Nat) (msg : HostMsg) : (s.hostPush k msg).time = s.time := rfl
@[simp] theorem State.hostPush_log (k : Nat) (msg : HostMsg) : (s.hostPush k msg).log = s.log := rfl
@[simp] theorem State.hostPush_cnt (k : Nat) (msg : HostMsg) : (s.hostPush k msg).cnt = s.cnt := rfl
@[simp] theorem State.hostPush_trc (k : Nat) (msg : HostMsg) : (s.hostPush k msg).trc = s.trc := rfl
@[simp] theorem State.hostPush_mem (k : Nat) (msg : HostMsg) : (s.hostPush k msg).mem = s.mem := rfl
@[simp] theorem State.hostPush_xlt (k : Nat) (msg : HostMsg) : (s.hostPush k msg).xlt = s.xlt := rfl
@[simp] theorem State.hostPush_tbl (k : Nat) (msg : HostMsg) : (s.hostPush k msg).tbl = s.tbl := rfl
@[simp] theorem State.hostPush_ctxs (k : Nat) (msg : HostMsg) : (s.hostPush k msg).ctxs = s.ctxs := rfl
@[simp] theorem State.hostPush_cmds (k : Nat) (msg : HostMsg) : (s.hostPush k msg).cmds = s.cmds := rfl
@[simp] theorem State.hostPush_sig (k : Nat) (msg : HostMsg) : (s.hostPush k msg).sig = s.sig := rfl
@[simp] theorem State.hostPush_yard (k : Nat) (msg : HostMsg) : (s.hostPush k msg).yard = s.yard := rfl
@[simp] theorem State.hostPush_fab (k : Nat) (msg : HostMsg) : (s.hostPush k msg).fab = s.fab := rfl
@[simp] theorem State.hostPush_hosts (k : Nat) (msg : HostMsg) :
    (s.hostPush k msg).hosts = Tab.set HostFn.reset s.hosts k { s.hostFn k with stream := (s.hostFn k).stream ++ [msg] } := rfl
@[simp] theorem State.hostPush_mbx (k : Nat) (msg : HostMsg) : (s.hostPush k msg).mbx = s.mbx := rfl
@[simp] theorem State.hostPush_pwr (k : Nat) (msg : HostMsg) : (s.hostPush k msg).pwr = s.pwr := rfl

/-! ## `State.setTrc` -/

@[simp] theorem State.setTrc_pending (t : TrcSt) : (s.setTrc t).pending = s.pending := rfl
@[simp] theorem State.setTrc_stepping (t : TrcSt) : (s.setTrc t).stepping = s.stepping := rfl
@[simp] theorem State.setTrc_bus (t : TrcSt) : (s.setTrc t).bus = s.bus := rfl
@[simp] theorem State.setTrc_cfg (t : TrcSt) : (s.setTrc t).cfg = s.cfg := rfl
@[simp] theorem State.setTrc_inv (t : TrcSt) : (s.setTrc t).inv = s.inv := rfl
@[simp] theorem State.setTrc_boot (t : TrcSt) : (s.setTrc t).boot = s.boot := rfl
@[simp] theorem State.setTrc_time (t : TrcSt) : (s.setTrc t).time = s.time := rfl
@[simp] theorem State.setTrc_log (t : TrcSt) : (s.setTrc t).log = s.log := rfl
@[simp] theorem State.setTrc_cnt (t : TrcSt) : (s.setTrc t).cnt = s.cnt := rfl
@[simp] theorem State.setTrc_trc (t : TrcSt) :
    (s.setTrc t).trc = t := rfl
@[simp] theorem State.setTrc_mem (t : TrcSt) : (s.setTrc t).mem = s.mem := rfl
@[simp] theorem State.setTrc_xlt (t : TrcSt) : (s.setTrc t).xlt = s.xlt := rfl
@[simp] theorem State.setTrc_tbl (t : TrcSt) : (s.setTrc t).tbl = s.tbl := rfl
@[simp] theorem State.setTrc_ctxs (t : TrcSt) : (s.setTrc t).ctxs = s.ctxs := rfl
@[simp] theorem State.setTrc_cmds (t : TrcSt) : (s.setTrc t).cmds = s.cmds := rfl
@[simp] theorem State.setTrc_sig (t : TrcSt) : (s.setTrc t).sig = s.sig := rfl
@[simp] theorem State.setTrc_yard (t : TrcSt) : (s.setTrc t).yard = s.yard := rfl
@[simp] theorem State.setTrc_fab (t : TrcSt) : (s.setTrc t).fab = s.fab := rfl
@[simp] theorem State.setTrc_hosts (t : TrcSt) : (s.setTrc t).hosts = s.hosts := rfl
@[simp] theorem State.setTrc_mbx (t : TrcSt) : (s.setTrc t).mbx = s.mbx := rfl
@[simp] theorem State.setTrc_pwr (t : TrcSt) : (s.setTrc t).pwr = s.pwr := rfl

/-! ## `State.setTime` -/

@[simp] theorem State.setTime_pending (t : TimeSt) : (s.setTime t).pending = s.pending := rfl
@[simp] theorem State.setTime_stepping (t : TimeSt) : (s.setTime t).stepping = s.stepping := rfl
@[simp] theorem State.setTime_bus (t : TimeSt) : (s.setTime t).bus = s.bus := rfl
@[simp] theorem State.setTime_cfg (t : TimeSt) : (s.setTime t).cfg = s.cfg := rfl
@[simp] theorem State.setTime_inv (t : TimeSt) : (s.setTime t).inv = s.inv := rfl
@[simp] theorem State.setTime_boot (t : TimeSt) : (s.setTime t).boot = s.boot := rfl
@[simp] theorem State.setTime_time (t : TimeSt) :
    (s.setTime t).time = t := rfl
@[simp] theorem State.setTime_log (t : TimeSt) : (s.setTime t).log = s.log := rfl
@[simp] theorem State.setTime_cnt (t : TimeSt) : (s.setTime t).cnt = s.cnt := rfl
@[simp] theorem State.setTime_trc (t : TimeSt) : (s.setTime t).trc = s.trc := rfl
@[simp] theorem State.setTime_mem (t : TimeSt) : (s.setTime t).mem = s.mem := rfl
@[simp] theorem State.setTime_xlt (t : TimeSt) : (s.setTime t).xlt = s.xlt := rfl
@[simp] theorem State.setTime_tbl (t : TimeSt) : (s.setTime t).tbl = s.tbl := rfl
@[simp] theorem State.setTime_ctxs (t : TimeSt) : (s.setTime t).ctxs = s.ctxs := rfl
@[simp] theorem State.setTime_cmds (t : TimeSt) : (s.setTime t).cmds = s.cmds := rfl
@[simp] theorem State.setTime_sig (t : TimeSt) : (s.setTime t).sig = s.sig := rfl
@[simp] theorem State.setTime_yard (t : TimeSt) : (s.setTime t).yard = s.yard := rfl
@[simp] theorem State.setTime_fab (t : TimeSt) : (s.setTime t).fab = s.fab := rfl
@[simp] theorem State.setTime_hosts (t : TimeSt) : (s.setTime t).hosts = s.hosts := rfl
@[simp] theorem State.setTime_mbx (t : TimeSt) : (s.setTime t).mbx = s.mbx := rfl
@[simp] theorem State.setTime_pwr (t : TimeSt) : (s.setTime t).pwr = s.pwr := rfl

/-! ## `State.setPwr` -/

@[simp] theorem State.setPwr_pending (p : PwrSt) : (s.setPwr p).pending = s.pending := rfl
@[simp] theorem State.setPwr_stepping (p : PwrSt) : (s.setPwr p).stepping = s.stepping := rfl
@[simp] theorem State.setPwr_bus (p : PwrSt) : (s.setPwr p).bus = s.bus := rfl
@[simp] theorem State.setPwr_cfg (p : PwrSt) : (s.setPwr p).cfg = s.cfg := rfl
@[simp] theorem State.setPwr_inv (p : PwrSt) : (s.setPwr p).inv = s.inv := rfl
@[simp] theorem State.setPwr_boot (p : PwrSt) : (s.setPwr p).boot = s.boot := rfl
@[simp] theorem State.setPwr_time (p : PwrSt) : (s.setPwr p).time = s.time := rfl
@[simp] theorem State.setPwr_log (p : PwrSt) : (s.setPwr p).log = s.log := rfl
@[simp] theorem State.setPwr_cnt (p : PwrSt) : (s.setPwr p).cnt = s.cnt := rfl
@[simp] theorem State.setPwr_trc (p : PwrSt) : (s.setPwr p).trc = s.trc := rfl
@[simp] theorem State.setPwr_mem (p : PwrSt) : (s.setPwr p).mem = s.mem := rfl
@[simp] theorem State.setPwr_xlt (p : PwrSt) : (s.setPwr p).xlt = s.xlt := rfl
@[simp] theorem State.setPwr_tbl (p : PwrSt) : (s.setPwr p).tbl = s.tbl := rfl
@[simp] theorem State.setPwr_ctxs (p : PwrSt) : (s.setPwr p).ctxs = s.ctxs := rfl
@[simp] theorem State.setPwr_cmds (p : PwrSt) : (s.setPwr p).cmds = s.cmds := rfl
@[simp] theorem State.setPwr_sig (p : PwrSt) : (s.setPwr p).sig = s.sig := rfl
@[simp] theorem State.setPwr_yard (p : PwrSt) : (s.setPwr p).yard = s.yard := rfl
@[simp] theorem State.setPwr_fab (p : PwrSt) : (s.setPwr p).fab = s.fab := rfl
@[simp] theorem State.setPwr_hosts (p : PwrSt) : (s.setPwr p).hosts = s.hosts := rfl
@[simp] theorem State.setPwr_mbx (p : PwrSt) : (s.setPwr p).mbx = s.mbx := rfl
@[simp] theorem State.setPwr_pwr (p : PwrSt) :
    (s.setPwr p).pwr = p := rfl

/-! ## `State.setBoot` -/

@[simp] theorem State.setBoot_pending (b : BootSt) : (s.setBoot b).pending = s.pending := rfl
@[simp] theorem State.setBoot_stepping (b : BootSt) : (s.setBoot b).stepping = s.stepping := rfl
@[simp] theorem State.setBoot_bus (b : BootSt) : (s.setBoot b).bus = s.bus := rfl
@[simp] theorem State.setBoot_cfg (b : BootSt) : (s.setBoot b).cfg = s.cfg := rfl
@[simp] theorem State.setBoot_inv (b : BootSt) : (s.setBoot b).inv = s.inv := rfl
@[simp] theorem State.setBoot_boot (b : BootSt) :
    (s.setBoot b).boot = b := rfl
@[simp] theorem State.setBoot_time (b : BootSt) : (s.setBoot b).time = s.time := rfl
@[simp] theorem State.setBoot_log (b : BootSt) : (s.setBoot b).log = s.log := rfl
@[simp] theorem State.setBoot_cnt (b : BootSt) : (s.setBoot b).cnt = s.cnt := rfl
@[simp] theorem State.setBoot_trc (b : BootSt) : (s.setBoot b).trc = s.trc := rfl
@[simp] theorem State.setBoot_mem (b : BootSt) : (s.setBoot b).mem = s.mem := rfl
@[simp] theorem State.setBoot_xlt (b : BootSt) : (s.setBoot b).xlt = s.xlt := rfl
@[simp] theorem State.setBoot_tbl (b : BootSt) : (s.setBoot b).tbl = s.tbl := rfl
@[simp] theorem State.setBoot_ctxs (b : BootSt) : (s.setBoot b).ctxs = s.ctxs := rfl
@[simp] theorem State.setBoot_cmds (b : BootSt) : (s.setBoot b).cmds = s.cmds := rfl
@[simp] theorem State.setBoot_sig (b : BootSt) : (s.setBoot b).sig = s.sig := rfl
@[simp] theorem State.setBoot_yard (b : BootSt) : (s.setBoot b).yard = s.yard := rfl
@[simp] theorem State.setBoot_fab (b : BootSt) : (s.setBoot b).fab = s.fab := rfl
@[simp] theorem State.setBoot_hosts (b : BootSt) : (s.setBoot b).hosts = s.hosts := rfl
@[simp] theorem State.setBoot_mbx (b : BootSt) : (s.setBoot b).mbx = s.mbx := rfl
@[simp] theorem State.setBoot_pwr (b : BootSt) : (s.setBoot b).pwr = s.pwr := rfl

/-! ## `State.setChan` -/

@[simp] theorem State.setChan_pending (ch : Nat) (c : Chan) : (s.setChan ch c).pending = s.pending := rfl
@[simp] theorem State.setChan_stepping (ch : Nat) (c : Chan) : (s.setChan ch c).stepping = s.stepping := rfl
@[simp] theorem State.setChan_bus (ch : Nat) (c : Chan) : (s.setChan ch c).bus = s.bus := rfl
@[simp] theorem State.setChan_cfg (ch : Nat) (c : Chan) : (s.setChan ch c).cfg = s.cfg := rfl
@[simp] theorem State.setChan_inv (ch : Nat) (c : Chan) : (s.setChan ch c).inv = s.inv := rfl
@[simp] theorem State.setChan_boot (ch : Nat) (c : Chan) : (s.setChan ch c).boot = s.boot := rfl
@[simp] theorem State.setChan_time (ch : Nat) (c : Chan) : (s.setChan ch c).time = s.time := rfl
@[simp] theorem State.setChan_log (ch : Nat) (c : Chan) : (s.setChan ch c).log = s.log := rfl
@[simp] theorem State.setChan_cnt (ch : Nat) (c : Chan) : (s.setChan ch c).cnt = s.cnt := rfl
@[simp] theorem State.setChan_trc (ch : Nat) (c : Chan) : (s.setChan ch c).trc = s.trc := rfl
@[simp] theorem State.setChan_mem (ch : Nat) (c : Chan) : (s.setChan ch c).mem = s.mem := rfl
@[simp] theorem State.setChan_xlt (ch : Nat) (c : Chan) : (s.setChan ch c).xlt = s.xlt := rfl
@[simp] theorem State.setChan_tbl (ch : Nat) (c : Chan) : (s.setChan ch c).tbl = s.tbl := rfl
@[simp] theorem State.setChan_ctxs (ch : Nat) (c : Chan) : (s.setChan ch c).ctxs = s.ctxs := rfl
@[simp] theorem State.setChan_cmds (ch : Nat) (c : Chan) : (s.setChan ch c).cmds = s.cmds := rfl
@[simp] theorem State.setChan_sig (ch : Nat) (c : Chan) : (s.setChan ch c).sig = s.sig := rfl
@[simp] theorem State.setChan_yard (ch : Nat) (c : Chan) : (s.setChan ch c).yard = s.yard := rfl
@[simp] theorem State.setChan_fab (ch : Nat) (c : Chan) : (s.setChan ch c).fab = s.fab := rfl
@[simp] theorem State.setChan_hosts (ch : Nat) (c : Chan) : (s.setChan ch c).hosts = s.hosts := rfl
@[simp] theorem State.setChan_mbx (ch : Nat) (c : Chan) :
    (s.setChan ch c).mbx = { s.mbx with chans := Tab.set Chan.reset s.mbx.chans ch c } := rfl
@[simp] theorem State.setChan_pwr (ch : Nat) (c : Chan) : (s.setChan ch c).pwr = s.pwr := rfl

/-! ## `State.setTbl` -/

@[simp] theorem State.setTbl_pending (kind slot : Nat) (t : TblSlot) : (s.setTbl kind slot t).pending = s.pending := rfl
@[simp] theorem State.setTbl_stepping (kind slot : Nat) (t : TblSlot) : (s.setTbl kind slot t).stepping = s.stepping := rfl
@[simp] theorem State.setTbl_bus (kind slot : Nat) (t : TblSlot) : (s.setTbl kind slot t).bus = s.bus := rfl
@[simp] theorem State.setTbl_cfg (kind slot : Nat) (t : TblSlot) : (s.setTbl kind slot t).cfg = s.cfg := rfl
@[simp] theorem State.setTbl_inv (kind slot : Nat) (t : TblSlot) : (s.setTbl kind slot t).inv = s.inv := rfl
@[simp] theorem State.setTbl_boot (kind slot : Nat) (t : TblSlot) : (s.setTbl kind slot t).boot = s.boot := rfl
@[simp] theorem State.setTbl_time (kind slot : Nat) (t : TblSlot) : (s.setTbl kind slot t).time = s.time := rfl
@[simp] theorem State.setTbl_log (kind slot : Nat) (t : TblSlot) : (s.setTbl kind slot t).log = s.log := rfl
@[simp] theorem State.setTbl_cnt (kind slot : Nat) (t : TblSlot) : (s.setTbl kind slot t).cnt = s.cnt := rfl
@[simp] theorem State.setTbl_trc (kind slot : Nat) (t : TblSlot) : (s.setTbl kind slot t).trc = s.trc := rfl
@[simp] theorem State.setTbl_mem (kind slot : Nat) (t : TblSlot) : (s.setTbl kind slot t).mem = s.mem := rfl
@[simp] theorem State.setTbl_xlt (kind slot : Nat) (t : TblSlot) : (s.setTbl kind slot t).xlt = s.xlt := rfl
@[simp] theorem State.setTbl_tbl (kind slot : Nat) (t : TblSlot) :
    (s.setTbl kind slot t).tbl = { s.tbl with slots := Tab.set TblSlot.unbound s.tbl.slots (tblKey kind slot) t } := rfl
@[simp] theorem State.setTbl_ctxs (kind slot : Nat) (t : TblSlot) : (s.setTbl kind slot t).ctxs = s.ctxs := rfl
@[simp] theorem State.setTbl_cmds (kind slot : Nat) (t : TblSlot) : (s.setTbl kind slot t).cmds = s.cmds := rfl
@[simp] theorem State.setTbl_sig (kind slot : Nat) (t : TblSlot) : (s.setTbl kind slot t).sig = s.sig := rfl
@[simp] theorem State.setTbl_yard (kind slot : Nat) (t : TblSlot) : (s.setTbl kind slot t).yard = s.yard := rfl
@[simp] theorem State.setTbl_fab (kind slot : Nat) (t : TblSlot) : (s.setTbl kind slot t).fab = s.fab := rfl
@[simp] theorem State.setTbl_hosts (kind slot : Nat) (t : TblSlot) : (s.setTbl kind slot t).hosts = s.hosts := rfl
@[simp] theorem State.setTbl_mbx (kind slot : Nat) (t : TblSlot) : (s.setTbl kind slot t).mbx = s.mbx := rfl
@[simp] theorem State.setTbl_pwr (kind slot : Nat) (t : TblSlot) : (s.setTbl kind slot t).pwr = s.pwr := rfl

/-! ## `State.setTblRegs` -/

@[simp] theorem State.setTblRegs_pending (mst : Master) (r : TblRegs) : (s.setTblRegs mst r).pending = s.pending := rfl
@[simp] theorem State.setTblRegs_stepping (mst : Master) (r : TblRegs) : (s.setTblRegs mst r).stepping = s.stepping := rfl
@[simp] theorem State.setTblRegs_bus (mst : Master) (r : TblRegs) : (s.setTblRegs mst r).bus = s.bus := rfl
@[simp] theorem State.setTblRegs_cfg (mst : Master) (r : TblRegs) : (s.setTblRegs mst r).cfg = s.cfg := rfl
@[simp] theorem State.setTblRegs_inv (mst : Master) (r : TblRegs) : (s.setTblRegs mst r).inv = s.inv := rfl
@[simp] theorem State.setTblRegs_boot (mst : Master) (r : TblRegs) : (s.setTblRegs mst r).boot = s.boot := rfl
@[simp] theorem State.setTblRegs_time (mst : Master) (r : TblRegs) : (s.setTblRegs mst r).time = s.time := rfl
@[simp] theorem State.setTblRegs_log (mst : Master) (r : TblRegs) : (s.setTblRegs mst r).log = s.log := rfl
@[simp] theorem State.setTblRegs_cnt (mst : Master) (r : TblRegs) : (s.setTblRegs mst r).cnt = s.cnt := rfl
@[simp] theorem State.setTblRegs_trc (mst : Master) (r : TblRegs) : (s.setTblRegs mst r).trc = s.trc := rfl
@[simp] theorem State.setTblRegs_mem (mst : Master) (r : TblRegs) : (s.setTblRegs mst r).mem = s.mem := rfl
@[simp] theorem State.setTblRegs_xlt (mst : Master) (r : TblRegs) : (s.setTblRegs mst r).xlt = s.xlt := rfl
@[simp] theorem State.setTblRegs_tbl (mst : Master) (r : TblRegs) :
    (s.setTblRegs mst r).tbl = { s.tbl with regs := Tab.set TblRegs.zero s.tbl.regs mst.code r } := rfl
@[simp] theorem State.setTblRegs_ctxs (mst : Master) (r : TblRegs) : (s.setTblRegs mst r).ctxs = s.ctxs := rfl
@[simp] theorem State.setTblRegs_cmds (mst : Master) (r : TblRegs) : (s.setTblRegs mst r).cmds = s.cmds := rfl
@[simp] theorem State.setTblRegs_sig (mst : Master) (r : TblRegs) : (s.setTblRegs mst r).sig = s.sig := rfl
@[simp] theorem State.setTblRegs_yard (mst : Master) (r : TblRegs) : (s.setTblRegs mst r).yard = s.yard := rfl
@[simp] theorem State.setTblRegs_fab (mst : Master) (r : TblRegs) : (s.setTblRegs mst r).fab = s.fab := rfl
@[simp] theorem State.setTblRegs_hosts (mst : Master) (r : TblRegs) : (s.setTblRegs mst r).hosts = s.hosts := rfl
@[simp] theorem State.setTblRegs_mbx (mst : Master) (r : TblRegs) : (s.setTblRegs mst r).mbx = s.mbx := rfl
@[simp] theorem State.setTblRegs_pwr (mst : Master) (r : TblRegs) : (s.setTblRegs mst r).pwr = s.pwr := rfl

/-! ## `State.setInval` -/

@[simp] theorem State.setInval_pending (mst : Master) (i : Option Inval) : (s.setInval mst i).pending = s.pending := rfl
@[simp] theorem State.setInval_stepping (mst : Master) (i : Option Inval) : (s.setInval mst i).stepping = s.stepping := rfl
@[simp] theorem State.setInval_bus (mst : Master) (i : Option Inval) : (s.setInval mst i).bus = s.bus := rfl
@[simp] theorem State.setInval_cfg (mst : Master) (i : Option Inval) : (s.setInval mst i).cfg = s.cfg := rfl
@[simp] theorem State.setInval_inv (mst : Master) (i : Option Inval) : (s.setInval mst i).inv = s.inv := rfl
@[simp] theorem State.setInval_boot (mst : Master) (i : Option Inval) : (s.setInval mst i).boot = s.boot := rfl
@[simp] theorem State.setInval_time (mst : Master) (i : Option Inval) : (s.setInval mst i).time = s.time := rfl
@[simp] theorem State.setInval_log (mst : Master) (i : Option Inval) : (s.setInval mst i).log = s.log := rfl
@[simp] theorem State.setInval_cnt (mst : Master) (i : Option Inval) : (s.setInval mst i).cnt = s.cnt := rfl
@[simp] theorem State.setInval_trc (mst : Master) (i : Option Inval) : (s.setInval mst i).trc = s.trc := rfl
@[simp] theorem State.setInval_mem (mst : Master) (i : Option Inval) : (s.setInval mst i).mem = s.mem := rfl
@[simp] theorem State.setInval_xlt (mst : Master) (i : Option Inval) :
    (s.setInval mst i).xlt = { s.xlt with inval := Tab.set none s.xlt.inval mst.code i } := rfl
@[simp] theorem State.setInval_tbl (mst : Master) (i : Option Inval) : (s.setInval mst i).tbl = s.tbl := rfl
@[simp] theorem State.setInval_ctxs (mst : Master) (i : Option Inval) : (s.setInval mst i).ctxs = s.ctxs := rfl
@[simp] theorem State.setInval_cmds (mst : Master) (i : Option Inval) : (s.setInval mst i).cmds = s.cmds := rfl
@[simp] theorem State.setInval_sig (mst : Master) (i : Option Inval) : (s.setInval mst i).sig = s.sig := rfl
@[simp] theorem State.setInval_yard (mst : Master) (i : Option Inval) : (s.setInval mst i).yard = s.yard := rfl
@[simp] theorem State.setInval_fab (mst : Master) (i : Option Inval) : (s.setInval mst i).fab = s.fab := rfl
@[simp] theorem State.setInval_hosts (mst : Master) (i : Option Inval) : (s.setInval mst i).hosts = s.hosts := rfl
@[simp] theorem State.setInval_mbx (mst : Master) (i : Option Inval) : (s.setInval mst i).mbx = s.mbx := rfl
@[simp] theorem State.setInval_pwr (mst : Master) (i : Option Inval) : (s.setInval mst i).pwr = s.pwr := rfl

/-! ## `State.clearBus` -/

@[simp] theorem State.clearBus_pending (mst : Master) : (s.clearBus mst).pending = s.pending := rfl
@[simp] theorem State.clearBus_stepping (mst : Master) : (s.clearBus mst).stepping = s.stepping := rfl
@[simp] theorem State.clearBus_bus (mst : Master) :
    (s.clearBus mst).bus = { s.bus with readLatch := Tab.set none s.bus.readLatch mst.code none, writeHold := Tab.set none s.bus.writeHold mst.code none } := rfl
@[simp] theorem State.clearBus_cfg (mst : Master) : (s.clearBus mst).cfg = s.cfg := rfl
@[simp] theorem State.clearBus_inv (mst : Master) : (s.clearBus mst).inv = s.inv := rfl
@[simp] theorem State.clearBus_boot (mst : Master) : (s.clearBus mst).boot = s.boot := rfl
@[simp] theorem State.clearBus_time (mst : Master) : (s.clearBus mst).time = s.time := rfl
@[simp] theorem State.clearBus_log (mst : Master) : (s.clearBus mst).log = s.log := rfl
@[simp] theorem State.clearBus_cnt (mst : Master) : (s.clearBus mst).cnt = s.cnt := rfl
@[simp] theorem State.clearBus_trc (mst : Master) : (s.clearBus mst).trc = s.trc := rfl
@[simp] theorem State.clearBus_mem (mst : Master) : (s.clearBus mst).mem = s.mem := rfl
@[simp] theorem State.clearBus_xlt (mst : Master) : (s.clearBus mst).xlt = s.xlt := rfl
@[simp] theorem State.clearBus_tbl (mst : Master) : (s.clearBus mst).tbl = s.tbl := rfl
@[simp] theorem State.clearBus_ctxs (mst : Master) : (s.clearBus mst).ctxs = s.ctxs := rfl
@[simp] theorem State.clearBus_cmds (mst : Master) : (s.clearBus mst).cmds = s.cmds := rfl
@[simp] theorem State.clearBus_sig (mst : Master) : (s.clearBus mst).sig = s.sig := rfl
@[simp] theorem State.clearBus_yard (mst : Master) : (s.clearBus mst).yard = s.yard := rfl
@[simp] theorem State.clearBus_fab (mst : Master) : (s.clearBus mst).fab = s.fab := rfl
@[simp] theorem State.clearBus_hosts (mst : Master) : (s.clearBus mst).hosts = s.hosts := rfl
@[simp] theorem State.clearBus_mbx (mst : Master) : (s.clearBus mst).mbx = s.mbx := rfl
@[simp] theorem State.clearBus_pwr (mst : Master) : (s.clearBus mst).pwr = s.pwr := rfl

/-! ## `State.answer` -/

@[simp] theorem State.answer_pending (v : Nat) : (s.answer v).pending = s.pending := rfl
@[simp] theorem State.answer_stepping (v : Nat) : (s.answer v).stepping = s.stepping := rfl
@[simp] theorem State.answer_bus (v : Nat) :
    (s.answer v).bus = { s.bus with resp := BitVec.ofNat 64 v } := rfl
@[simp] theorem State.answer_cfg (v : Nat) : (s.answer v).cfg = s.cfg := rfl
@[simp] theorem State.answer_inv (v : Nat) : (s.answer v).inv = s.inv := rfl
@[simp] theorem State.answer_boot (v : Nat) : (s.answer v).boot = s.boot := rfl
@[simp] theorem State.answer_time (v : Nat) : (s.answer v).time = s.time := rfl
@[simp] theorem State.answer_log (v : Nat) : (s.answer v).log = s.log := rfl
@[simp] theorem State.answer_cnt (v : Nat) : (s.answer v).cnt = s.cnt := rfl
@[simp] theorem State.answer_trc (v : Nat) : (s.answer v).trc = s.trc := rfl
@[simp] theorem State.answer_mem (v : Nat) : (s.answer v).mem = s.mem := rfl
@[simp] theorem State.answer_xlt (v : Nat) : (s.answer v).xlt = s.xlt := rfl
@[simp] theorem State.answer_tbl (v : Nat) : (s.answer v).tbl = s.tbl := rfl
@[simp] theorem State.answer_ctxs (v : Nat) : (s.answer v).ctxs = s.ctxs := rfl
@[simp] theorem State.answer_cmds (v : Nat) : (s.answer v).cmds = s.cmds := rfl
@[simp] theorem State.answer_sig (v : Nat) : (s.answer v).sig = s.sig := rfl
@[simp] theorem State.answer_yard (v : Nat) : (s.answer v).yard = s.yard := rfl
@[simp] theorem State.answer_fab (v : Nat) : (s.answer v).fab = s.fab := rfl
@[simp] theorem State.answer_hosts (v : Nat) : (s.answer v).hosts = s.hosts := rfl
@[simp] theorem State.answer_mbx (v : Nat) : (s.answer v).mbx = s.mbx := rfl
@[simp] theorem State.answer_pwr (v : Nat) : (s.answer v).pwr = s.pwr := rfl

/-! ## `State.setLatch` -/

@[simp] theorem State.setLatch_pending (mst : Master) (l : Latch) : (s.setLatch mst l).pending = s.pending := rfl
@[simp] theorem State.setLatch_stepping (mst : Master) (l : Latch) : (s.setLatch mst l).stepping = s.stepping := rfl
@[simp] theorem State.setLatch_bus (mst : Master) (l : Latch) :
    (s.setLatch mst l).bus = { s.bus with readLatch := Tab.set none s.bus.readLatch mst.code (some l) } := rfl
@[simp] theorem State.setLatch_cfg (mst : Master) (l : Latch) : (s.setLatch mst l).cfg = s.cfg := rfl
@[simp] theorem State.setLatch_inv (mst : Master) (l : Latch) : (s.setLatch mst l).inv = s.inv := rfl
@[simp] theorem State.setLatch_boot (mst : Master) (l : Latch) : (s.setLatch mst l).boot = s.boot := rfl
@[simp] theorem State.setLatch_time (mst : Master) (l : Latch) : (s.setLatch mst l).time = s.time := rfl
@[simp] theorem State.setLatch_log (mst : Master) (l : Latch) : (s.setLatch mst l).log = s.log := rfl
@[simp] theorem State.setLatch_cnt (mst : Master) (l : Latch) : (s.setLatch mst l).cnt = s.cnt := rfl
@[simp] theorem State.setLatch_trc (mst : Master) (l : Latch) : (s.setLatch mst l).trc = s.trc := rfl
@[simp] theorem State.setLatch_mem (mst : Master) (l : Latch) : (s.setLatch mst l).mem = s.mem := rfl
@[simp] theorem State.setLatch_xlt (mst : Master) (l : Latch) : (s.setLatch mst l).xlt = s.xlt := rfl
@[simp] theorem State.setLatch_tbl (mst : Master) (l : Latch) : (s.setLatch mst l).tbl = s.tbl := rfl
@[simp] theorem State.setLatch_ctxs (mst : Master) (l : Latch) : (s.setLatch mst l).ctxs = s.ctxs := rfl
@[simp] theorem State.setLatch_cmds (mst : Master) (l : Latch) : (s.setLatch mst l).cmds = s.cmds := rfl
@[simp] theorem State.setLatch_sig (mst : Master) (l : Latch) : (s.setLatch mst l).sig = s.sig := rfl
@[simp] theorem State.setLatch_yard (mst : Master) (l : Latch) : (s.setLatch mst l).yard = s.yard := rfl
@[simp] theorem State.setLatch_fab (mst : Master) (l : Latch) : (s.setLatch mst l).fab = s.fab := rfl
@[simp] theorem State.setLatch_hosts (mst : Master) (l : Latch) : (s.setLatch mst l).hosts = s.hosts := rfl
@[simp] theorem State.setLatch_mbx (mst : Master) (l : Latch) : (s.setLatch mst l).mbx = s.mbx := rfl
@[simp] theorem State.setLatch_pwr (mst : Master) (l : Latch) : (s.setLatch mst l).pwr = s.pwr := rfl

/-! ## `State.setHold` -/

@[simp] theorem State.setHold_pending (mst : Master) (l : Latch) : (s.setHold mst l).pending = s.pending := rfl
@[simp] theorem State.setHold_stepping (mst : Master) (l : Latch) : (s.setHold mst l).stepping = s.stepping := rfl
@[simp] theorem State.setHold_bus (mst : Master) (l : Latch) :
    (s.setHold mst l).bus = { s.bus with writeHold := Tab.set none s.bus.writeHold mst.code (some l) } := rfl
@[simp] theorem State.setHold_cfg (mst : Master) (l : Latch) : (s.setHold mst l).cfg = s.cfg := rfl
@[simp] theorem State.setHold_inv (mst : Master) (l : Latch) : (s.setHold mst l).inv = s.inv := rfl
@[simp] theorem State.setHold_boot (mst : Master) (l : Latch) : (s.setHold mst l).boot = s.boot := rfl
@[simp] theorem State.setHold_time (mst : Master) (l : Latch) : (s.setHold mst l).time = s.time := rfl
@[simp] theorem State.setHold_log (mst : Master) (l : Latch) : (s.setHold mst l).log = s.log := rfl
@[simp] theorem State.setHold_cnt (mst : Master) (l : Latch) : (s.setHold mst l).cnt = s.cnt := rfl
@[simp] theorem State.setHold_trc (mst : Master) (l : Latch) : (s.setHold mst l).trc = s.trc := rfl
@[simp] theorem State.setHold_mem (mst : Master) (l : Latch) : (s.setHold mst l).mem = s.mem := rfl
@[simp] theorem State.setHold_xlt (mst : Master) (l : Latch) : (s.setHold mst l).xlt = s.xlt := rfl
@[simp] theorem State.setHold_tbl (mst : Master) (l : Latch) : (s.setHold mst l).tbl = s.tbl := rfl
@[simp] theorem State.setHold_ctxs (mst : Master) (l : Latch) : (s.setHold mst l).ctxs = s.ctxs := rfl
@[simp] theorem State.setHold_cmds (mst : Master) (l : Latch) : (s.setHold mst l).cmds = s.cmds := rfl
@[simp] theorem State.setHold_sig (mst : Master) (l : Latch) : (s.setHold mst l).sig = s.sig := rfl
@[simp] theorem State.setHold_yard (mst : Master) (l : Latch) : (s.setHold mst l).yard = s.yard := rfl
@[simp] theorem State.setHold_fab (mst : Master) (l : Latch) : (s.setHold mst l).fab = s.fab := rfl
@[simp] theorem State.setHold_hosts (mst : Master) (l : Latch) : (s.setHold mst l).hosts = s.hosts := rfl
@[simp] theorem State.setHold_mbx (mst : Master) (l : Latch) : (s.setHold mst l).mbx = s.mbx := rfl
@[simp] theorem State.setHold_pwr (mst : Master) (l : Latch) : (s.setHold mst l).pwr = s.pwr := rfl

/-! ## `State.bump` -/

@[simp] theorem State.bump_pending (off n : Nat) : (s.bump off n).pending = s.pending := rfl
@[simp] theorem State.bump_stepping (off n : Nat) : (s.bump off n).stepping = s.stepping := rfl
@[simp] theorem State.bump_bus (off n : Nat) : (s.bump off n).bus = s.bus := rfl
@[simp] theorem State.bump_cfg (off n : Nat) : (s.bump off n).cfg = s.cfg := rfl
@[simp] theorem State.bump_inv (off n : Nat) : (s.bump off n).inv = s.inv := rfl
@[simp] theorem State.bump_boot (off n : Nat) : (s.bump off n).boot = s.boot := rfl
@[simp] theorem State.bump_time (off n : Nat) : (s.bump off n).time = s.time := rfl
@[simp] theorem State.bump_log (off n : Nat) : (s.bump off n).log = s.log := rfl
@[simp] theorem State.bump_cnt (off n : Nat) :
    (s.bump off n).cnt = Tab.modify 0 s.cnt off (fun v => v + BitVec.ofNat 64 n) := rfl
@[simp] theorem State.bump_trc (off n : Nat) : (s.bump off n).trc = s.trc := rfl
@[simp] theorem State.bump_mem (off n : Nat) : (s.bump off n).mem = s.mem := rfl
@[simp] theorem State.bump_xlt (off n : Nat) : (s.bump off n).xlt = s.xlt := rfl
@[simp] theorem State.bump_tbl (off n : Nat) : (s.bump off n).tbl = s.tbl := rfl
@[simp] theorem State.bump_ctxs (off n : Nat) : (s.bump off n).ctxs = s.ctxs := rfl
@[simp] theorem State.bump_cmds (off n : Nat) : (s.bump off n).cmds = s.cmds := rfl
@[simp] theorem State.bump_sig (off n : Nat) : (s.bump off n).sig = s.sig := rfl
@[simp] theorem State.bump_yard (off n : Nat) : (s.bump off n).yard = s.yard := rfl
@[simp] theorem State.bump_fab (off n : Nat) : (s.bump off n).fab = s.fab := rfl
@[simp] theorem State.bump_hosts (off n : Nat) : (s.bump off n).hosts = s.hosts := rfl
@[simp] theorem State.bump_mbx (off n : Nat) : (s.bump off n).mbx = s.mbx := rfl
@[simp] theorem State.bump_pwr (off n : Nat) : (s.bump off n).pwr = s.pwr := rfl

/-! ## `State.setLease` -/

@[simp] theorem State.setLease_pending (k : Nat) (l : Option Lease) : (s.setLease k l).pending = s.pending := rfl
@[simp] theorem State.setLease_stepping (k : Nat) (l : Option Lease) : (s.setLease k l).stepping = s.stepping := rfl
@[simp] theorem State.setLease_bus (k : Nat) (l : Option Lease) : (s.setLease k l).bus = s.bus := rfl
@[simp] theorem State.setLease_cfg (k : Nat) (l : Option Lease) : (s.setLease k l).cfg = s.cfg := rfl
@[simp] theorem State.setLease_inv (k : Nat) (l : Option Lease) : (s.setLease k l).inv = s.inv := rfl
@[simp] theorem State.setLease_boot (k : Nat) (l : Option Lease) : (s.setLease k l).boot = s.boot := rfl
@[simp] theorem State.setLease_time (k : Nat) (l : Option Lease) : (s.setLease k l).time = s.time := rfl
@[simp] theorem State.setLease_log (k : Nat) (l : Option Lease) : (s.setLease k l).log = s.log := rfl
@[simp] theorem State.setLease_cnt (k : Nat) (l : Option Lease) : (s.setLease k l).cnt = s.cnt := rfl
@[simp] theorem State.setLease_trc (k : Nat) (l : Option Lease) : (s.setLease k l).trc = s.trc := rfl
@[simp] theorem State.setLease_mem (k : Nat) (l : Option Lease) : (s.setLease k l).mem = s.mem := rfl
@[simp] theorem State.setLease_xlt (k : Nat) (l : Option Lease) : (s.setLease k l).xlt = s.xlt := rfl
@[simp] theorem State.setLease_tbl (k : Nat) (l : Option Lease) : (s.setLease k l).tbl = s.tbl := rfl
@[simp] theorem State.setLease_ctxs (k : Nat) (l : Option Lease) : (s.setLease k l).ctxs = s.ctxs := rfl
@[simp] theorem State.setLease_cmds (k : Nat) (l : Option Lease) : (s.setLease k l).cmds = s.cmds := rfl
@[simp] theorem State.setLease_sig (k : Nat) (l : Option Lease) : (s.setLease k l).sig = s.sig := rfl
@[simp] theorem State.setLease_yard (k : Nat) (l : Option Lease) :
    (s.setLease k l).yard = { s.yard with leases := Tab.set none s.yard.leases k l } := rfl
@[simp] theorem State.setLease_fab (k : Nat) (l : Option Lease) : (s.setLease k l).fab = s.fab := rfl
@[simp] theorem State.setLease_hosts (k : Nat) (l : Option Lease) : (s.setLease k l).hosts = s.hosts := rfl
@[simp] theorem State.setLease_mbx (k : Nat) (l : Option Lease) : (s.setLease k l).mbx = s.mbx := rfl
@[simp] theorem State.setLease_pwr (k : Nat) (l : Option Lease) : (s.setLease k l).pwr = s.pwr := rfl

/-! ## `State.holdBack` -/

@[simp] theorem State.holdBack_pending (i : Instr) : (s.holdBack i).pending = s.pending := rfl
@[simp] theorem State.holdBack_stepping (i : Instr) : (s.holdBack i).stepping = s.stepping := rfl
@[simp] theorem State.holdBack_bus (i : Instr) : (s.holdBack i).bus = s.bus := rfl
@[simp] theorem State.holdBack_cfg (i : Instr) : (s.holdBack i).cfg = s.cfg := rfl
@[simp] theorem State.holdBack_inv (i : Instr) : (s.holdBack i).inv = s.inv := rfl
@[simp] theorem State.holdBack_boot (i : Instr) : (s.holdBack i).boot = s.boot := rfl
@[simp] theorem State.holdBack_time (i : Instr) : (s.holdBack i).time = s.time := rfl
@[simp] theorem State.holdBack_log (i : Instr) : (s.holdBack i).log = s.log := rfl
@[simp] theorem State.holdBack_cnt (i : Instr) : (s.holdBack i).cnt = s.cnt := rfl
@[simp] theorem State.holdBack_mem (i : Instr) : (s.holdBack i).mem = s.mem := rfl
@[simp] theorem State.holdBack_xlt (i : Instr) : (s.holdBack i).xlt = s.xlt := rfl
@[simp] theorem State.holdBack_tbl (i : Instr) : (s.holdBack i).tbl = s.tbl := rfl
@[simp] theorem State.holdBack_ctxs (i : Instr) : (s.holdBack i).ctxs = s.ctxs := rfl
@[simp] theorem State.holdBack_cmds (i : Instr) : (s.holdBack i).cmds = s.cmds := rfl
@[simp] theorem State.holdBack_sig (i : Instr) : (s.holdBack i).sig = s.sig := rfl
@[simp] theorem State.holdBack_yard (i : Instr) : (s.holdBack i).yard = s.yard := rfl
@[simp] theorem State.holdBack_fab (i : Instr) : (s.holdBack i).fab = s.fab := rfl
@[simp] theorem State.holdBack_hosts (i : Instr) : (s.holdBack i).hosts = s.hosts := rfl
@[simp] theorem State.holdBack_mbx (i : Instr) : (s.holdBack i).mbx = s.mbx := rfl
@[simp] theorem State.holdBack_pwr (i : Instr) : (s.holdBack i).pwr = s.pwr := rfl

/-! ## `State.modWagon` -/

@[simp] theorem State.modWagon_pending (w : Nat) (f : Wagon → Wagon) : (s.modWagon w f).pending = s.pending := rfl
@[simp] theorem State.modWagon_stepping (w : Nat) (f : Wagon → Wagon) : (s.modWagon w f).stepping = s.stepping := rfl
@[simp] theorem State.modWagon_bus (w : Nat) (f : Wagon → Wagon) : (s.modWagon w f).bus = s.bus := rfl
@[simp] theorem State.modWagon_cfg (w : Nat) (f : Wagon → Wagon) : (s.modWagon w f).cfg = s.cfg := rfl
@[simp] theorem State.modWagon_inv (w : Nat) (f : Wagon → Wagon) : (s.modWagon w f).inv = s.inv := rfl
@[simp] theorem State.modWagon_boot (w : Nat) (f : Wagon → Wagon) : (s.modWagon w f).boot = s.boot := rfl
@[simp] theorem State.modWagon_time (w : Nat) (f : Wagon → Wagon) : (s.modWagon w f).time = s.time := rfl
@[simp] theorem State.modWagon_log (w : Nat) (f : Wagon → Wagon) : (s.modWagon w f).log = s.log := rfl
@[simp] theorem State.modWagon_cnt (w : Nat) (f : Wagon → Wagon) : (s.modWagon w f).cnt = s.cnt := rfl
@[simp] theorem State.modWagon_trc (w : Nat) (f : Wagon → Wagon) : (s.modWagon w f).trc = s.trc := rfl
@[simp] theorem State.modWagon_mem (w : Nat) (f : Wagon → Wagon) : (s.modWagon w f).mem = s.mem := rfl
@[simp] theorem State.modWagon_xlt (w : Nat) (f : Wagon → Wagon) : (s.modWagon w f).xlt = s.xlt := rfl
@[simp] theorem State.modWagon_tbl (w : Nat) (f : Wagon → Wagon) : (s.modWagon w f).tbl = s.tbl := rfl
@[simp] theorem State.modWagon_ctxs (w : Nat) (f : Wagon → Wagon) : (s.modWagon w f).ctxs = s.ctxs := rfl
@[simp] theorem State.modWagon_sig (w : Nat) (f : Wagon → Wagon) : (s.modWagon w f).sig = s.sig := rfl
@[simp] theorem State.modWagon_yard (w : Nat) (f : Wagon → Wagon) : (s.modWagon w f).yard = s.yard := rfl
@[simp] theorem State.modWagon_fab (w : Nat) (f : Wagon → Wagon) : (s.modWagon w f).fab = s.fab := rfl
@[simp] theorem State.modWagon_hosts (w : Nat) (f : Wagon → Wagon) : (s.modWagon w f).hosts = s.hosts := rfl
@[simp] theorem State.modWagon_mbx (w : Nat) (f : Wagon → Wagon) : (s.modWagon w f).mbx = s.mbx := rfl
@[simp] theorem State.modWagon_pwr (w : Nat) (f : Wagon → Wagon) : (s.modWagon w f).pwr = s.pwr := rfl

/-! ## `State.dropWagon` -/

@[simp] theorem State.dropWagon_pending (w : Nat) : (s.dropWagon w).pending = s.pending := rfl
@[simp] theorem State.dropWagon_stepping (w : Nat) : (s.dropWagon w).stepping = s.stepping := rfl
@[simp] theorem State.dropWagon_bus (w : Nat) : (s.dropWagon w).bus = s.bus := rfl
@[simp] theorem State.dropWagon_cfg (w : Nat) : (s.dropWagon w).cfg = s.cfg := rfl
@[simp] theorem State.dropWagon_inv (w : Nat) : (s.dropWagon w).inv = s.inv := rfl
@[simp] theorem State.dropWagon_boot (w : Nat) : (s.dropWagon w).boot = s.boot := rfl
@[simp] theorem State.dropWagon_time (w : Nat) : (s.dropWagon w).time = s.time := rfl
@[simp] theorem State.dropWagon_log (w : Nat) : (s.dropWagon w).log = s.log := rfl
@[simp] theorem State.dropWagon_cnt (w : Nat) : (s.dropWagon w).cnt = s.cnt := rfl
@[simp] theorem State.dropWagon_trc (w : Nat) : (s.dropWagon w).trc = s.trc := rfl
@[simp] theorem State.dropWagon_mem (w : Nat) : (s.dropWagon w).mem = s.mem := rfl
@[simp] theorem State.dropWagon_xlt (w : Nat) : (s.dropWagon w).xlt = s.xlt := rfl
@[simp] theorem State.dropWagon_tbl (w : Nat) : (s.dropWagon w).tbl = s.tbl := rfl
@[simp] theorem State.dropWagon_ctxs (w : Nat) : (s.dropWagon w).ctxs = s.ctxs := rfl
@[simp] theorem State.dropWagon_sig (w : Nat) : (s.dropWagon w).sig = s.sig := rfl
@[simp] theorem State.dropWagon_yard (w : Nat) : (s.dropWagon w).yard = s.yard := rfl
@[simp] theorem State.dropWagon_fab (w : Nat) : (s.dropWagon w).fab = s.fab := rfl
@[simp] theorem State.dropWagon_hosts (w : Nat) : (s.dropWagon w).hosts = s.hosts := rfl
@[simp] theorem State.dropWagon_mbx (w : Nat) : (s.dropWagon w).mbx = s.mbx := rfl
@[simp] theorem State.dropWagon_pwr (w : Nat) : (s.dropWagon w).pwr = s.pwr := rfl

/-! ## `State.sideband` -/

@[simp] theorem State.sideband_pending (r : Option (List Byte)) : (s.sideband r).pending = s.pending := rfl
@[simp] theorem State.sideband_stepping (r : Option (List Byte)) : (s.sideband r).stepping = s.stepping := rfl
@[simp] theorem State.sideband_bus (r : Option (List Byte)) : (s.sideband r).bus = s.bus := rfl
@[simp] theorem State.sideband_cfg (r : Option (List Byte)) : (s.sideband r).cfg = s.cfg := rfl
@[simp] theorem State.sideband_inv (r : Option (List Byte)) : (s.sideband r).inv = s.inv := rfl
@[simp] theorem State.sideband_boot (r : Option (List Byte)) : (s.sideband r).boot = s.boot := rfl
@[simp] theorem State.sideband_time (r : Option (List Byte)) : (s.sideband r).time = s.time := rfl
@[simp] theorem State.sideband_log (r : Option (List Byte)) : (s.sideband r).log = s.log := rfl
@[simp] theorem State.sideband_cnt (r : Option (List Byte)) : (s.sideband r).cnt = s.cnt := rfl
@[simp] theorem State.sideband_trc (r : Option (List Byte)) : (s.sideband r).trc = s.trc := rfl
@[simp] theorem State.sideband_mem (r : Option (List Byte)) : (s.sideband r).mem = s.mem := rfl
@[simp] theorem State.sideband_xlt (r : Option (List Byte)) : (s.sideband r).xlt = s.xlt := rfl
@[simp] theorem State.sideband_tbl (r : Option (List Byte)) : (s.sideband r).tbl = s.tbl := rfl
@[simp] theorem State.sideband_ctxs (r : Option (List Byte)) : (s.sideband r).ctxs = s.ctxs := rfl
@[simp] theorem State.sideband_cmds (r : Option (List Byte)) : (s.sideband r).cmds = s.cmds := rfl
@[simp] theorem State.sideband_sig (r : Option (List Byte)) : (s.sideband r).sig = s.sig := rfl
@[simp] theorem State.sideband_yard (r : Option (List Byte)) : (s.sideband r).yard = s.yard := rfl
@[simp] theorem State.sideband_fab (r : Option (List Byte)) : (s.sideband r).fab = s.fab := rfl
@[simp] theorem State.sideband_hosts (r : Option (List Byte)) : (s.sideband r).hosts = s.hosts := rfl
@[simp] theorem State.sideband_mbx (r : Option (List Byte)) : (s.sideband r).mbx = s.mbx := rfl
@[simp] theorem State.sideband_pwr (r : Option (List Byte)) :
    (s.sideband r).pwr = { s.pwr with sbResp := r } := rfl

/-! ## `State.setTj` -/

@[simp] theorem State.setTj_pending (c0 c1 : Nat) : (s.setTj c0 c1).pending = s.pending := rfl
@[simp] theorem State.setTj_stepping (c0 c1 : Nat) : (s.setTj c0 c1).stepping = s.stepping := rfl
@[simp] theorem State.setTj_bus (c0 c1 : Nat) : (s.setTj c0 c1).bus = s.bus := rfl
@[simp] theorem State.setTj_cfg (c0 c1 : Nat) : (s.setTj c0 c1).cfg = s.cfg := rfl
@[simp] theorem State.setTj_inv (c0 c1 : Nat) : (s.setTj c0 c1).inv = s.inv := rfl
@[simp] theorem State.setTj_boot (c0 c1 : Nat) : (s.setTj c0 c1).boot = s.boot := rfl
@[simp] theorem State.setTj_time (c0 c1 : Nat) : (s.setTj c0 c1).time = s.time := rfl
@[simp] theorem State.setTj_log (c0 c1 : Nat) : (s.setTj c0 c1).log = s.log := rfl
@[simp] theorem State.setTj_cnt (c0 c1 : Nat) : (s.setTj c0 c1).cnt = s.cnt := rfl
@[simp] theorem State.setTj_trc (c0 c1 : Nat) : (s.setTj c0 c1).trc = s.trc := rfl
@[simp] theorem State.setTj_mem (c0 c1 : Nat) : (s.setTj c0 c1).mem = s.mem := rfl
@[simp] theorem State.setTj_xlt (c0 c1 : Nat) : (s.setTj c0 c1).xlt = s.xlt := rfl
@[simp] theorem State.setTj_tbl (c0 c1 : Nat) : (s.setTj c0 c1).tbl = s.tbl := rfl
@[simp] theorem State.setTj_ctxs (c0 c1 : Nat) : (s.setTj c0 c1).ctxs = s.ctxs := rfl
@[simp] theorem State.setTj_cmds (c0 c1 : Nat) : (s.setTj c0 c1).cmds = s.cmds := rfl
@[simp] theorem State.setTj_sig (c0 c1 : Nat) : (s.setTj c0 c1).sig = s.sig := rfl
@[simp] theorem State.setTj_yard (c0 c1 : Nat) : (s.setTj c0 c1).yard = s.yard := rfl
@[simp] theorem State.setTj_fab (c0 c1 : Nat) : (s.setTj c0 c1).fab = s.fab := rfl
@[simp] theorem State.setTj_hosts (c0 c1 : Nat) : (s.setTj c0 c1).hosts = s.hosts := rfl
@[simp] theorem State.setTj_mbx (c0 c1 : Nat) : (s.setTj c0 c1).mbx = s.mbx := rfl
@[simp] theorem State.setTj_pwr (c0 c1 : Nat) :
    (s.setTj c0 c1).pwr = { s.pwr with tjC0 := c0, tjC1 := c1 } := rfl

/-! ## `State.setEcc` -/

@[simp] theorem State.setEcc_pending (l : Loc) (e : EccEvent) : (s.setEcc l e).pending = s.pending := rfl
@[simp] theorem State.setEcc_stepping (l : Loc) (e : EccEvent) : (s.setEcc l e).stepping = s.stepping := rfl
@[simp] theorem State.setEcc_bus (l : Loc) (e : EccEvent) : (s.setEcc l e).bus = s.bus := rfl
@[simp] theorem State.setEcc_cfg (l : Loc) (e : EccEvent) : (s.setEcc l e).cfg = s.cfg := rfl
@[simp] theorem State.setEcc_inv (l : Loc) (e : EccEvent) : (s.setEcc l e).inv = s.inv := rfl
@[simp] theorem State.setEcc_boot (l : Loc) (e : EccEvent) : (s.setEcc l e).boot = s.boot := rfl
@[simp] theorem State.setEcc_time (l : Loc) (e : EccEvent) : (s.setEcc l e).time = s.time := rfl
@[simp] theorem State.setEcc_log (l : Loc) (e : EccEvent) : (s.setEcc l e).log = s.log := rfl
@[simp] theorem State.setEcc_cnt (l : Loc) (e : EccEvent) : (s.setEcc l e).cnt = s.cnt := rfl
@[simp] theorem State.setEcc_trc (l : Loc) (e : EccEvent) : (s.setEcc l e).trc = s.trc := rfl
@[simp] theorem State.setEcc_xlt (l : Loc) (e : EccEvent) : (s.setEcc l e).xlt = s.xlt := rfl
@[simp] theorem State.setEcc_tbl (l : Loc) (e : EccEvent) : (s.setEcc l e).tbl = s.tbl := rfl
@[simp] theorem State.setEcc_ctxs (l : Loc) (e : EccEvent) : (s.setEcc l e).ctxs = s.ctxs := rfl
@[simp] theorem State.setEcc_cmds (l : Loc) (e : EccEvent) : (s.setEcc l e).cmds = s.cmds := rfl
@[simp] theorem State.setEcc_sig (l : Loc) (e : EccEvent) : (s.setEcc l e).sig = s.sig := rfl
@[simp] theorem State.setEcc_yard (l : Loc) (e : EccEvent) : (s.setEcc l e).yard = s.yard := rfl
@[simp] theorem State.setEcc_fab (l : Loc) (e : EccEvent) : (s.setEcc l e).fab = s.fab := rfl
@[simp] theorem State.setEcc_hosts (l : Loc) (e : EccEvent) : (s.setEcc l e).hosts = s.hosts := rfl
@[simp] theorem State.setEcc_mbx (l : Loc) (e : EccEvent) : (s.setEcc l e).mbx = s.mbx := rfl
@[simp] theorem State.setEcc_pwr (l : Loc) (e : EccEvent) : (s.setEcc l e).pwr = s.pwr := rfl

/-! ## `State.setHist` -/

@[simp] theorem State.setHist_pending (pa : Nat) (h : EccHist) : (s.setHist pa h).pending = s.pending := rfl
@[simp] theorem State.setHist_stepping (pa : Nat) (h : EccHist) : (s.setHist pa h).stepping = s.stepping := rfl
@[simp] theorem State.setHist_bus (pa : Nat) (h : EccHist) : (s.setHist pa h).bus = s.bus := rfl
@[simp] theorem State.setHist_cfg (pa : Nat) (h : EccHist) : (s.setHist pa h).cfg = s.cfg := rfl
@[simp] theorem State.setHist_inv (pa : Nat) (h : EccHist) : (s.setHist pa h).inv = s.inv := rfl
@[simp] theorem State.setHist_boot (pa : Nat) (h : EccHist) : (s.setHist pa h).boot = s.boot := rfl
@[simp] theorem State.setHist_time (pa : Nat) (h : EccHist) : (s.setHist pa h).time = s.time := rfl
@[simp] theorem State.setHist_log (pa : Nat) (h : EccHist) : (s.setHist pa h).log = s.log := rfl
@[simp] theorem State.setHist_cnt (pa : Nat) (h : EccHist) : (s.setHist pa h).cnt = s.cnt := rfl
@[simp] theorem State.setHist_trc (pa : Nat) (h : EccHist) : (s.setHist pa h).trc = s.trc := rfl
@[simp] theorem State.setHist_xlt (pa : Nat) (h : EccHist) : (s.setHist pa h).xlt = s.xlt := rfl
@[simp] theorem State.setHist_tbl (pa : Nat) (h : EccHist) : (s.setHist pa h).tbl = s.tbl := rfl
@[simp] theorem State.setHist_ctxs (pa : Nat) (h : EccHist) : (s.setHist pa h).ctxs = s.ctxs := rfl
@[simp] theorem State.setHist_cmds (pa : Nat) (h : EccHist) : (s.setHist pa h).cmds = s.cmds := rfl
@[simp] theorem State.setHist_sig (pa : Nat) (h : EccHist) : (s.setHist pa h).sig = s.sig := rfl
@[simp] theorem State.setHist_yard (pa : Nat) (h : EccHist) : (s.setHist pa h).yard = s.yard := rfl
@[simp] theorem State.setHist_fab (pa : Nat) (h : EccHist) : (s.setHist pa h).fab = s.fab := rfl
@[simp] theorem State.setHist_hosts (pa : Nat) (h : EccHist) : (s.setHist pa h).hosts = s.hosts := rfl
@[simp] theorem State.setHist_mbx (pa : Nat) (h : EccHist) : (s.setHist pa h).mbx = s.mbx := rfl
@[simp] theorem State.setHist_pwr (pa : Nat) (h : EccHist) : (s.setHist pa h).pwr = s.pwr := rfl

end Sys2Proof.Machine
end

