-- ==== Sys2Proof/Laws/Log.lean ====
section
/-!
SUPPORT. The frames of the shared operations of observation: tracing, interrupt messages, the error log, and those of a
command slot.
-/
namespace Sys2Proof.Machine

variable (s : State)

/-! ## `State.trace` -/

@[simp] theorem State.trace_pending (x : Bool) (r : TrcRec) : (s.trace x r).pending = s.pending := by
  simp only [State.trace, State.traceAs]; split <;> rfl
@[simp] theorem State.trace_stepping (x : Bool) (r : TrcRec) : (s.trace x r).stepping = s.stepping := by
  simp only [State.trace, State.traceAs]; split <;> rfl
@[simp] theorem State.trace_bus (x : Bool) (r : TrcRec) : (s.trace x r).bus = s.bus := by
  simp only [State.trace, State.traceAs]; split <;> rfl
@[simp] theorem State.trace_cfg (x : Bool) (r : TrcRec) : (s.trace x r).cfg = s.cfg := by
  simp only [State.trace, State.traceAs]; split <;> rfl
@[simp] theorem State.trace_inv (x : Bool) (r : TrcRec) : (s.trace x r).inv = s.inv := by
  simp only [State.trace, State.traceAs]; split <;> rfl
@[simp] theorem State.trace_boot (x : Bool) (r : TrcRec) : (s.trace x r).boot = s.boot := by
  simp only [State.trace, State.traceAs]; split <;> rfl
@[simp] theorem State.trace_time (x : Bool) (r : TrcRec) : (s.trace x r).time = s.time := by
  simp only [State.trace, State.traceAs]; split <;> rfl
@[simp] theorem State.trace_log (x : Bool) (r : TrcRec) : (s.trace x r).log = s.log := by
  simp only [State.trace, State.traceAs]; split <;> rfl
@[simp] theorem State.trace_cnt (x : Bool) (r : TrcRec) : (s.trace x r).cnt = s.cnt := by
  simp only [State.trace, State.traceAs]; split <;> rfl
@[simp] theorem State.trace_mem (x : Bool) (r : TrcRec) : (s.trace x r).mem = s.mem := by
  simp only [State.trace, State.traceAs]; split <;> rfl
@[simp] theorem State.trace_xlt (x : Bool) (r : TrcRec) : (s.trace x r).xlt = s.xlt := by
  simp only [State.trace, State.traceAs]; split <;> rfl
@[simp] theorem State.trace_tbl (x : Bool) (r : TrcRec) : (s.trace x r).tbl = s.tbl := by
  simp only [State.trace, State.traceAs]; split <;> rfl
@[simp] theorem State.trace_ctxs (x : Bool) (r : TrcRec) : (s.trace x r).ctxs = s.ctxs := by
  simp only [State.trace, State.traceAs]; split <;> rfl
@[simp] theorem State.trace_cmds (x : Bool) (r : TrcRec) : (s.trace x r).cmds = s.cmds := by
  simp only [State.trace, State.traceAs]; split <;> rfl
@[simp] theorem State.trace_sig (x : Bool) (r : TrcRec) : (s.trace x r).sig = s.sig := by
  simp only [State.trace, State.traceAs]; split <;> rfl
@[simp] theorem State.trace_yard (x : Bool) (r : TrcRec) : (s.trace x r).yard = s.yard := by
  simp only [State.trace, State.traceAs]; split <;> rfl
@[simp] theorem State.trace_fab (x : Bool) (r : TrcRec) : (s.trace x r).fab = s.fab := by
  simp only [State.trace, State.traceAs]; split <;> rfl
@[simp] theorem State.trace_hosts (x : Bool) (r : TrcRec) : (s.trace x r).hosts = s.hosts := by
  simp only [State.trace, State.traceAs]; split <;> rfl
@[simp] theorem State.trace_mbx (x : Bool) (r : TrcRec) : (s.trace x r).mbx = s.mbx := by
  simp only [State.trace, State.traceAs]; split <;> rfl
@[simp] theorem State.trace_pwr (x : Bool) (r : TrcRec) : (s.trace x r).pwr = s.pwr := by
  simp only [State.trace, State.traceAs]; split <;> rfl

/-! ## `State.msix` -/

@[simp] theorem State.msix_pending (k v : Nat) : (s.msix k v).pending = s.pending := by
  simp only [State.msix]; split <;> rfl
@[simp] theorem State.msix_stepping (k v : Nat) : (s.msix k v).stepping = s.stepping := by
  simp only [State.msix]; split <;> rfl
@[simp] theorem State.msix_bus (k v : Nat) : (s.msix k v).bus = s.bus := by
  simp only [State.msix]; split <;> rfl
@[simp] theorem State.msix_cfg (k v : Nat) : (s.msix k v).cfg = s.cfg := by
  simp only [State.msix]; split <;> rfl
@[simp] theorem State.msix_inv (k v : Nat) : (s.msix k v).inv = s.inv := by
  simp only [State.msix]; split <;> rfl
@[simp] theorem State.msix_boot (k v : Nat) : (s.msix k v).boot = s.boot := by
  simp only [State.msix]; split <;> rfl
@[simp] theorem State.msix_time (k v : Nat) : (s.msix k v).time = s.time := by
  simp only [State.msix]; split <;> rfl
@[simp] theorem State.msix_log (k v : Nat) : (s.msix k v).log = s.log := by
  simp only [State.msix]; split <;> rfl
@[simp] theorem State.msix_cnt (k v : Nat) : (s.msix k v).cnt = s.cnt := by
  simp only [State.msix]; split <;> rfl
@[simp] theorem State.msix_trc (k v : Nat) : (s.msix k v).trc = s.trc := by
  simp only [State.msix]; split <;> rfl
@[simp] theorem State.msix_mem (k v : Nat) : (s.msix k v).mem = s.mem := by
  simp only [State.msix]; split <;> rfl
@[simp] theorem State.msix_xlt (k v : Nat) : (s.msix k v).xlt = s.xlt := by
  simp only [State.msix]; split <;> rfl
@[simp] theorem State.msix_tbl (k v : Nat) : (s.msix k v).tbl = s.tbl := by
  simp only [State.msix]; split <;> rfl
@[simp] theorem State.msix_ctxs (k v : Nat) : (s.msix k v).ctxs = s.ctxs := by
  simp only [State.msix]; split <;> rfl
@[simp] theorem State.msix_cmds (k v : Nat) : (s.msix k v).cmds = s.cmds := by
  simp only [State.msix]; split <;> rfl
@[simp] theorem State.msix_sig (k v : Nat) : (s.msix k v).sig = s.sig := by
  simp only [State.msix]; split <;> rfl
@[simp] theorem State.msix_yard (k v : Nat) : (s.msix k v).yard = s.yard := by
  simp only [State.msix]; split <;> rfl
@[simp] theorem State.msix_fab (k v : Nat) : (s.msix k v).fab = s.fab := by
  simp only [State.msix]; split <;> rfl
@[simp] theorem State.msix_mbx (k v : Nat) : (s.msix k v).mbx = s.mbx := by
  simp only [State.msix]; split <;> rfl
@[simp] theorem State.msix_pwr (k v : Nat) : (s.msix k v).pwr = s.pwr := by
  simp only [State.msix]; split <;> rfl

/-! ## `State.errorVectors` -/

@[simp] theorem State.errorVectors_pending (h o : Nat) : (s.errorVectors h o).pending = s.pending := by
  simp only [State.errorVectors]; split <;> split <;> simp
@[simp] theorem State.errorVectors_stepping (h o : Nat) : (s.errorVectors h o).stepping = s.stepping := by
  simp only [State.errorVectors]; split <;> split <;> simp
@[simp] theorem State.errorVectors_bus (h o : Nat) : (s.errorVectors h o).bus = s.bus := by
  simp only [State.errorVectors]; split <;> split <;> simp
@[simp] theorem State.errorVectors_cfg (h o : Nat) : (s.errorVectors h o).cfg = s.cfg := by
  simp only [State.errorVectors]; split <;> split <;> simp
@[simp] theorem State.errorVectors_inv (h o : Nat) : (s.errorVectors h o).inv = s.inv := by
  simp only [State.errorVectors]; split <;> split <;> simp
@[simp] theorem State.errorVectors_boot (h o : Nat) : (s.errorVectors h o).boot = s.boot := by
  simp only [State.errorVectors]; split <;> split <;> simp
@[simp] theorem State.errorVectors_time (h o : Nat) : (s.errorVectors h o).time = s.time := by
  simp only [State.errorVectors]; split <;> split <;> simp
@[simp] theorem State.errorVectors_log (h o : Nat) : (s.errorVectors h o).log = s.log := by
  simp only [State.errorVectors]; split <;> split <;> simp
@[simp] theorem State.errorVectors_cnt (h o : Nat) : (s.errorVectors h o).cnt = s.cnt := by
  simp only [State.errorVectors]; split <;> split <;> simp
@[simp] theorem State.errorVectors_trc (h o : Nat) : (s.errorVectors h o).trc = s.trc := by
  simp only [State.errorVectors]; split <;> split <;> simp
@[simp] theorem State.errorVectors_mem (h o : Nat) : (s.errorVectors h o).mem = s.mem := by
  simp only [State.errorVectors]; split <;> split <;> simp
@[simp] theorem State.errorVectors_xlt (h o : Nat) : (s.errorVectors h o).xlt = s.xlt := by
  simp only [State.errorVectors]; split <;> split <;> simp
@[simp] theorem State.errorVectors_tbl (h o : Nat) : (s.errorVectors h o).tbl = s.tbl := by
  simp only [State.errorVectors]; split <;> split <;> simp
@[simp] theorem State.errorVectors_ctxs (h o : Nat) : (s.errorVectors h o).ctxs = s.ctxs := by
  simp only [State.errorVectors]; split <;> split <;> simp
@[simp] theorem State.errorVectors_cmds (h o : Nat) : (s.errorVectors h o).cmds = s.cmds := by
  simp only [State.errorVectors]; split <;> split <;> simp
@[simp] theorem State.errorVectors_sig (h o : Nat) : (s.errorVectors h o).sig = s.sig := by
  simp only [State.errorVectors]; split <;> split <;> simp
@[simp] theorem State.errorVectors_yard (h o : Nat) : (s.errorVectors h o).yard = s.yard := by
  simp only [State.errorVectors]; split <;> split <;> simp
@[simp] theorem State.errorVectors_fab (h o : Nat) : (s.errorVectors h o).fab = s.fab := by
  simp only [State.errorVectors]; split <;> split <;> simp
@[simp] theorem State.errorVectors_mbx (h o : Nat) : (s.errorVectors h o).mbx = s.mbx := by
  simp only [State.errorVectors]; split <;> split <;> simp
@[simp] theorem State.errorVectors_pwr (h o : Nat) : (s.errorVectors h o).pwr = s.pwr := by
  simp only [State.errorVectors]; split <;> split <;> simp

/-! ## `State.logNew` -/

@[simp] theorem State.logNew_pending (a : LogArg) : (s.logNew a).1.pending = s.pending := by
  simp [State.logNew]
@[simp] theorem State.logNew_stepping (a : LogArg) : (s.logNew a).1.stepping = s.stepping := by
  simp [State.logNew]
@[simp] theorem State.logNew_bus (a : LogArg) : (s.logNew a).1.bus = s.bus := by
  simp [State.logNew]
@[simp] theorem State.logNew_cfg (a : LogArg) : (s.logNew a).1.cfg = s.cfg := by
  simp [State.logNew]
@[simp] theorem State.logNew_inv (a : LogArg) : (s.logNew a).1.inv = s.inv := by
  simp [State.logNew]
@[simp] theorem State.logNew_boot (a : LogArg) : (s.logNew a).1.boot = s.boot := by
  simp [State.logNew]
@[simp] theorem State.logNew_time (a : LogArg) : (s.logNew a).1.time = s.time := by
  simp [State.logNew]
@[simp] theorem State.logNew_cnt (a : LogArg) : (s.logNew a).1.cnt = s.cnt := by
  simp [State.logNew]
@[simp] theorem State.logNew_mem (a : LogArg) : (s.logNew a).1.mem = s.mem := by
  simp [State.logNew]
@[simp] theorem State.logNew_xlt (a : LogArg) : (s.logNew a).1.xlt = s.xlt := by
  simp [State.logNew]
@[simp] theorem State.logNew_tbl (a : LogArg) : (s.logNew a).1.tbl = s.tbl := by
  simp [State.logNew]
@[simp] theorem State.logNew_ctxs (a : LogArg) : (s.logNew a).1.ctxs = s.ctxs := by
  simp [State.logNew]
@[simp] theorem State.logNew_cmds (a : LogArg) : (s.logNew a).1.cmds = s.cmds := by
  simp [State.logNew]
@[simp] theorem State.logNew_sig (a : LogArg) : (s.logNew a).1.sig = s.sig := by
  simp [State.logNew]
@[simp] theorem State.logNew_yard (a : LogArg) : (s.logNew a).1.yard = s.yard := by
  simp [State.logNew]
@[simp] theorem State.logNew_fab (a : LogArg) : (s.logNew a).1.fab = s.fab := by
  simp [State.logNew]
@[simp] theorem State.logNew_mbx (a : LogArg) : (s.logNew a).1.mbx = s.mbx := by
  simp [State.logNew]
@[simp] theorem State.logNew_pwr (a : LogArg) : (s.logNew a).1.pwr = s.pwr := by
  simp [State.logNew]

/-- What a new entry leaves in the log (R471): it takes the next SEQ, and the oldest of 4,096 goes. -/
theorem State.logNew_log (a : LogArg) : (s.logNew a).1.log = { s.log with
    next := s.log.next + 1
    entries := (if s.log.entries.length < 4096 then s.log.entries else s.log.entries.drop 1)
      ++ [⟨s.log.next, a.status, a.master, a.host, a.unit, s.time.now, a.addr, a.ctx, a.where_, a.index, 0, a.detail⟩] } := by
  simp only [State.logNew, State.trace_log, State.errorVectors_log, List.length_append, List.length_singleton]
  by_cases hl : s.log.entries.length < 4096
  · rw [if_neg (by omega), if_pos hl]
  · rw [if_pos (by omega), if_neg hl, List.drop_append_of_le_length (by omega)]

/-- A new entry touches the host functions by its error vectors alone (R411). -/
theorem State.logNew_hosts (a : LogArg) : (s.logNew a).1.hosts = (s.errorVectors a.host a.owner).hosts := by
  simp [State.logNew, State.errorVectors, State.msix, State.hostPush, State.hostFn]
  repeat' split
  all_goals simp_all [State.setHost]

/-- An event that no entry of the last 1 ms repeats makes an entry (R471). -/
theorem State.logErr_new {a : LogArg} (h : ∀ x ∈ s.log.entries, x.repeats s.time.now a = false) : s.logErr a = (s.logNew a).1 := by
  have hf : (s.log.entries.reverse).find? (fun e => e.repeats s.time.now a && a.status != stEcc) = none := by
    rw [List.find?_eq_none]; intro x hx; simp [h x (by simpa using hx)]
  simp only [State.logErr, State.logSeq, hf]

/-- Which entry a repeat is counted in. -/
theorem raiseRepeat_append {pre post : List ErrEnt} {x : ErrEnt} (h : ∀ y ∈ pre, y.seq ≠ x.seq) :
    raiseRepeat x.seq (pre ++ x :: post) = pre ++ { x with rep := min 65535 (x.rep + 1) } :: post := by
  induction pre with
  | nil => simp [raiseRepeat]
  | cons y t ih =>
    have hy := h y (by simp)
    simp only [List.cons_append, raiseRepeat, if_neg hy]
    rw [ih (fun z hz => h z (by simp [hz]))]

/-- A repeat raises REPEAT of the newest entry that it repeats, and does nothing else (R471). -/
theorem State.logErr_repeat {a : LogArg} {pre post : List ErrEnt} {x : ErrEnt} (he : s.log.entries = pre ++ x :: post)
    (ha : a.status ≠ stEcc) (hx : x.repeats s.time.now a = true) (hpost : ∀ y ∈ post, y.repeats s.time.now a = false)
    (hpre : ∀ y ∈ pre, y.seq ≠ x.seq) :
    s.logErr a = { s with log := { s.log with entries := pre ++ { x with rep := min 65535 (x.rep + 1) } :: post } } := by
  have hf : (s.log.entries.reverse).find? (fun e => e.repeats s.time.now a && a.status != stEcc) = some x := by
    have hn : (post.reverse).find? (fun e => e.repeats s.time.now a && a.status != stEcc) = none := by
      rw [List.find?_eq_none]; intro y hy; simp [hpost y (by simpa using hy)]
    rw [he, List.reverse_append, List.reverse_cons, List.append_assoc, List.find?_append, hn]
    simp [hx, ha]
  simp only [State.logErr, State.logSeq, hf]
  rw [he, raiseRepeat_append hpre]

/-! ## `State.logSeq` -/

@[simp] theorem State.logSeq_pending (a : LogArg) : (s.logSeq a).1.pending = s.pending := by
  simp only [State.logSeq]; split <;> simp
@[simp] theorem State.logSeq_stepping (a : LogArg) : (s.logSeq a).1.stepping = s.stepping := by
  simp only [State.logSeq]; split <;> simp
@[simp] theorem State.logSeq_bus (a : LogArg) : (s.logSeq a).1.bus = s.bus := by
  simp only [State.logSeq]; split <;> simp
@[simp] theorem State.logSeq_cfg (a : LogArg) : (s.logSeq a).1.cfg = s.cfg := by
  simp only [State.logSeq]; split <;> simp
@[simp] theorem State.logSeq_inv (a : LogArg) : (s.logSeq a).1.inv = s.inv := by
  simp only [State.logSeq]; split <;> simp
@[simp] theorem State.logSeq_boot (a : LogArg) : (s.logSeq a).1.boot = s.boot := by
  simp only [State.logSeq]; split <;> simp
@[simp] theorem State.logSeq_time (a : LogArg) : (s.logSeq a).1.time = s.time := by
  simp only [State.logSeq]; split <;> simp
@[simp] theorem State.logSeq_cnt (a : LogArg) : (s.logSeq a).1.cnt = s.cnt := by
  simp only [State.logSeq]; split <;> simp
@[simp] theorem State.logSeq_mem (a : LogArg) : (s.logSeq a).1.mem = s.mem := by
  simp only [State.logSeq]; split <;> simp
@[simp] theorem State.logSeq_xlt (a : LogArg) : (s.logSeq a).1.xlt = s.xlt := by
  simp only [State.logSeq]; split <;> simp
@[simp] theorem State.logSeq_tbl (a : LogArg) : (s.logSeq a).1.tbl = s.tbl := by
  simp only [State.logSeq]; split <;> simp
@[simp] theorem State.logSeq_ctxs (a : LogArg) : (s.logSeq a).1.ctxs = s.ctxs := by
  simp only [State.logSeq]; split <;> simp
@[simp] theorem State.logSeq_cmds (a : LogArg) : (s.logSeq a).1.cmds = s.cmds := by
  simp only [State.logSeq]; split <;> simp
@[simp] theorem State.logSeq_sig (a : LogArg) : (s.logSeq a).1.sig = s.sig := by
  simp only [State.logSeq]; split <;> simp
@[simp] theorem State.logSeq_yard (a : LogArg) : (s.logSeq a).1.yard = s.yard := by
  simp only [State.logSeq]; split <;> simp
@[simp] theorem State.logSeq_fab (a : LogArg) : (s.logSeq a).1.fab = s.fab := by
  simp only [State.logSeq]; split <;> simp
@[simp] theorem State.logSeq_mbx (a : LogArg) : (s.logSeq a).1.mbx = s.mbx := by
  simp only [State.logSeq]; split <;> simp
@[simp] theorem State.logSeq_pwr (a : LogArg) : (s.logSeq a).1.pwr = s.pwr := by
  simp only [State.logSeq]; split <;> simp

/-! ## `State.logErr` -/

@[simp] theorem State.logErr_pending (a : LogArg) : (s.logErr a).pending = s.pending := by
  simp [State.logErr]
@[simp] theorem State.logErr_stepping (a : LogArg) : (s.logErr a).stepping = s.stepping := by
  simp [State.logErr]
@[simp] theorem State.logErr_bus (a : LogArg) : (s.logErr a).bus = s.bus := by
  simp [State.logErr]
@[simp] theorem State.logErr_cfg (a : LogArg) : (s.logErr a).cfg = s.cfg := by
  simp [State.logErr]
@[simp] theorem State.logErr_inv (a : LogArg) : (s.logErr a).inv = s.inv := by
  simp [State.logErr]
@[simp] theorem State.logErr_boot (a : LogArg) : (s.logErr a).boot = s.boot := by
  simp [State.logErr]
@[simp] theorem State.logErr_time (a : LogArg) : (s.logErr a).time = s.time := by
  simp [State.logErr]
@[simp] theorem State.logErr_cnt (a : LogArg) : (s.logErr a).cnt = s.cnt := by
  simp [State.logErr]
@[simp] theorem State.logErr_mem (a : LogArg) : (s.logErr a).mem = s.mem := by
  simp [State.logErr]
@[simp] theorem State.logErr_xlt (a : LogArg) : (s.logErr a).xlt = s.xlt := by
  simp [State.logErr]
@[simp] theorem State.logErr_tbl (a : LogArg) : (s.logErr a).tbl = s.tbl := by
  simp [State.logErr]
@[simp] theorem State.logErr_ctxs (a : LogArg) : (s.logErr a).ctxs = s.ctxs := by
  simp [State.logErr]
@[simp] theorem State.logErr_cmds (a : LogArg) : (s.logErr a).cmds = s.cmds := by
  simp [State.logErr]
@[simp] theorem State.logErr_sig (a : LogArg) : (s.logErr a).sig = s.sig := by
  simp [State.logErr]
@[simp] theorem State.logErr_yard (a : LogArg) : (s.logErr a).yard = s.yard := by
  simp [State.logErr]
@[simp] theorem State.logErr_fab (a : LogArg) : (s.logErr a).fab = s.fab := by
  simp [State.logErr]
@[simp] theorem State.logErr_mbx (a : LogArg) : (s.logErr a).mbx = s.mbx := by
  simp [State.logErr]
@[simp] theorem State.logErr_pwr (a : LogArg) : (s.logErr a).pwr = s.pwr := by
  simp [State.logErr]

/-! ## `State.logReg` -/

@[simp] theorem State.logReg_pending (mst : Master) (off : Nat) : (s.logReg mst off).pending = s.pending := by
  simp [State.logReg]
@[simp] theorem State.logReg_stepping (mst : Master) (off : Nat) : (s.logReg mst off).stepping = s.stepping := by
  simp [State.logReg]
@[simp] theorem State.logReg_bus (mst : Master) (off : Nat) : (s.logReg mst off).bus = s.bus := by
  simp [State.logReg]
@[simp] theorem State.logReg_cfg (mst : Master) (off : Nat) : (s.logReg mst off).cfg = s.cfg := by
  simp [State.logReg]
@[simp] theorem State.logReg_inv (mst : Master) (off : Nat) : (s.logReg mst off).inv = s.inv := by
  simp [State.logReg]
@[simp] theorem State.logReg_boot (mst : Master) (off : Nat) : (s.logReg mst off).boot = s.boot := by
  simp [State.logReg]
@[simp] theorem State.logReg_time (mst : Master) (off : Nat) : (s.logReg mst off).time = s.time := by
  simp [State.logReg]
@[simp] theorem State.logReg_cnt (mst : Master) (off : Nat) : (s.logReg mst off).cnt = s.cnt := by
  simp [State.logReg]
@[simp] theorem State.logReg_mem (mst : Master) (off : Nat) : (s.logReg mst off).mem = s.mem := by
  simp [State.logReg]
@[simp] theorem State.logReg_xlt (mst : Master) (off : Nat) : (s.logReg mst off).xlt = s.xlt := by
  simp [State.logReg]
@[simp] theorem State.logReg_tbl (mst : Master) (off : Nat) : (s.logReg mst off).tbl = s.tbl := by
  simp [State.logReg]
@[simp] theorem State.logReg_ctxs (mst : Master) (off : Nat) : (s.logReg mst off).ctxs = s.ctxs := by
  simp [State.logReg]
@[simp] theorem State.logReg_cmds (mst : Master) (off : Nat) : (s.logReg mst off).cmds = s.cmds := by
  simp [State.logReg]
@[simp] theorem State.logReg_sig (mst : Master) (off : Nat) : (s.logReg mst off).sig = s.sig := by
  simp [State.logReg]
@[simp] theorem State.logReg_yard (mst : Master) (off : Nat) : (s.logReg mst off).yard = s.yard := by
  simp [State.logReg]
@[simp] theorem State.logReg_fab (mst : Master) (off : Nat) : (s.logReg mst off).fab = s.fab := by
  simp [State.logReg]
@[simp] theorem State.logReg_mbx (mst : Master) (off : Nat) : (s.logReg mst off).mbx = s.mbx := by
  simp [State.logReg]
@[simp] theorem State.logReg_pwr (mst : Master) (off : Nat) : (s.logReg mst off).pwr = s.pwr := by
  simp [State.logReg]

/-! ## `State.modCmd` -/

@[simp] theorem State.modCmd_pending (slot : Nat) (f : Cmd → Cmd) : (s.modCmd slot f).pending = s.pending := by
  simp only [State.modCmd]; split <;> simp
@[simp] theorem State.modCmd_stepping (slot : Nat) (f : Cmd → Cmd) : (s.modCmd slot f).stepping = s.stepping := by
  simp only [State.modCmd]; split <;> simp
@[simp] theorem State.modCmd_bus (slot : Nat) (f : Cmd → Cmd) : (s.modCmd slot f).bus = s.bus := by
  simp only [State.modCmd]; split <;> simp
@[simp] theorem State.modCmd_cfg (slot : Nat) (f : Cmd → Cmd) : (s.modCmd slot f).cfg = s.cfg := by
  simp only [State.modCmd]; split <;> simp
@[simp] theorem State.modCmd_inv (slot : Nat) (f : Cmd → Cmd) : (s.modCmd slot f).inv = s.inv := by
  simp only [State.modCmd]; split <;> simp
@[simp] theorem State.modCmd_boot (slot : Nat) (f : Cmd → Cmd) : (s.modCmd slot f).boot = s.boot := by
  simp only [State.modCmd]; split <;> simp
@[simp] theorem State.modCmd_time (slot : Nat) (f : Cmd → Cmd) : (s.modCmd slot f).time = s.time := by
  simp only [State.modCmd]; split <;> simp
@[simp] theorem State.modCmd_log (slot : Nat) (f : Cmd → Cmd) : (s.modCmd slot f).log = s.log := by
  simp only [State.modCmd]; split <;> simp
@[simp] theorem State.modCmd_cnt (slot : Nat) (f : Cmd → Cmd) : (s.modCmd slot f).cnt = s.cnt := by
  simp only [State.modCmd]; split <;> simp
@[simp] theorem State.modCmd_trc (slot : Nat) (f : Cmd → Cmd) : (s.modCmd slot f).trc = s.trc := by
  simp only [State.modCmd]; split <;> simp
@[simp] theorem State.modCmd_mem (slot : Nat) (f : Cmd → Cmd) : (s.modCmd slot f).mem = s.mem := by
  simp only [State.modCmd]; split <;> simp
@[simp] theorem State.modCmd_xlt (slot : Nat) (f : Cmd → Cmd) : (s.modCmd slot f).xlt = s.xlt := by
  simp only [State.modCmd]; split <;> simp
@[simp] theorem State.modCmd_tbl (slot : Nat) (f : Cmd → Cmd) : (s.modCmd slot f).tbl = s.tbl := by
  simp only [State.modCmd]; split <;> simp
@[simp] theorem State.modCmd_ctxs (slot : Nat) (f : Cmd → Cmd) : (s.modCmd slot f).ctxs = s.ctxs := by
  simp only [State.modCmd]; split <;> simp
@[simp] theorem State.modCmd_sig (slot : Nat) (f : Cmd → Cmd) : (s.modCmd slot f).sig = s.sig := by
  simp only [State.modCmd]; split <;> simp
@[simp] theorem State.modCmd_yard (slot : Nat) (f : Cmd → Cmd) : (s.modCmd slot f).yard = s.yard := by
  simp only [State.modCmd]; split <;> simp
@[simp] theorem State.modCmd_fab (slot : Nat) (f : Cmd → Cmd) : (s.modCmd slot f).fab = s.fab := by
  simp only [State.modCmd]; split <;> simp
@[simp] theorem State.modCmd_hosts (slot : Nat) (f : Cmd → Cmd) : (s.modCmd slot f).hosts = s.hosts := by
  simp only [State.modCmd]; split <;> simp
@[simp] theorem State.modCmd_mbx (slot : Nat) (f : Cmd → Cmd) : (s.modCmd slot f).mbx = s.mbx := by
  simp only [State.modCmd]; split <;> simp
@[simp] theorem State.modCmd_pwr (slot : Nat) (f : Cmd → Cmd) : (s.modCmd slot f).pwr = s.pwr := by
  simp only [State.modCmd]; split <;> simp

/-! ## `State.logCmd` -/

@[simp] theorem State.logCmd_pending (slot : Nat) (a : LogArg) : (s.logCmd slot a).pending = s.pending := by
  simp only [State.logCmd]; split <;> simp
@[simp] theorem State.logCmd_stepping (slot : Nat) (a : LogArg) : (s.logCmd slot a).stepping = s.stepping := by
  simp only [State.logCmd]; split <;> simp
@[simp] theorem State.logCmd_bus (slot : Nat) (a : LogArg) : (s.logCmd slot a).bus = s.bus := by
  simp only [State.logCmd]; split <;> simp
@[simp] theorem State.logCmd_cfg (slot : Nat) (a : LogArg) : (s.logCmd slot a).cfg = s.cfg := by
  simp only [State.logCmd]; split <;> simp
@[simp] theorem State.logCmd_inv (slot : Nat) (a : LogArg) : (s.logCmd slot a).inv = s.inv := by
  simp only [State.logCmd]; split <;> simp
@[simp] theorem State.logCmd_boot (slot : Nat) (a : LogArg) : (s.logCmd slot a).boot = s.boot := by
  simp only [State.logCmd]; split <;> simp
@[simp] theorem State.logCmd_time (slot : Nat) (a : LogArg) : (s.logCmd slot a).time = s.time := by
  simp only [State.logCmd]; split <;> simp
@[simp] theorem State.logCmd_cnt (slot : Nat) (a : LogArg) : (s.logCmd slot a).cnt = s.cnt := by
  simp only [State.logCmd]; split <;> simp
@[simp] theorem State.logCmd_mem (slot : Nat) (a : LogArg) : (s.logCmd slot a).mem = s.mem := by
  simp only [State.logCmd]; split <;> simp
@[simp] theorem State.logCmd_xlt (slot : Nat) (a : LogArg) : (s.logCmd slot a).xlt = s.xlt := by
  simp only [State.logCmd]; split <;> simp
@[simp] theorem State.logCmd_tbl (slot : Nat) (a : LogArg) : (s.logCmd slot a).tbl = s.tbl := by
  simp only [State.logCmd]; split <;> simp
@[simp] theorem State.logCmd_ctxs (slot : Nat) (a : LogArg) : (s.logCmd slot a).ctxs = s.ctxs := by
  simp only [State.logCmd]; split <;> simp
@[simp] theorem State.logCmd_sig (slot : Nat) (a : LogArg) : (s.logCmd slot a).sig = s.sig := by
  simp only [State.logCmd]; split <;> simp
@[simp] theorem State.logCmd_yard (slot : Nat) (a : LogArg) : (s.logCmd slot a).yard = s.yard := by
  simp only [State.logCmd]; split <;> simp
@[simp] theorem State.logCmd_fab (slot : Nat) (a : LogArg) : (s.logCmd slot a).fab = s.fab := by
  simp only [State.logCmd]; split <;> simp
@[simp] theorem State.logCmd_mbx (slot : Nat) (a : LogArg) : (s.logCmd slot a).mbx = s.mbx := by
  simp only [State.logCmd]; split <;> simp
@[simp] theorem State.logCmd_pwr (slot : Nat) (a : LogArg) : (s.logCmd slot a).pwr = s.pwr := by
  simp only [State.logCmd]; split <;> simp

/-! ## `State.modAcc` -/

@[simp] theorem State.modAcc_pending (slot : Nat) (f : Accum → Accum) : (s.modAcc slot f).pending = s.pending := by
  simp [State.modAcc]
@[simp] theorem State.modAcc_stepping (slot : Nat) (f : Accum → Accum) : (s.modAcc slot f).stepping = s.stepping := by
  simp [State.modAcc]
@[simp] theorem State.modAcc_bus (slot : Nat) (f : Accum → Accum) : (s.modAcc slot f).bus = s.bus := by
  simp [State.modAcc]
@[simp] theorem State.modAcc_cfg (slot : Nat) (f : Accum → Accum) : (s.modAcc slot f).cfg = s.cfg := by
  simp [State.modAcc]
@[simp] theorem State.modAcc_inv (slot : Nat) (f : Accum → Accum) : (s.modAcc slot f).inv = s.inv := by
  simp [State.modAcc]
@[simp] theorem State.modAcc_boot (slot : Nat) (f : Accum → Accum) : (s.modAcc slot f).boot = s.boot := by
  simp [State.modAcc]
@[simp] theorem State.modAcc_time (slot : Nat) (f : Accum → Accum) : (s.modAcc slot f).time = s.time := by
  simp [State.modAcc]
@[simp] theorem State.modAcc_log (slot : Nat) (f : Accum → Accum) : (s.modAcc slot f).log = s.log := by
  simp [State.modAcc]
@[simp] theorem State.modAcc_cnt (slot : Nat) (f : Accum → Accum) : (s.modAcc slot f).cnt = s.cnt := by
  simp [State.modAcc]
@[simp] theorem State.modAcc_trc (slot : Nat) (f : Accum → Accum) : (s.modAcc slot f).trc = s.trc := by
  simp [State.modAcc]
@[simp] theorem State.modAcc_mem (slot : Nat) (f : Accum → Accum) : (s.modAcc slot f).mem = s.mem := by
  simp [State.modAcc]
@[simp] theorem State.modAcc_xlt (slot : Nat) (f : Accum → Accum) : (s.modAcc slot f).xlt = s.xlt := by
  simp [State.modAcc]
@[simp] theorem State.modAcc_tbl (slot : Nat) (f : Accum → Accum) : (s.modAcc slot f).tbl = s.tbl := by
  simp [State.modAcc]
@[simp] theorem State.modAcc_ctxs (slot : Nat) (f : Accum → Accum) : (s.modAcc slot f).ctxs = s.ctxs := by
  simp [State.modAcc]
@[simp] theorem State.modAcc_sig (slot : Nat) (f : Accum → Accum) : (s.modAcc slot f).sig = s.sig := by
  simp [State.modAcc]
@[simp] theorem State.modAcc_yard (slot : Nat) (f : Accum → Accum) : (s.modAcc slot f).yard = s.yard := by
  simp [State.modAcc]
@[simp] theorem State.modAcc_fab (slot : Nat) (f : Accum → Accum) : (s.modAcc slot f).fab = s.fab := by
  simp [State.modAcc]
@[simp] theorem State.modAcc_hosts (slot : Nat) (f : Accum → Accum) : (s.modAcc slot f).hosts = s.hosts := by
  simp [State.modAcc]
@[simp] theorem State.modAcc_mbx (slot : Nat) (f : Accum → Accum) : (s.modAcc slot f).mbx = s.mbx := by
  simp [State.modAcc]
@[simp] theorem State.modAcc_pwr (slot : Nat) (f : Accum → Accum) : (s.modAcc slot f).pwr = s.pwr := by
  simp [State.modAcc]

/-! ## `State.count` -/

@[simp] theorem State.count_pending (slot : Nat) (o : Oc) (n : Nat) : (s.count slot o n).pending = s.pending := by
  simp only [State.count]; split
  · rfl
  · split <;> simp
@[simp] theorem State.count_stepping (slot : Nat) (o : Oc) (n : Nat) : (s.count slot o n).stepping = s.stepping := by
  simp only [State.count]; split
  · rfl
  · split <;> simp
@[simp] theorem State.count_bus (slot : Nat) (o : Oc) (n : Nat) : (s.count slot o n).bus = s.bus := by
  simp only [State.count]; split
  · rfl
  · split <;> simp
@[simp] theorem State.count_cfg (slot : Nat) (o : Oc) (n : Nat) : (s.count slot o n).cfg = s.cfg := by
  simp only [State.count]; split
  · rfl
  · split <;> simp
@[simp] theorem State.count_inv (slot : Nat) (o : Oc) (n : Nat) : (s.count slot o n).inv = s.inv := by
  simp only [State.count]; split
  · rfl
  · split <;> simp
@[simp] theorem State.count_boot (slot : Nat) (o : Oc) (n : Nat) : (s.count slot o n).boot = s.boot := by
  simp only [State.count]; split
  · rfl
  · split <;> simp
@[simp] theorem State.count_time (slot : Nat) (o : Oc) (n : Nat) : (s.count slot o n).time = s.time := by
  simp only [State.count]; split
  · rfl
  · split <;> simp
@[simp] theorem State.count_log (slot : Nat) (o : Oc) (n : Nat) : (s.count slot o n).log = s.log := by
  simp only [State.count]; split
  · rfl
  · split <;> simp
@[simp] theorem State.count_trc (slot : Nat) (o : Oc) (n : Nat) : (s.count slot o n).trc = s.trc := by
  simp only [State.count]; split
  · rfl
  · split <;> simp
@[simp] theorem State.count_mem (slot : Nat) (o : Oc) (n : Nat) : (s.count slot o n).mem = s.mem := by
  simp only [State.count]; split
  · rfl
  · split <;> simp
@[simp] theorem State.count_xlt (slot : Nat) (o : Oc) (n : Nat) : (s.count slot o n).xlt = s.xlt := by
  simp only [State.count]; split
  · rfl
  · split <;> simp
@[simp] theorem State.count_tbl (slot : Nat) (o : Oc) (n : Nat) : (s.count slot o n).tbl = s.tbl := by
  simp only [State.count]; split
  · rfl
  · split <;> simp
@[simp] theorem State.count_ctxs (slot : Nat) (o : Oc) (n : Nat) : (s.count slot o n).ctxs = s.ctxs := by
  simp only [State.count]; split
  · rfl
  · split <;> simp
@[simp] theorem State.count_sig (slot : Nat) (o : Oc) (n : Nat) : (s.count slot o n).sig = s.sig := by
  simp only [State.count]; split
  · rfl
  · split <;> simp
@[simp] theorem State.count_yard (slot : Nat) (o : Oc) (n : Nat) : (s.count slot o n).yard = s.yard := by
  simp only [State.count]; split
  · rfl
  · split <;> simp
@[simp] theorem State.count_fab (slot : Nat) (o : Oc) (n : Nat) : (s.count slot o n).fab = s.fab := by
  simp only [State.count]; split
  · rfl
  · split <;> simp
@[simp] theorem State.count_hosts (slot : Nat) (o : Oc) (n : Nat) : (s.count slot o n).hosts = s.hosts := by
  simp only [State.count]; split
  · rfl
  · split <;> simp
@[simp] theorem State.count_mbx (slot : Nat) (o : Oc) (n : Nat) : (s.count slot o n).mbx = s.mbx := by
  simp only [State.count]; split
  · rfl
  · split <;> simp
@[simp] theorem State.count_pwr (slot : Nat) (o : Oc) (n : Nat) : (s.count slot o n).pwr = s.pwr := by
  simp only [State.count]; split
  · rfl
  · split <;> simp

/-! ## `State.progress` -/

@[simp] theorem State.progress_pending (slot : Nat) : (s.progress slot).pending = s.pending := by
  simp [State.progress]
@[simp] theorem State.progress_stepping (slot : Nat) : (s.progress slot).stepping = s.stepping := by
  simp [State.progress]
@[simp] theorem State.progress_bus (slot : Nat) : (s.progress slot).bus = s.bus := by
  simp [State.progress]
@[simp] theorem State.progress_cfg (slot : Nat) : (s.progress slot).cfg = s.cfg := by
  simp [State.progress]
@[simp] theorem State.progress_inv (slot : Nat) : (s.progress slot).inv = s.inv := by
  simp [State.progress]
@[simp] theorem State.progress_boot (slot : Nat) : (s.progress slot).boot = s.boot := by
  simp [State.progress]
@[simp] theorem State.progress_time (slot : Nat) : (s.progress slot).time = s.time := by
  simp [State.progress]
@[simp] theorem State.progress_log (slot : Nat) : (s.progress slot).log = s.log := by
  simp [State.progress]
@[simp] theorem State.progress_cnt (slot : Nat) : (s.progress slot).cnt = s.cnt := by
  simp [State.progress]
@[simp] theorem State.progress_trc (slot : Nat) : (s.progress slot).trc = s.trc := by
  simp [State.progress]
@[simp] theorem State.progress_mem (slot : Nat) : (s.progress slot).mem = s.mem := by
  simp [State.progress]
@[simp] theorem State.progress_xlt (slot : Nat) : (s.progress slot).xlt = s.xlt := by
  simp [State.progress]
@[simp] theorem State.progress_tbl (slot : Nat) : (s.progress slot).tbl = s.tbl := by
  simp [State.progress]
@[simp] theorem State.progress_ctxs (slot : Nat) : (s.progress slot).ctxs = s.ctxs := by
  simp [State.progress]
@[simp] theorem State.progress_sig (slot : Nat) : (s.progress slot).sig = s.sig := by
  simp [State.progress]
@[simp] theorem State.progress_yard (slot : Nat) : (s.progress slot).yard = s.yard := by
  simp [State.progress]
@[simp] theorem State.progress_fab (slot : Nat) : (s.progress slot).fab = s.fab := by
  simp [State.progress]
@[simp] theorem State.progress_hosts (slot : Nat) : (s.progress slot).hosts = s.hosts := by
  simp [State.progress]
@[simp] theorem State.progress_mbx (slot : Nat) : (s.progress slot).mbx = s.mbx := by
  simp [State.progress]
@[simp] theorem State.progress_pwr (slot : Nat) : (s.progress slot).pwr = s.pwr := by
  simp [State.progress]

/-! ## `State.enterCtx` -/

@[simp] theorem State.enterCtx_pending (c : Nat) (x : Ctx) : (s.enterCtx c x).pending = s.pending := by
  simp [State.enterCtx]
@[simp] theorem State.enterCtx_stepping (c : Nat) (x : Ctx) : (s.enterCtx c x).stepping = s.stepping := by
  simp [State.enterCtx]
@[simp] theorem State.enterCtx_bus (c : Nat) (x : Ctx) : (s.enterCtx c x).bus = s.bus := by
  simp [State.enterCtx]
@[simp] theorem State.enterCtx_cfg (c : Nat) (x : Ctx) : (s.enterCtx c x).cfg = s.cfg := by
  simp [State.enterCtx]
@[simp] theorem State.enterCtx_inv (c : Nat) (x : Ctx) : (s.enterCtx c x).inv = s.inv := by
  simp [State.enterCtx]
@[simp] theorem State.enterCtx_boot (c : Nat) (x : Ctx) : (s.enterCtx c x).boot = s.boot := by
  simp [State.enterCtx]
@[simp] theorem State.enterCtx_time (c : Nat) (x : Ctx) : (s.enterCtx c x).time = s.time := by
  simp [State.enterCtx]
@[simp] theorem State.enterCtx_log (c : Nat) (x : Ctx) : (s.enterCtx c x).log = s.log := by
  simp [State.enterCtx]
@[simp] theorem State.enterCtx_cnt (c : Nat) (x : Ctx) : (s.enterCtx c x).cnt = s.cnt := by
  simp [State.enterCtx]
@[simp] theorem State.enterCtx_mem (c : Nat) (x : Ctx) : (s.enterCtx c x).mem = s.mem := by
  simp [State.enterCtx]
@[simp] theorem State.enterCtx_xlt (c : Nat) (x : Ctx) : (s.enterCtx c x).xlt = s.xlt := by
  simp [State.enterCtx]
@[simp] theorem State.enterCtx_tbl (c : Nat) (x : Ctx) : (s.enterCtx c x).tbl = s.tbl := by
  simp [State.enterCtx]
@[simp] theorem State.enterCtx_cmds (c : Nat) (x : Ctx) : (s.enterCtx c x).cmds = s.cmds := by
  simp [State.enterCtx]
@[simp] theorem State.enterCtx_sig (c : Nat) (x : Ctx) : (s.enterCtx c x).sig = s.sig := by
  simp [State.enterCtx]
@[simp] theorem State.enterCtx_yard (c : Nat) (x : Ctx) : (s.enterCtx c x).yard = s.yard := by
  simp [State.enterCtx]
@[simp] theorem State.enterCtx_fab (c : Nat) (x : Ctx) : (s.enterCtx c x).fab = s.fab := by
  simp [State.enterCtx]
@[simp] theorem State.enterCtx_hosts (c : Nat) (x : Ctx) : (s.enterCtx c x).hosts = s.hosts := by
  simp [State.enterCtx]
@[simp] theorem State.enterCtx_mbx (c : Nat) (x : Ctx) : (s.enterCtx c x).mbx = s.mbx := by
  simp [State.enterCtx]
@[simp] theorem State.enterCtx_pwr (c : Nat) (x : Ctx) : (s.enterCtx c x).pwr = s.pwr := by
  simp [State.enterCtx]

/-! ## `State.logCtx` -/

@[simp] theorem State.logCtx_pending (mst : Master) (ctx r : Nat) : (s.logCtx mst ctx r).pending = s.pending := by
  simp [State.logCtx]
@[simp] theorem State.logCtx_stepping (mst : Master) (ctx r : Nat) : (s.logCtx mst ctx r).stepping = s.stepping := by
  simp [State.logCtx]
@[simp] theorem State.logCtx_bus (mst : Master) (ctx r : Nat) : (s.logCtx mst ctx r).bus = s.bus := by
  simp [State.logCtx]
@[simp] theorem State.logCtx_cfg (mst : Master) (ctx r : Nat) : (s.logCtx mst ctx r).cfg = s.cfg := by
  simp [State.logCtx]
@[simp] theorem State.logCtx_inv (mst : Master) (ctx r : Nat) : (s.logCtx mst ctx r).inv = s.inv := by
  simp [State.logCtx]
@[simp] theorem State.logCtx_boot (mst : Master) (ctx r : Nat) : (s.logCtx mst ctx r).boot = s.boot := by
  simp [State.logCtx]
@[simp] theorem State.logCtx_time (mst : Master) (ctx r : Nat) : (s.logCtx mst ctx r).time = s.time := by
  simp [State.logCtx]
@[simp] theorem State.logCtx_cnt (mst : Master) (ctx r : Nat) : (s.logCtx mst ctx r).cnt = s.cnt := by
  simp [State.logCtx]
@[simp] theorem State.logCtx_mem (mst : Master) (ctx r : Nat) : (s.logCtx mst ctx r).mem = s.mem := by
  simp [State.logCtx]
@[simp] theorem State.logCtx_xlt (mst : Master) (ctx r : Nat) : (s.logCtx mst ctx r).xlt = s.xlt := by
  simp [State.logCtx]
@[simp] theorem State.logCtx_tbl (mst : Master) (ctx r : Nat) : (s.logCtx mst ctx r).tbl = s.tbl := by
  simp [State.logCtx]
@[simp] theorem State.logCtx_ctxs (mst : Master) (ctx r : Nat) : (s.logCtx mst ctx r).ctxs = s.ctxs := by
  simp [State.logCtx]
@[simp] theorem State.logCtx_cmds (mst : Master) (ctx r : Nat) : (s.logCtx mst ctx r).cmds = s.cmds := by
  simp [State.logCtx]
@[simp] theorem State.logCtx_sig (mst : Master) (ctx r : Nat) : (s.logCtx mst ctx r).sig = s.sig := by
  simp [State.logCtx]
@[simp] theorem State.logCtx_yard (mst : Master) (ctx r : Nat) : (s.logCtx mst ctx r).yard = s.yard := by
  simp [State.logCtx]
@[simp] theorem State.logCtx_fab (mst : Master) (ctx r : Nat) : (s.logCtx mst ctx r).fab = s.fab := by
  simp [State.logCtx]
@[simp] theorem State.logCtx_mbx (mst : Master) (ctx r : Nat) : (s.logCtx mst ctx r).mbx = s.mbx := by
  simp [State.logCtx]
@[simp] theorem State.logCtx_pwr (mst : Master) (ctx r : Nat) : (s.logCtx mst ctx r).pwr = s.pwr := by
  simp [State.logCtx]

/-! ## `State.logPort` -/

@[simp] theorem State.logPort_pending (k : Nat) (st : Byte) (x y : Nat) : (s.logPort k st x y).pending = s.pending := by
  simp [State.logPort]
@[simp] theorem State.logPort_stepping (k : Nat) (st : Byte) (x y : Nat) : (s.logPort k st x y).stepping = s.stepping := by
  simp [State.logPort]
@[simp] theorem State.logPort_bus (k : Nat) (st : Byte) (x y : Nat) : (s.logPort k st x y).bus = s.bus := by
  simp [State.logPort]
@[simp] theorem State.logPort_cfg (k : Nat) (st : Byte) (x y : Nat) : (s.logPort k st x y).cfg = s.cfg := by
  simp [State.logPort]
@[simp] theorem State.logPort_inv (k : Nat) (st : Byte) (x y : Nat) : (s.logPort k st x y).inv = s.inv := by
  simp [State.logPort]
@[simp] theorem State.logPort_boot (k : Nat) (st : Byte) (x y : Nat) : (s.logPort k st x y).boot = s.boot := by
  simp [State.logPort]
@[simp] theorem State.logPort_time (k : Nat) (st : Byte) (x y : Nat) : (s.logPort k st x y).time = s.time := by
  simp [State.logPort]
@[simp] theorem State.logPort_cnt (k : Nat) (st : Byte) (x y : Nat) : (s.logPort k st x y).cnt = s.cnt := by
  simp [State.logPort]
@[simp] theorem State.logPort_mem (k : Nat) (st : Byte) (x y : Nat) : (s.logPort k st x y).mem = s.mem := by
  simp [State.logPort]
@[simp] theorem State.logPort_xlt (k : Nat) (st : Byte) (x y : Nat) : (s.logPort k st x y).xlt = s.xlt := by
  simp [State.logPort]
@[simp] theorem State.logPort_tbl (k : Nat) (st : Byte) (x y : Nat) : (s.logPort k st x y).tbl = s.tbl := by
  simp [State.logPort]
@[simp] theorem State.logPort_ctxs (k : Nat) (st : Byte) (x y : Nat) : (s.logPort k st x y).ctxs = s.ctxs := by
  simp [State.logPort]
@[simp] theorem State.logPort_cmds (k : Nat) (st : Byte) (x y : Nat) : (s.logPort k st x y).cmds = s.cmds := by
  simp [State.logPort]
@[simp] theorem State.logPort_sig (k : Nat) (st : Byte) (x y : Nat) : (s.logPort k st x y).sig = s.sig := by
  simp [State.logPort]
@[simp] theorem State.logPort_yard (k : Nat) (st : Byte) (x y : Nat) : (s.logPort k st x y).yard = s.yard := by
  simp [State.logPort]
@[simp] theorem State.logPort_fab (k : Nat) (st : Byte) (x y : Nat) : (s.logPort k st x y).fab = s.fab := by
  simp [State.logPort]
@[simp] theorem State.logPort_mbx (k : Nat) (st : Byte) (x y : Nat) : (s.logPort k st x y).mbx = s.mbx := by
  simp [State.logPort]
@[simp] theorem State.logPort_pwr (k : Nat) (st : Byte) (x y : Nat) : (s.logPort k st x y).pwr = s.pwr := by
  simp [State.logPort]

/-! ## `State.logPwr` -/

@[simp] theorem State.logPwr_pending (x y : Nat) : (s.logPwr x y).pending = s.pending := by
  simp [State.logPwr]
@[simp] theorem State.logPwr_stepping (x y : Nat) : (s.logPwr x y).stepping = s.stepping := by
  simp [State.logPwr]
@[simp] theorem State.logPwr_bus (x y : Nat) : (s.logPwr x y).bus = s.bus := by
  simp [State.logPwr]
@[simp] theorem State.logPwr_cfg (x y : Nat) : (s.logPwr x y).cfg = s.cfg := by
  simp [State.logPwr]
@[simp] theorem State.logPwr_inv (x y : Nat) : (s.logPwr x y).inv = s.inv := by
  simp [State.logPwr]
@[simp] theorem State.logPwr_boot (x y : Nat) : (s.logPwr x y).boot = s.boot := by
  simp [State.logPwr]
@[simp] theorem State.logPwr_time (x y : Nat) : (s.logPwr x y).time = s.time := by
  simp [State.logPwr]
@[simp] theorem State.logPwr_cnt (x y : Nat) : (s.logPwr x y).cnt = s.cnt := by
  simp [State.logPwr]
@[simp] theorem State.logPwr_mem (x y : Nat) : (s.logPwr x y).mem = s.mem := by
  simp [State.logPwr]
@[simp] theorem State.logPwr_xlt (x y : Nat) : (s.logPwr x y).xlt = s.xlt := by
  simp [State.logPwr]
@[simp] theorem State.logPwr_tbl (x y : Nat) : (s.logPwr x y).tbl = s.tbl := by
  simp [State.logPwr]
@[simp] theorem State.logPwr_ctxs (x y : Nat) : (s.logPwr x y).ctxs = s.ctxs := by
  simp [State.logPwr]
@[simp] theorem State.logPwr_cmds (x y : Nat) : (s.logPwr x y).cmds = s.cmds := by
  simp [State.logPwr]
@[simp] theorem State.logPwr_sig (x y : Nat) : (s.logPwr x y).sig = s.sig := by
  simp [State.logPwr]
@[simp] theorem State.logPwr_yard (x y : Nat) : (s.logPwr x y).yard = s.yard := by
  simp [State.logPwr]
@[simp] theorem State.logPwr_fab (x y : Nat) : (s.logPwr x y).fab = s.fab := by
  simp [State.logPwr]
@[simp] theorem State.logPwr_mbx (x y : Nat) : (s.logPwr x y).mbx = s.mbx := by
  simp [State.logPwr]
@[simp] theorem State.logPwr_pwr (x y : Nat) : (s.logPwr x y).pwr = s.pwr := by
  simp [State.logPwr]

end Sys2Proof.Machine
end

