-- ==== Sys2Proof/Laws/Tab.lean ====
section
/-!
SUPPORT. The laws of sparse tables: a read after a write gives the value written, a write leaves every other key as it
was, and a write keeps the canonical form.
-/
namespace Sys2Proof.Machine

variable {α : Type}

theorem Tab.get_erase_self (d : α) (t : Tab α) (k : Nat) : Tab.get d (Tab.erase t k) k = d := by
  induction t with
  | nil => rfl
  | cons e t ih => obtain ⟨i, v⟩ := e; by_cases h : i = k <;> simp [Tab.erase, Tab.get, h, ih]

theorem Tab.get_erase_of_ne (d : α) (t : Tab α) {k j : Nat} (h : j ≠ k) : Tab.get d (Tab.erase t k) j = Tab.get d t j := by
  induction t with
  | nil => rfl
  | cons e t ih =>
    obtain ⟨i, v⟩ := e
    by_cases hi : i = k
    · have : i ≠ j := fun e => h (e ▸ hi)
      simp_all [Tab.erase, Tab.get]
    · by_cases hj : i = j
      · subst hj; simp [Tab.erase, Tab.get, hi]
      · simp [Tab.erase, Tab.get, hi, hj, ih]

theorem Tab.get_insert_self (d : α) (t : Tab α) (k : Nat) (v : α) : Tab.get d (Tab.insert t k v) k = v := by
  induction t with
  | nil => simp [Tab.insert, Tab.get]
  | cons e t ih =>
    obtain ⟨i, w⟩ := e
    by_cases hi : i = k
    · simp [Tab.insert, Tab.get, hi]
    · by_cases hk : k < i <;> simp [Tab.insert, Tab.get, hi, hk, ih]

theorem Tab.get_insert_of_ne (d : α) (t : Tab α) {k j : Nat} (v : α) (h : j ≠ k) :
    Tab.get d (Tab.insert t k v) j = Tab.get d t j := by
  have h' : k ≠ j := fun e => h e.symm
  induction t with
  | nil => simp [Tab.insert, Tab.get, h']
  | cons e t ih =>
    obtain ⟨i, w⟩ := e
    by_cases hi : i = k
    · subst hi; simp [Tab.insert, Tab.get, h']
    · by_cases hk : k < i
      · simp [Tab.insert, Tab.get, hi, hk, h']
      · by_cases hj : i = j
        · subst hj; simp [Tab.insert, Tab.get, hi, hk]
        · simp [Tab.insert, Tab.get, hi, hk, hj, ih]

/-- A read after a write of the same key. -/
@[simp] theorem Tab.get_set_self [DecidableEq α] (d : α) (t : Tab α) (k : Nat) (v : α) : Tab.get d (Tab.set d t k v) k = v := by
  by_cases h : v = d
  · simp [Tab.set, h, Tab.get_erase_self]
  · simp [Tab.set, h, Tab.get_insert_self]

/-- A write leaves every other key as it was. -/
theorem Tab.get_set_of_ne [DecidableEq α] (d : α) (t : Tab α) {k j : Nat} (v : α) (h : j ≠ k) :
    Tab.get d (Tab.set d t k v) j = Tab.get d t j := by
  by_cases hv : v = d
  · simp [Tab.set, hv, Tab.get_erase_of_ne d t h]
  · simp [Tab.set, hv, Tab.get_insert_of_ne d t v h]

theorem Tab.get_set [DecidableEq α] (d : α) (t : Tab α) (k j : Nat) (v : α) :
    Tab.get d (Tab.set d t k v) j = if j = k then v else Tab.get d t j := by
  by_cases h : j = k
  · subst h; simp
  · simp [h, Tab.get_set_of_ne d t v h]

theorem Tab.erase_insert (t : Tab α) (k : Nat) (v : α) : Tab.erase (Tab.insert t k v) k = Tab.erase t k := by
  induction t with
  | nil => simp [Tab.insert, Tab.erase]
  | cons e t ih =>
    obtain ⟨i, w⟩ := e
    by_cases hi : i = k
    · simp [Tab.insert, Tab.erase, hi]
    · by_cases hk : k < i <;> simp [Tab.insert, Tab.erase, hi, hk, ih]

theorem Tab.erase_erase (t : Tab α) (k : Nat) : Tab.erase (Tab.erase t k) k = Tab.erase t k := by
  induction t with
  | nil => rfl
  | cons e t ih => obtain ⟨i, w⟩ := e; by_cases hi : i = k <;> simp [Tab.erase, hi, ih]

/-- Writing the default after any write of the same key is writing the default. -/
@[simp] theorem Tab.set_default_set [DecidableEq α] (d : α) (t : Tab α) (k : Nat) (v : α) :
    Tab.set d (Tab.set d t k v) k d = Tab.set d t k d := by
  by_cases h : v = d
  · simp [Tab.set, h, Tab.erase_erase]
  · simp [Tab.set, h, Tab.erase_insert]

/-! ## The canonical form -/

/-- Every key of the table is at least `n`. -/
def Tab.above (n : Nat) (t : Tab α) : Prop := ∀ e ∈ t, n ≤ e.1

theorem Tab.sorted_cons_iff (i : Nat) (v : α) (t : Tab α) :
    Tab.sorted ((i, v) :: t) = true ↔ Tab.above (i + 1) t ∧ Tab.sorted t = true := by
  induction t generalizing i v with
  | nil => simp [Tab.sorted, Tab.above]
  | cons e t ih =>
    obtain ⟨j, w⟩ := e
    simp only [Tab.sorted, Bool.and_eq_true, decide_eq_true_eq]
    constructor
    · rintro ⟨hij, hs⟩
      refine ⟨?_, hs⟩
      intro x hx
      rcases List.mem_cons.1 hx with rfl | hx
      · exact hij
      · have := (ih j w).1 hs
        have := this.1 x hx
        omega
    · rintro ⟨ha, hs⟩
      exact ⟨ha _ (List.mem_cons_self ..), hs⟩

theorem Tab.mem_erase {t : Tab α} {k : Nat} {e : Nat × α} (h : e ∈ Tab.erase t k) : e ∈ t ∧ e.1 ≠ k := by
  induction t with
  | nil => simp [Tab.erase] at h
  | cons x t ih =>
    obtain ⟨i, v⟩ := x
    by_cases hi : i = k
    · simp only [Tab.erase, hi, if_true] at h
      exact ⟨List.mem_cons_of_mem _ (ih h).1, (ih h).2⟩
    · simp only [Tab.erase, hi, if_false, List.mem_cons] at h
      rcases h with rfl | h
      · exact ⟨List.mem_cons_self .., hi⟩
      · exact ⟨List.mem_cons_of_mem _ (ih h).1, (ih h).2⟩

theorem Tab.mem_insert {t : Tab α} {k : Nat} {v : α} {e : Nat × α} (h : e ∈ Tab.insert t k v) : e = (k, v) ∨ e ∈ t := by
  induction t with
  | nil => simpa [Tab.insert] using h
  | cons x t ih =>
    obtain ⟨i, w⟩ := x
    by_cases hi : i = k
    · simp only [Tab.insert, hi, if_true, List.mem_cons] at h
      rcases h with h | h
      · exact .inl h
      · exact .inr (List.mem_cons_of_mem _ h)
    · by_cases hk : k < i
      · simp only [Tab.insert, hi, hk, if_true, if_false, List.mem_cons] at h
        rcases h with h | h | h
        · exact .inl h
        · exact .inr (h ▸ List.mem_cons_self ..)
        · exact .inr (List.mem_cons_of_mem _ h)
      · simp only [Tab.insert, hi, hk, if_false, List.mem_cons] at h
        rcases h with h | h
        · exact .inr (h ▸ List.mem_cons_self ..)
        · exact (ih h).imp_right (List.mem_cons_of_mem _)

theorem Tab.sorted_erase {t : Tab α} (k : Nat) (h : Tab.sorted t = true) : Tab.sorted (Tab.erase t k) = true := by
  induction t with
  | nil => exact h
  | cons e t ih =>
    obtain ⟨i, v⟩ := e
    have hs := (Tab.sorted_cons_iff i v t).1 h
    by_cases hi : i = k
    · simpa [Tab.erase, hi] using ih hs.2
    · simp only [Tab.erase, hi, if_false]
      exact (Tab.sorted_cons_iff ..).2 ⟨fun x hx => hs.1 x (Tab.mem_erase hx).1, ih hs.2⟩

theorem Tab.sorted_insert {t : Tab α} (k : Nat) (v : α) (h : Tab.sorted t = true) : Tab.sorted (Tab.insert t k v) = true := by
  induction t with
  | nil => rfl
  | cons e t ih =>
    obtain ⟨i, w⟩ := e
    have hs := (Tab.sorted_cons_iff i w t).1 h
    by_cases hi : i = k
    · subst hi
      simp only [Tab.insert, if_true]
      exact (Tab.sorted_cons_iff ..).2 hs
    · by_cases hk : k < i
      · simp only [Tab.insert, hi, hk, if_true, if_false]
        refine (Tab.sorted_cons_iff ..).2 ⟨?_, h⟩
        intro x hx
        rcases List.mem_cons.1 hx with rfl | hx
        · exact hk
        · have := hs.1 x hx; omega
      · simp only [Tab.insert, hi, hk, if_false]
        refine (Tab.sorted_cons_iff ..).2 ⟨?_, ih hs.2⟩
        intro x hx
        rcases Tab.mem_insert hx with rfl | hx
        · simp; omega
        · exact hs.1 x hx

/-- A write keeps the keys rising. -/
theorem Tab.sorted_set [DecidableEq α] (d : α) {t : Tab α} (k : Nat) (v : α) (h : Tab.sorted t = true) :
    Tab.sorted (Tab.set d t k v) = true := by
  unfold Tab.set
  split
  · exact Tab.sorted_erase k h
  · exact Tab.sorted_insert k v h

/-- What a write may add to a table. -/
theorem Tab.mem_set [DecidableEq α] {d : α} {t : Tab α} {k : Nat} {v : α} {e : Nat × α} (h : e ∈ Tab.set d t k v) :
    (e = (k, v) ∧ v ≠ d) ∨ e ∈ t := by
  unfold Tab.set at h
  split at h
  · exact .inr (Tab.mem_erase h).1
  · next hv => exact (Tab.mem_insert h).imp_left (fun e => ⟨e, hv⟩)

/-- A write keeps the canonical form. -/
theorem Tab.wf_set [DecidableEq α] (d : α) {t : Tab α} (k : Nat) (v : α) (h : Tab.wf d t = true) :
    Tab.wf d (Tab.set d t k v) = true := by
  simp only [Tab.wf, Bool.and_eq_true, List.all_eq_true, Bool.not_eq_true', decide_eq_false_iff_not] at h ⊢
  refine ⟨Tab.sorted_set d k v h.1, fun e he => ?_⟩
  rcases Tab.mem_set he with ⟨rfl, hv⟩ | he
  · exact hv
  · exact h.2 e he

end Sys2Proof.Machine
end

