-- ==== Sys2Proof/Laws/Mem.lean ====
section
/-!
SUPPORT. Reading and writing the memories: a read after a write, and the canonical form under every write.
-/
namespace Sys2Proof.Machine

/-- Another key reads as before, whatever an unlisted key reads as. -/
theorem Tab.get_set_other [DecidableEq α] (d e : α) (t : Tab α) {k j : Nat} (v : α) (h : j ≠ k) :
    Tab.get e (Tab.set d t k v) j = Tab.get e t j := by
  unfold Tab.set
  split
  · exact Tab.get_erase_of_ne e t h
  · exact Tab.get_insert_of_ne e t v h

/-- A byte of the device or of a host reads as it was last written. -/
theorem Memories.get_set_self (m : Memories) (l : Loc) (b : Byte) (h : ∀ d pa, l ≠ .peer d pa) : (m.set l b).get l = b := by
  cases l with
  | peer d pa => exact absurd rfl (h d pa)
  | _ => simp only [Memories.set, Memories.get, Tab.get_set, if_true]

/-- Writing a byte of HBM leaves the others. -/
theorem Memories.get_hbm_set_hbm (m : Memories) (a x : Nat) (b : Byte) :
    (m.set (.hbm a) b).get (.hbm x) = if x = a then b else m.get (.hbm x) := by
  simp [Memories.set, Memories.get, Tab.get_set]

/-- Writing a byte of a Platform leaves the others. -/
theorem Memories.get_plat_set_plat (m : Memories) (c o d p : Nat) (b : Byte) :
    (m.set (.plat c o) b).get (.plat d p) = if platKey d p = platKey c o then b else m.get (.plat d p) := by
  by_cases h : platKey d p = platKey c o
  · simp only [Memories.set, Memories.get, h, Tab.get_set, if_true]
  · simp only [Memories.set, Memories.get, Tab.get_set_other _ _ _ _ h, h, if_false]

/-- A byte of another location, whose tier or key differs, reads as before. -/
theorem Memories.get_set_of_ne (m : Memories) {l x : Loc} (b : Byte)
    (h : match l, x with
      | .hbm a, .hbm c => c ≠ a
      | .depot a, .depot c => c ≠ a
      | .plat c o, .plat d p => platKey d p ≠ platKey c o
      | .host p a, .host q c => hostKey q c ≠ hostKey p a
      | _, _ => True) : (m.set l b).get x = m.get x := by
  cases l <;> cases x <;> first | rfl | exact Tab.get_set_other _ _ _ _ h

/-- What a write leaves of the other parts of the memories. -/
@[simp] theorem Memories.set_ecc (m : Memories) (l : Loc) (b : Byte) : (m.set l b).ecc = m.ecc := by cases l <;> rfl
@[simp] theorem Memories.set_eccHist (m : Memories) (l : Loc) (b : Byte) : (m.set l b).eccHist = m.eccHist := by cases l <;> rfl
@[simp] theorem Memories.set_scrubPos (m : Memories) (l : Loc) (b : Byte) : (m.set l b).scrubPos = m.scrubPos := by cases l <;> rfl
@[simp] theorem Memories.set_platEra (m : Memories) (l : Loc) (b : Byte) : (m.set l b).platEra = m.platEra := by cases l <;> rfl

/-- Writing a byte keeps the canonical form. -/
theorem Memories.set_wf {m : Memories} (l : Loc) (b : Byte) (h : m.wf = true) : (m.set l b).wf = true := by
  simp only [Memories.wf, Bool.and_eq_true] at h ⊢
  obtain ⟨⟨⟨⟨hh, hd⟩, ho⟩, hs⟩, hp⟩ := h
  cases l with
  | peer d pa => exact ⟨⟨⟨⟨hh, hd⟩, ho⟩, hs⟩, hp⟩
  | hbm pa => exact ⟨⟨⟨⟨Tab.wf_set 0 pa b hh, hd⟩, ho⟩, hs⟩, hp⟩
  | depot o => exact ⟨⟨⟨⟨hh, Tab.wf_set 0 o b hd⟩, ho⟩, hs⟩, hp⟩
  | host p a => exact ⟨⟨⟨⟨hh, hd⟩, Tab.wf_set 0 (hostKey p a) b ho⟩, hs⟩, hp⟩
  | plat c o =>
    refine ⟨⟨⟨⟨hh, hd⟩, ho⟩, Tab.sorted_set _ (platKey c o) b hs⟩, ?_⟩
    rw [List.all_eq_true] at hp ⊢
    intro e he
    rcases Tab.mem_set he with ⟨rfl, hv⟩ | he
    · simpa using hv
    · exact hp e he

theorem Memories.write_wf {m : Memories} (l : Loc) (b : List Byte) (h : m.wf = true) : (m.write l b).wf = true := by
  induction b generalizing m l with
  | nil => exact h
  | cons x t ih => exact ih _ (Memories.set_wf l x h)

theorem Memories.writeMasked_wf {m : Memories} (l : Loc) (b : List (Nat × Byte)) (h : m.wf = true) :
    (m.writeMasked l b).wf = true := by
  induction b generalizing m with
  | nil => exact h
  | cons x t ih => exact ih (Memories.set_wf _ _ h)

/-- The empty memories have the canonical form. -/
theorem reset_mem_wf : State.reset.mem.wf = true := by decide

end Sys2Proof.Machine
end

