-- ==== Sys2Proof/Tests/Slice0.lean ====
section
/-!
SUPPORT. Tests: an ill-formed term for each check of WellFormed, a witness for the hypotheses of each statement of
Sys2Proof/Certificates/Slice0/Obligations.lean, and what a command leaves on a small state, as its rule says.
-/
namespace Sys2Proof.Tests

open Sys2Proof Sys2Proof.Machine

set_option Elab.async false

/-! ## Small states -/

/-- After reset, CFG_DONE = 1, host function 0 created and linked, and its partition: contexts and signals 0–99, 64 GiB of HBM. -/
def dev : State :=
  { State.reset with
    cfg := { Cfg.reset with
      cfgDone := true
      hosts := [(0, { HostCfg.zero with ctxFirst := 0, ctxCount := 100, sigFirst := 0, sigCount := 100, h0Size := 64, tstoreMib := 64 })] }
    boot := { BootSt.reset with phase := 7, romOk := true }
    hosts := [(0, { HostFn.reset with present := true, width := 5, speed := 5, cxl := true })] }

/-- A command of context 0, queue 0, SEQ 0: opcode, one stage, phase. -/
def cmd (op : Nat) (phase : Phase) (pb : List Byte) : Cmd where
  ctx := 0
  queue := 0
  seq := 0
  body := none
  parent := none
  crec := ⟨op, false, false, false, false, false, false, 0, 0, 0, 0, 0, 100, [], []⟩
  raw := []
  stages := [⟨op, pb, [], [], []⟩]
  phase := phase
  status := none
  failStage := 0
  latches := []
  seed := 0
  step := 0
  resv := Resv.none
  held := []
  order := 0
  fetchedAt := 0
  admitAt := 0
  waitLeft := 0
  waitAt := 0
  startAt := 0
  stallBy := 0
  acc := Accum.zero
  indMask := 0
  indAll := false
  indStage := false
  indPart := false
  indLine := false
  errSeq := none
  info := 0
  dual := none
  loop := none
  mig := 0
  pos := 0
  eaten := 0
  bursts := []
  halves := []
  zcUsed := []
  control := none
  ring := none
  rung := []
  yard := none
  outQ := []
  paged := []
  tiles := []
  atRetire := []
  yielded := false
  leased := false
  leaseAt := none
  coreCyc := 0

/-- `dev` with context 0 in a state. -/
def withCtx (x : CtxState) : State := dev.setCtx 0 { Ctx.zero with state := x }

/-- `dev` with context 0 ON and a command in slot 0. -/
def withCmd (c : Cmd) : State := (withCtx .on).setCmd 0 (some c)

/-- The answer of a command, or the state itself where there is none. -/
def after (c : Instr) (s : State) : State :=
  match exec c s with
  | .next t => t
  | _ => s

/-- Context 0 of `dev` ON, with a translation: addresses from 0 on to HBM at 0x1000_0000, from 0x1000_0000 on to host memory at 0, and
64 KiB at 0x2000_0000 to HBM at 0x2000_0000. -/
def vm : State :=
  let s := withCtx .on
  { s with xlt := { s.xlt with root := [(0, (true, 0))] }
           inv := { s.inv with stackOk := [0, 1, 2, 3, 4, 5, 6, 7], sites := [0, 1] }
           mem := { s.mem with hbm := [(0, 0x01), (1, 0x80), (0x8000, 0x0F), (0x8003, 0x10), (0x8008, 0xCF), (0x8010, 0x01), (0x8012, 0x01)
                                       , (0x10000, 0x0F), (0x10003, 0x20)] } }

/-- `vm` while a hang dump holds it. -/
def frozen : State := let s := vm
  { s with trc := { s.trc with dump := { s.trc.dump with busy := true } } }

/-- A parameter block of `n` bytes: zeros, but for the bytes given at their offsets. -/
def block (n : Nat) (fs : List (Nat × List Byte)) : List Byte :=
  fs.foldl (fun b f => b.take f.1 ++ f.2 ++ b.drop (f.1 + f.2.length)) (List.replicate n 0)

/-- The Yard state of a command on an axis. -/
def yst (size own : Nat) : YardSt := ⟨0, size, own, [], [], [], [], [], 0, [], false, 0, []⟩

/-- A wagon of slot 0. -/
def wag (kind : WagonKind) (line : Loc) : Wagon where
  id := 3
  ctx := 0
  port := 0
  tag := 3
  req := ⟨0, 0, 5, 0, false, kind, 0, line, [(0, 1), (511, 2)], [(0, 0x3F800000)], false⟩
  issued := 0
  due := 0
  served := false
  arrived := false
  data := []
  bad := false
  timedOut := false
  discard := false

/-- A state with a wagon in flight. -/
def State.wagons (s : State) (ws : List Wagon) : State := { s with cmds := { s.cmds with wagons := ws, nextId := 4 } }

/-! ## Well-formed commands: a term that each check refuses, and one that it admits at the end of its range -/

theorem test_wf_slot : Instr.wf (.cmdStart 4096) = false ∧ Instr.wf (.cmdStart 4095) = true := by decide
theorem test_wf_ctx : Instr.wf (.enable .m 4096) = false ∧ Instr.wf (.enable .m 4095) = true := by decide
theorem test_wf_queue : Instr.wf (.cmdFetch 0 4) = false ∧ Instr.wf (.cmdFetch 0 3) = true := by decide
theorem test_wf_port : Instr.wf (.train .m 8) = false ∧ Instr.wf (.train .m 7) = true := by decide
theorem test_wf_host : Instr.wf (.flr 4) = false ∧ Instr.wf (.flr 3) = true := by decide
theorem test_wf_chan : Instr.wf (.mbxLockRead .m 64) = false ∧ Instr.wf (.mbxLockRead .m 63) = true := by decide
theorem test_wf_table : Instr.wf (.swap .m 0 0) = false ∧ Instr.wf (.swap .m 5 0) = false ∧ Instr.wf (.swap .m 1 4096) = false
    ∧ Instr.wf (.swap .m 2 4096) = false ∧ Instr.wf (.swap .m 3 256) = false ∧ Instr.wf (.swap .m 4 8) = false
    ∧ Instr.wf (.swap .m 1 4095) = true ∧ Instr.wf (.swap .m 3 255) = true ∧ Instr.wf (.swap .m 4 7) = true := by decide
theorem test_wf_offset : Instr.wf (.lowHalfRead .m ⟨0x4000000, .w32⟩) = false ∧ Instr.wf (.lowHalfRead .m ⟨0x3FFFFFC, .w32⟩) = true := by decide
theorem test_wf_class : Instr.wf (.sigBind .m 2 0 0) = false ∧ Instr.wf (.sigBind .m 1 0 0) = true := by decide
theorem test_wf_pop : Instr.wf (.sigPost .m 8 0) = false ∧ Instr.wf (.sigPost .m 7 0) = true := by decide
theorem test_wf_signal : Instr.wf (.sigAdd .m 65536 0) = false ∧ Instr.wf (.sigAdd .m 65535 0) = true := by decide
theorem test_wf_flit : Instr.wf (.flitRx 0 []) = false := by decide
theorem test_wf_channel : Instr.wf (.creditStall 0 8) = false ∧ Instr.wf (.creditStall 0 7) = true := by decide

/-- A packet to node `dst` of a kind. -/
def pkt (kind : BitVec 4) (cls : BitVec 2) (addr : Dword) (tag : Half) (data : List Byte) : Packet :=
  ⟨0, 0, kind, cls, false, 0, addr, tag, 0, 0, 0, 0, data⟩

/-- A Yard frame of member `sender`. -/
def yfr (sender : Nat) (ftype : Byte) (hash : Word) : YardFrame :=
  ⟨sender, 1, 0, 0, ftype, 0, 0, 0, 0, 0, hash, 0, []⟩

theorem test_wf_packet : Instr.wf (.wrAck 0 (pkt 5 1 0 0 [0])) = false ∧ Instr.wf (.wrAck 0 (pkt 5 1 0 0 [])) = true := by decide
theorem test_wf_frame : Instr.wf (.openFrame 4 (yfr 0 1 0)) = false ∧ Instr.wf (.openFrame 0 (yfr 32 1 0)) = false
    ∧ Instr.wf (.openFrame 3 (yfr 31 1 0)) = true := by decide
theorem test_wf_line : Instr.wf (.hdmWrite 0 0 (List.replicate 65 0)) = false ∧ Instr.wf (.hdmWrite 0 0 (List.replicate 64 0)) = true := by
  decide
theorem test_wf_nonce : Instr.wf (.challenge 0 0 []) = false ∧ Instr.wf (.challenge 0 0 (List.replicate 32 0)) = true := by decide
theorem test_wf_code : Instr.wf (.unsupportedRequest 0 256) = false ∧ Instr.wf (.unsupportedRequest 0 255) = true := by decide
theorem test_wf_strap : Instr.wf (.sysRstNRelease 4 0) = false ∧ Instr.wf (.sysRstNRelease 0 8) = false
    ∧ Instr.wf (.sysRstNRelease 3 7) = true := by decide
theorem test_wf_flash : Instr.wf (.flash (some ⟨1, [(1, 0)], none⟩) true) = false ∧ Instr.wf (.flash (some ⟨1, [(0, 0)], none⟩) true) = true := by decide
theorem test_wf_domain : Instr.wf (.pllLockTimeout 0) = false ∧ Instr.wf (.pllLockTimeout 25) = false
    ∧ Instr.wf (.pllLockTimeout 24) = true := by decide

/-! ## The queue of commands -/

theorem test_front_first : (match step { dev with pending := [.ctxSeedWrite .m 0 7, .ctxSeedWrite .m 0 8] } with
    | .next t => (t.ctx 0).seed == 7 && t.pending == [.ctxSeedWrite .m 0 8] | _ => false) = true := by decide +kernel
theorem test_idle_tick : (match step { dev with pending := [] } with | .next t => t.time.now == 4 | _ => false) = true := by decide +kernel

/-! ## Registers -/

theorem wit_halves : dev.regReady .m true = true ∧ bootHidden .m 0x100010 = false ∧ (∃ r, spot32 0x100010 = .low r)
    ∧ bootHidden .m 0x100014 = false ∧ (∃ r, spot32 0x100014 = .high r ∧ (dev.setLatch .m ⟨r.off, 5⟩).latchOf .m = some ⟨r.off, 5⟩
      ∧ dev.latchOf .m = none ∧ (dev.setHold .m ⟨r.off, 5⟩).holdOf .m = some ⟨r.off, 5⟩ ∧ dev.holdOf .m = none) :=
  ⟨rfl, rfl, ⟨_, rfl⟩, rfl, ⟨_, rfl, rfl, rfl, rfl, rfl⟩⟩
theorem wit_two_halves : dev.regReady .m true = true ∧ ∃ r, regAt 0x100010 = some r ∧ r.wide = true := ⟨rfl, _, rfl, rfl⟩
theorem wit_closed : dev.regOpen .h1 = false ∧ State.reset.regOpen .h0 = false ∧ writerOf (.ttArm .h1) = some .h1 := by decide
theorem test_two_halves : ((after (.highHalfWrite .h0 0x100014 2) (after (.lowHalfWrite .h0 0x100010 1) dev)).ctx 0).seed
    = 0x200000001 := by decide +kernel
theorem test_low_read : (after (.lowHalfRead .h0 ⟨0x100010, .w32⟩) (dev.setCtx 0 { Ctx.zero with seed := 0x500000003 })).bus.resp = 3 := by
  decide +kernel
theorem test_register_write : ((after (.registerWrite .h0 0x100118 .w64 9) dev).ctx 1).step = 9 := by decide +kernel
theorem test_other_host_closed : after (.ctxSeedWrite .h1 0 7) dev = dev := by decide +kernel

/-! ## Contexts -/

theorem ctxOpen_dev (x : Master) (c : Nat) (hx : x = .m ∨ x = .h0) (hc : c < 100) : dev.ctxOpen x c := by
  refine ⟨?_, ?_, by omega⟩
  · rcases hx with rfl | rfl <;> rfl
  · rcases hx with rfl | rfl
    · rfl
    · simp [State.mayCtx, Master.host?, State.ctxOfHost, dev, State.hostCfg, Tab.get, hc]
theorem wit_seed : (∀ c ∈ dev.allCmds, c.ctx ≠ 0) ∧ ∃ c ∈ (withCmd (cmd 13 .ready [])).allCmds, c.ctx = 0 := by decide +kernel
theorem wit_profile : (dev.ctx 0).state = .off ∧ (0x10000000 : Word).toNat / 2 ^ 16 ≤ 4096 ∧ 4096 < (0x10010000 : Word).toNat / 2 ^ 16
    ∧ ((withCtx .on).ctx 0).state ≠ .off := by decide +kernel
/-- WEIGHT 255, ADMIT_MS 1,000, WDOG_S 60, and the least values; one of each that is out of range. -/
theorem wit_share : Master.h0.host?.isSome = true ∧ Master.m.host? = none
    ∧ (let good (v : Dword) : Bool := v.toNat % 2 ^ 8 ≠ 0 ∧ 1 ≤ v.toNat / 2 ^ 8 % 2 ^ 16 ∧ v.toNat / 2 ^ 8 % 2 ^ 16 ≤ 1000
          ∧ 10 ≤ v.toNat / 2 ^ 24 % 2 ^ 6 ∧ v.toNat / 2 ^ 24 % 2 ^ 6 ≤ 60
       good 0x3C03E8FF = true ∧ good 0x0A000101 = true ∧ good 0x0A000100 = false ∧ good 0x0A000001 = false ∧ good 0x0A03E901 = false
        ∧ good 0x09000101 = false ∧ good 0x3D000101 = false ∧ good 0x000010003C03E8FF = true)
    ∧ State.reset.cfg.cfgDone = false ∧ dev.cfg.cfgDone = true ∧ (1, 0) ≠ Tab.get (0, 0) dev.cfg.quota 0 := by decide +kernel
theorem test_share : ((after (.ctxShareWrite .h0 0 0x3D03E805) dev).ctx 0).weight = 5
    ∧ ((after (.ctxShareWrite .h0 0 0x3D03E805) dev).ctx 0).admitMs = 1000
    ∧ ((after (.ctxShareWrite .h0 0 0x3D03E805) dev).ctx 0).wdogS = 10 := by decide +kernel
/-- Doorbells at the ends of what fits: the tail itself, the full ring, one more; a queue not in use. -/
theorem wit_doorbell : let u : Sq := { Sq.zero with log2n := 6 }
    let fits (u : Sq) (v : Word) : Bool := (v = u.tail ∨ (1 ≤ (v - u.tail).toNat ∧ (v - u.tail).toNat ≤ 2 ^ 31 - 1))
      ∧ (v - u.head).toNat ≤ (if u.log2n = 0 then 0 else 2 ^ u.log2n)
    fits u 0 = true ∧ fits u 64 = true ∧ fits u 65 = false ∧ fits u (-1) = false ∧ fits Sq.zero 0 = true ∧ fits Sq.zero 1 = false := by
  decide
theorem wit_cq_head : let q : Cq := ⟨6, 0, 3, 5, []⟩
    let fits (v : Word) : Bool := (v - q.head).toNat ≤ 2 ^ 31 - 1 ∧ (q.tail - v).toNat ≤ 2 ^ 31 - 1
    fits 3 = true ∧ fits 5 = true ∧ fits 2 = false ∧ fits 6 = false := by decide
theorem test_doorbell : ((after (.sqDoorbell .h0 0 0 64) (dev.setCtx 0 { Ctx.zero with sq0 := { Sq.zero with log2n := 6 } })).ctx 0).sq0.tail = 64
    ∧ ((after (.sqDoorbell .h0 0 0 65) (dev.setCtx 0 { Ctx.zero with sq0 := { Sq.zero with log2n := 6 } })).ctx 0).sq0.tail = 0 := by
  decide +kernel
theorem wit_enable : (dev.ctx 0).state = .off ∧ dev.pwr.warming = false ∧ ((withCtx .saved).ctx 0).state ≠ .off
    ∧ { dev with pwr := { dev.pwr with warming := true } }.pwr.warming = true := by decide +kernel
theorem test_enable : ((after (.enable .h0 0) dev).ctx 0).state = .on := by decide +kernel
theorem wit_preempt : (withCtx .on).trc.dump.busy = false ∧ ((withCtx .on).ctx 0).state = .on
    ∧ (vm.modCtx 0 (fun x => { x with saveSize := 1 })).saveAreaBad 0 = none ∧ (withCtx .on).saveAreaBad 0 ≠ none
    ∧ (dev.ctx 0).state ≠ .on ∧ frozen.trc.dump.busy = true := by decide +kernel
theorem test_preempt : ((after (.preempt .h0 0) (vm.modCtx 0 (fun x => { x with saveSize := 1 }))).ctx 0).state = .preempting
    ∧ ((after (.preempt .h0 0) (withCtx .on)).ctx 0).state = .resetting := by decide +kernel
theorem test_preempt_frozen : (after (.preempt .h0 0) frozen).trc.dump.held = [.preempt .h0 0] := by decide +kernel
/-- A PREEMPTING context with an admitted command that has not started. -/
theorem wit_save : let s := (withCtx .preempting).setCmd 0 (some (cmd 7 .admitted []))
    (s.ctx 0).state = .preempting ∧ s.trc.dump.busy = false ∧ (∀ e ∈ (s.inOrder 0).filter (fun e => decide (e.1 < 4096)), e.2.savable = true)
    ∧ s.inOrder 0 ≠ [] ∧ (∀ w ∈ s.cmds.wagons, w.ctx = 0 → w.timedOut = true) := by decide +kernel
theorem test_save : let t := after (.ctxSaveDone 0) ((withCtx .preempting).setCmd 0 (some (cmd 7 .admitted [])))
    (t.ctx 0).state = .saved ∧ t.cmdList = [] ∧ ((t.ctx 0).saved.map (fun v => v.cmds.length)) = some 1 := by decide +kernel
/-- A SAVED context with a signal of its own; one whose signal has gone; a RESTORING context with nothing left to admit. -/
theorem wit_restore : let s := (withCtx .saved).modCtx 0 (fun x => { x with saved := some ⟨[], [(5, 0)], []⟩ })
    let l := s.setSig 5 { Signal.free with state := .live }
    s.trc.dump.busy = false ∧ (l.ctx 0).state = .saved
    ∧ (l.sigOf 5).state = .live ∧ (l.sigOf 5).owner = 0 ∧ (l.sigOf 5).cls = 0
    ∧ (s.sigOf 5).state ≠ .live ∧ (dev.ctx 0).state ≠ .saved ∧ ((withCtx .restoring).ctx 0).state = .restoring
    ∧ ((withCtx .restoring).ctx 0).saved = none := by decide +kernel
theorem test_restore : let s := (withCtx .saved).modCtx 0 (fun x => { x with saved := some ⟨[], [], []⟩ })
    ((after (.restore .h0 0) s).ctx 0).state = .restoring ∧ ((after (.ctxRestoreDone 0) (after (.restore .h0 0) s)).ctx 0).state = .on := by
  decide +kernel
theorem wit_reset_ctx : ((withCtx .on).ctx 0).state ≠ .off ∧ ((withCtx .on).ctx 0).state ≠ .resetting ∧ (dev.ctx 0).state = .off
    ∧ ((withCtx .resetting).ctx 0).state = .resetting ∧ (withCtx .resetting).cmdList = [] ∧ (withCtx .resetting).cmds.wagons = [] := by
  decide +kernel
theorem test_reset_ctx : ((after (.reset .h0 0) (withCtx .on)).ctx 0).state = .resetting
    ∧ ((after (.ctxResetDone 0) (withCtx .resetting)).ctx 0).state = .off := by decide +kernel
/-- The watchdog at the end of WDOG_S, with a command that has not retired; with and without AUTO_WDOG. -/
def overdue (auto : Bool) : State :=
  let s := (withCmd (cmd 7 .started [])).modCtx 0 (fun x => { x with wdogFrom := some 0 })
  { s with time := { s.time with cmdClk := 10000000000 }, trc := { s.trc with dump := { s.trc.dump with autoWdog := auto } } }
theorem wit_watchdog : (∀ a ∈ [false, true], ((overdue a).ctx 0).wdogFrom = some 0 ∧ ((overdue a).inOrder 0).any (fun e => decide (e.1 < 4096)) = true
    ∧ ((overdue a).ctx 0).state = .on ∧ (overdue a).trc.dump.busy = false
    ∧ ((overdue a).ctx 0).wdogS * 1000000000 ≤ (overdue a).time.cmdClk.toNat ∧ (overdue a).trc.dump.autoWdog = a) := by decide +kernel
theorem test_watchdog : ((after (.ctxWatchdog 0) (overdue false)).ctx 0).fault = true
    ∧ (after (.ctxWatchdog 0) (overdue true)).trc.dump.wdogCtx = some 0 := by decide +kernel
/-- Queue 0 of context 0 with a fetched record SEQ 0 of opcode 13, and its tail at 1. -/
def queued (op : Byte) : State :=
  vm.modCtx 0 (fun x => { x with sq0 := { Sq.zero with log2n := 6, tail := 1, head := 1
                                                       recs := [⟨0, op :: List.replicate 127 0, 0, some 0⟩] } })
theorem wit_abort : (vm.ctx 0).abortBusy = false ∧ vm.trc.dump.busy = false
    ∧ ¬(1 ≤ (((vm.ctx 0).sq 0).tail - 0).toNat)
    ∧ (let s := vm.modCtx 0 (fun x => { x with sq0 := { Sq.zero with log2n := 6, tail := 2, head := 2 } })
       1 ≤ (((s.ctx 0).sq 0).tail - 0).toNat ∧ (s.ctx 0).saved = none ∧ s.cmdList = [] ∧ ((s.ctx 0).sq 0).recs = []
       ∧ ((s.ctx 0).sq 0).head ≠ 0 ∧ serialAfter 32 ((s.ctx 0).sq 0).head.toNat 0 = false)
    ∧ ((queued 13).findTarget 0 0 0).2 = none ∧ (∃ r ∈ (((queued 13).ctx 0).sq 0).recs, r.seq = 0)
    ∧ (let s := (queued 13).setCmd 9 (some (cmd 7 .started []))
       (s.findTarget 0 0 0).2 = some 9 ∧ (s.cmd? 9).map (fun c => (c.phase, isError c.st, c.dual.isNone, c.loop.isNone)) = some (.started, false, true, true)) := by
  decide +kernel
theorem test_abort : ((after (.abort .h0 0 0 0) (queued 13)).ctx 0).abortRes = stAborted
    ∧ ((after (.abort .h0 0 0 1) (queued 13)).ctx 0).abortRes = stRange := by decide +kernel

/-! ## The life of a command -/

/-- A burst of 16 records of 20 that can be read; a queue that runs into an address that cannot. -/
theorem wit_fetch : let v : Sq := { Sq.zero with log2n := 6, tail := 20 }
    let s := vm.modCtx 0 (fun x => { x with sq0 := v })
    let e := vm.modCtx 0 (fun x => { x with sq0 := { v with addr := 0x3FFFF000 / 4096 } })
    (s.ctx 0).state = .on ∧ s.trc.dump.busy = false ∧ (List.range 16).all (fun i => (s.rdRecord 0 (128 * i) 128).isSome) = true
    ∧ (e.rdRecord 0 0x3FFFF000 128) = none := by decide +kernel
theorem test_fetch : let s := vm.modCtx 0 (fun x => { x with sq0 := { Sq.zero with log2n := 6, tail := 20 } })
    let t := after (.cmdFetch 0 0) s
    ((t.ctx 0).sq 0).recs.length = 16 ∧ ((t.ctx 0).sq 0).head = 16 := by decide +kernel
/-- What admission decides of a candidate. -/
def decides (s : State) (k : Cand) : Nat :=
  match (s.verdict k).1 with
  | .reject _ => 0
  | .wait _ => 1
  | .fits => 2
/-- A SIGNAL that fits; a record of a reserved opcode that is rejected; with no slot of quota left, a SIGNAL that waits. -/
def noQuota : State := let s := queued 13
  { s with cfg := { s.cfg with profile := .sleeper, quota := [(0, (1, 0))] }, time := { s.time with admClk := 10000000 } }.setCmd 0 (some (cmd 7 .ready []))
theorem wit_admit : ((queued 13).cands.map (fun k => (decides (queued 13) k, k.origin == .head))) = [(2, true)]
    ∧ ((queued 0x1F).cands.map (fun k => (decides (queued 0x1F) k, k.origin == .head))) = [(0, true)]
    ∧ (noQuota.cands.map (decides noQuota)) = [1]
    ∧ (∀ k ∈ (queued 13).cands, ((queued 13).verdict k).2.dual.isNone = true
      ∧ (queued 13).blockedBy (queued 13).cands k ((queued 13).verdict k).2.need = false
      ∧ ((queued 13).yardInit ((queued 13).mkCmd k ((queued 13).verdict k).2 ((queued 13).reserve ((queued 13).verdict k).2.need))).isNone = true) := by
  decide +kernel
theorem test_admit : let t := after .cmdAdmit (queued 13)
    (t.cmd? 0).map (fun c => (c.op, c.phase)) = some (13, .ready) ∧ ((t.ctx 0).sq 0).recs = [] := by decide +kernel
theorem test_reject : let t := after .cmdAdmit (queued 0x1F)
    t.cmd? 0 = none ∧ ((t.ctx 0).sq 0).recs = [] := by decide +kernel
/-- The wait has lasted ADMIT_MS; the command that holds the quota is older, then younger, than the candidate. -/
def younger : State := noQuota.setCmd 0 (some { cmd 7 .ready [] with fetchedAt := 5 })
theorem wit_admit_timeout : (noQuota.expired 0 0).isSome = true ∧ (younger.expired 0 0).isSome = true
    ∧ (noQuota.cands.map (fun k => match (noQuota.verdict k).1 with
      | .wait l => (youngest (k.fetchedAt, k.ctx) (noQuota.blockers l)).isNone && k.origin == .head
      | _ => false)) = [true]
    ∧ (younger.cands.map (fun k => match (younger.verdict k).1 with
      | .wait l => (youngest (k.fetchedAt, k.ctx) (younger.blockers l)).map (fun e => (e.1, e.2.dual.isNone))
      | _ => none)) = [some (0, true)] := by decide +kernel
theorem test_admit_timeout : (((after (.admitTimeout 0 0) noQuota).ctx 0).sq 0).recs = []
    ∧ (after (.admitTimeout 0 0) younger).cmd? 0 = none := by decide +kernel
/-- A command that is ready; a REDUCE on an axis of one; a GATHER that waits for UPD of its lease entry; a departure that has just come. -/
def leased : State :=
  let c := { cmd 10 .ready (block 0x80 [(9, [4]), (0x40, [0, 0, 1])]) with yard := some (yst 1 0) }
  let s := vm.setCmd 0 (some c)
  { s with yard := { s.yard with leases := [(0, some ⟨0x10010000, 0, 1, true, 0⟩)] } }
theorem wit_start : (∃ c, (withCmd (cmd 7 .ready [])).cmd? 0 = some c ∧ (withCmd (cmd 7 .ready [])).mayStart c = true ∧ c.beforeMain = false
      ∧ c.phase = .ready ∧ c.op = 7 ∧ c.yard = none ∧ (withCmd (cmd 7 .ready [])).leaseGo c = .go false)
    ∧ (∃ c y, (withCmd { cmd 9 .ready [] with yard := some (yst 1 0) }).cmd? 0 = some c ∧ c.yard = some y
      ∧ (withCmd { cmd 9 .ready [] with yard := some (yst 1 0) }).leaseGo c = .go false
      ∧ (withCmd { cmd 9 .ready [] with yard := some (yst 1 0) }).expectFault c = none
      ∧ (withCmd { cmd 9 .ready [] with yard := some (yst 1 0) }).yardDown c y = false) :=
  ⟨⟨_, rfl, by decide +kernel⟩, ⟨_, _, rfl, rfl, by decide +kernel⟩⟩
theorem wit_start_lease : (leased.cmd? 0).map (fun c => (leased.mayStart c, c.beforeMain, c.op, leased.leaseGo c)) = some (true, false, 10, .wait false) := by
  decide +kernel
theorem test_start : let s := (withCmd { cmd 7 .ready [] with held := [(1, 2)] })
    ((after (.cmdStart 0) s).cmd? 0).map (fun c => (c.phase, c.held)) = some (.started, []) := by decide +kernel
theorem test_start_lease : ((after (.cmdStart 0) leased).cmd? 0).map (fun c => (c.phase, c.leaseAt)) = some (.ready, some 0) := by decide +kernel
theorem wit_retire : (∃ c, (withCmd (cmd 7 .worked [])).cmd? 0 = some c ∧ c.dual = none ∧ c.parent = none
      ∧ (withCmd (cmd 7 .worked [])).atRetirePoint 0 c = true)
    ∧ (∃ c, (withCmd (cmd 13 .ready [])).cmd? 0 = some c ∧ c.op = 0x0D ∧ c.phase = .ready ∧ (withCmd (cmd 13 .ready [])).departed c = true ∧ (withCmd (cmd 13 .ready [])).asleep = false)
    ∧ (∃ c, (withCmd (cmd 14 .started [])).cmd? 0 = some c ∧ c.op = 0x0E ∧ c.phase = .started ∧ (withCmd (cmd 14 .started [])).departed c = true) :=
  ⟨⟨_, rfl, by decide +kernel⟩, ⟨_, rfl, by decide +kernel⟩, ⟨_, rfl, by decide +kernel⟩⟩
/-- The completion queue of context 0 in host memory, with one entry free. -/
def withCq : State :=
  (vm.setCmd 0 (some (cmd 7 .worked []))).modCtx 0 (fun x => { x with cq := ⟨6, 0x10000, 0, 63, []⟩ })
theorem wit_record : (∃ c, withCq.cmd? 0 = some c ∧ withCq.atRetirePoint 0 c = true ∧ c.started = true ∧ isError c.st = false ∧ c.dual = none
      ∧ c.loop = none ∧ c.parent = none ∧ c.body = none ∧ c.atRetire = [] ∧ c.posts = [])
    ∧ withCq.xlt.mig = [] ∧ (withCq.ctx 0).state ≠ .resetting ∧ (withCq.ctx 0).cq.log2n ≠ 0 ∧ (withCq.ctx 0).cq.waiting = []
    ∧ (withCq.ctx 0).cq.room = true ∧ withCq.acc 0 (0x10000 * 4096 + 64 * 63) true = .plain (.host 0 4032) :=
  ⟨⟨_, rfl, by decide +kernel⟩, by decide +kernel⟩
theorem test_record : (after (.cmdRetire 0) withCq).cmd? 0 = none ∧ ((after (.cmdRetire 0) withCq).ctx 0).cq.tail = 64
    ∧ ((after (.cmdRetire 0) withCq).hostFn 0).stream = [.record 4032] := by decide +kernel
theorem test_signal : (after (.signal 0) (withCmd (cmd 13 .ready []))).cmd? 0 = none
    ∧ ((after (.fence 0) (withCmd (cmd 13 .ready []))).cmd? 0).isSome = true := by decide +kernel
theorem test_fence : (after (.fence 0) (withCmd (cmd 14 .ready []))).cmd? 0 = none := by decide +kernel
/-- A wait for a signal that is not there, past the end of its time. -/
def waiting : State :=
  let s := withCmd { cmd 7 .admitted [] with waitLeft := 0, crec := { (cmd 7 .admitted []).crec with waits := [⟨5, 1, 1⟩] } }
  { s with time := { s.time with cmdClk := 4 } }
theorem wit_wait_timeout : (waiting.cmd? 0).map (fun c => (waiting.waitOver c, isError c.st)) = some (true, false) := by decide +kernel
theorem test_wait_timeout : (after (.waitTimeout 0) waiting).cmd? 0 = none := by decide +kernel
theorem wit_stall : (∃ c, (withCmd (cmd 7 .started [])).cmd? 0 = some c ∧ c.started = true ∧ isError c.st = false ∧ c.yielded = false ∧ c.loop = none
      ∧ (withCmd (cmd 7 .started [])).heldByPort 0 = false ∧ (withCmd (cmd 7 .started [])).stallAt 0 c ≤ (withCmd (cmd 7 .started [])).time.cmdClk.toNat)
    ∧ (let s := (withCtx .preempting).setCmd 0 (some (cmd 7 .started []))
       (s.ctx 0).state = .preempting ∧ (s.cmd? 0).map (fun c => s.yields 0 c) = some false ∧ (s.ctx 0).preemptBy ≤ s.time.cmdClk.toNat) :=
  ⟨⟨_, rfl, by decide +kernel⟩, by decide +kernel⟩
theorem test_stall : ((after (.stallTimeout 0) (withCmd (cmd 7 .started []))).cmd? 0).map (fun c => (c.status, c.phase))
    = some (some (stTimeout, 0x03), .worked) := by decide +kernel
theorem test_preempt_retire : ((after (.preemptRetireTimeout 0) ((withCtx .preempting).setCmd 0 (some (cmd 7 .started [])))).cmd? 0).map (fun c => c.status)
    = some (some (stTimeout, 0x03)) := by decide +kernel
/-- A MATMUL of a PREEMPTING context that has issued nothing, with a save area of 2 × 64 KiB. -/
def yielding : State :=
  ((vm.modCtx 0 (fun x => { x with state := .preempting, saveSize := 2 })).setCmd 0 (some (cmd 1 .started (block 192 []))))
theorem wit_yield : (∃ c, yielding.cmd? 0 = some c ∧ (yielding.ctx 0).state = .preempting ∧ c.yielded = false ∧ c.mayYield = true
    ∧ c.settled = true ∧ c.eaten = 0 ∧ yielding.yields 0 c = true) := ⟨_, rfl, by decide +kernel⟩
theorem test_yield : ((after (.yield 0) yielding).cmd? 0).map (fun c => c.yielded) = some true := by decide +kernel
/-- A loop before its first iteration, between iterations, and after its last. -/
def looping (began : Bool) (iter : Nat) : LoopSt := ⟨2, 0, 1, 1, false, false, iter, if began then 1 else 0, [], began, false, [], 0, 0, 0, none⟩
def withLoop (l : LoopSt) : State := vm.setCmd 0 (some { cmd 15 .started [] with loop := some l })
theorem wit_loop : (∀ l ∈ [looping false 0, looping true 0], l.mayBegin = true ∧ (vm.rdRecord 0 l.body (128 * l.nbody)).isSome = true)
    ∧ (looping true 1).over false = true ∧ (looping true 0).over false = false ∧ (vm.ctx 0).state = .on
    ∧ (cmd 15 .started []).started = true ∧ isError (cmd 15 .started []).st = false := by decide +kernel
theorem test_loop : ((after (.loopIteration 0) (withLoop (looping false 0))).ctx 0).step = 1
    ∧ ((after (.stepLoop 0) (withLoop (looping true 1))).cmd? 0).map (fun c => c.phase) = some .worked := by decide +kernel
/-- A dual-path load at its decision instant, with and without a wagon in flight; DL_STRICT set. -/
def dualSt (alt : Bool) : DualSt :=
  { phase := .load, ckpt := 0, stage := ⟨false, false, false, 0, 0, 0, 0, .blocks 0 0 0 []⟩, alt := none, fmtStage := 0, fmtAlt := 0, leadNs := 0, branchAlt := alt
    stored := true, comp := false, loc := 0, bytes := 0, ckStep := 0, prog := 0, nprog := 0, path := 0, decided := false, entered := true
    mainIn := false, pieces := [], got := [], need := 0, loadDone := false, loadBad := false, progPos := 0, progBusy := [], stageDone := none, dlMiss := false
    since := none, outs := 0 }
def withDual (strict : Bool) (ws : List Wagon) : State :=
  State.wagons ((vm.setCmd 0 (some { cmd 7 .started [] with dual := some (dualSt false) })).modCtx 0 (fun x => { x with dlStrict := strict })) ws
theorem wit_decision : decideAt (cmd 7 .started []).crec (dualSt false) ≤ vm.time.now.toNat ∧ (dualSt false).phase = .load ∧ (dualSt false).decided = false
    ∧ vm.cfg.profile = .express ∧ (State.wagons vm [wag .read (.hbm 0)]).unacked 0 ≠ [] ∧ vm.unacked 0 = [] ∧ (dualSt false).branchAlt = false
    ∧ (let s := { withDual false [] with cfg := { dev.cfg with profile := .freight } }
       ¬(s.cfg.profile ≠ .freight ∨ (s.ctx 0).dlStrict = true)) := by decide +kernel
theorem test_decision : (after (.dualPathDecision 0) (withDual true [])).cmd? 0 = none
    ∧ ((after (.dualPathDecision 0) (withDual true [wag .read (.hbm 0)])).cmd? 0).map (fun c => c.dual.map (fun d => (d.phase, d.path)))
      = some (some (.branch, 1)) := by decide +kernel

/-! ## Wagons -/

theorem wit_read_wagon : (∀ l ∈ [Loc.hbm 0, .plat 0 0, .depot 0, .host 0 0],
      (wag .read l).isLocal = true ∧ (wag .read l).served = false ∧ (wag .read l).req.kind = .read
      ∧ (State.wagons vm [wag .read l]).wagon? 3 = some (wag .read l)) := by decide +kernel
theorem test_read_wagon : ((after (.readWagonServe 3 .uncorrectable) (State.wagons vm [wag .read (.hbm 0)])).wagon? 3).map
      (fun x => (x.data.take 2, x.bad)) = some ([0x01, 0x80], true) := by decide +kernel
theorem wit_write_wagon : (State.wagons vm [wag .write (.hbm 0)]).behind (wag .write (.hbm 0)) = false ∧ (wag .write (.hbm 0)).isLocal = true
    ∧ (wag .acc (.hbm 0)).req.kind = .acc ∧ vm.mem.eccAt (.hbm 0) ≠ .uncorrectable
    ∧ (State.wagons (vm.setCmd 0 (some (cmd 7 .started []))) [wag .acc (.hbm 0)]).behind (wag .acc (.hbm 0)) = false := by decide +kernel
theorem test_write_wagon : let m := (after (.writeWagonApply 3) (State.wagons vm [wag .write (.hbm 0)])).mem
    m.get (.hbm 0) = 1 ∧ m.get (.hbm 1) = 0x80 ∧ m.get (.hbm 511) = 2 := by decide +kernel
theorem test_acc_wagon : let m := (after (.accWagonApply 3 .clean) (State.wagons vm [wag .acc (.hbm 0x20000)])).mem
    m.read (.hbm 0x20000) 4 = [0, 0, 0x80, 0x3F] := by decide +kernel
/-- A served read; a served write; a write at the end of its time; a wagon whose command has gone. -/
def arrived : Wagon := { wag .read (.hbm 0) with served := true, data := List.replicate 512 7 }
theorem wit_wagons_back : (State.wagons (withCmd (cmd 7 .started [])) [arrived]).wagon? 3 = some arrived ∧ arrived.arrived = false ∧ arrived.discard = false
    ∧ arrived.timedOut = false ∧ arrived.bad = false ∧ arrived.req.field ≠ loadField ∧ arrived.req.field ≠ stageField
    ∧ (withCmd (cmd 7 .started [])).cmd? 0 = some (cmd 7 .started []) ∧ arrived.due ≤ dev.time.clk.toNat
    ∧ dev.timerHeld (wag .write (.hbm 0)) = false ∧ dev.cmd? 0 = none := by decide +kernel
theorem test_wagon_arrive : ((after (.wagonArrive 3) (State.wagons (withCmd (cmd 7 .started [])) [arrived])).wagon? 3).map (fun x => x.arrived) = some true
    ∧ (after (.wagonAck 3) (State.wagons (withCmd (cmd 7 .started [])) [{ arrived with arrived := true }])).cmds.wagons = [] := by decide +kernel
theorem test_wagon_timeout : ((after (.wagonTimeout 3) (State.wagons (withCmd (cmd 7 .started [])) [wag .write (.hbm 0)])).cmd? 0).map (fun c => c.status)
    = some (some (stTimeout, 0x02)) := by decide +kernel
theorem wit_scrub : vm.cfg.scrubHours ≠ 0 ∧ vm.inv.stackOk.contains 7 = true ∧ vm.pwr.state < 3 ∧ (vm.scrubLine 7).isSome = true := by decide +kernel
theorem test_scrub : Tab.get 0 (after (.patrolScrub 0 .clean) vm).mem.scrubPos 0 = 1
    ∧ (after (.patrolScrub 0 .uncorrectable) vm).log.next = 1 := by decide +kernel

/-! ## Signals -/

/-- `dev` with signal 5 of context 0, selected by the host. -/
def withSig (cls : Nat) (v : Word) : State :=
  (dev.setSig 5 { Signal.free with state := .live, cls := cls, value := v }).setSigRegs .h0 { SigRegs.zero with sel := 5 }
theorem sigOpen_dev (v : Word) (cls : Nat) : (withSig cls v).sigOpen .h0 5 := ⟨rfl, rfl, rfl, rfl⟩
theorem wit_bind_signal : dev.sigOpen .h0 (dev.sigRegs .h0).sel ∧ (dev.sigOf 0).state = .free ∧ dev.mayCtx .h0 99 = true
    ∧ (dev.ownedSigs 99).length < 256 ∧ ((withSig 0 0).sigOf 5).state = .live ∧ ((withSig 0 0).sigOf 5).refs = 0
    ∧ ((withSig 0 0).sigOf 5).ownerSaved = false := ⟨⟨rfl, rfl, rfl, rfl⟩, by decide +kernel⟩
theorem test_bind_signal : ((after (.sigBind .h0 1 3 9) dev).sigOf 0).value = 9
    ∧ ((after (.sigUnbind .h0) (withSig 0 0)).sigOf 5).state = .free := by decide +kernel
theorem test_clrsat : ((after (.clrsat .h0) ((withSig 1 7).setSig 5 { Signal.free with state := .live, cls := 1, sat := true })).sigOf 5).sat = false := by
  decide +kernel
/-- Each class and POP at the end of the range: the largest ADD, the ADD past it, the largest SUB, the SUB past it, SET. -/
theorem wit_posts : Posts ((withSig 0 0xFFFFFFFE).sigOf 5) 1 1 (some (0xFFFFFFFF, false)) ∧ Posts ((withSig 0 0xFFFFFFFF).sigOf 5) 1 1 none
    ∧ Posts ((withSig 1 0xFFFFFFFF).sigOf 5) 1 1 (some (0xFFFFFFFF, true)) ∧ Posts ((withSig 0 3).sigOf 5) 2 3 (some (0, false))
    ∧ Posts ((withSig 0 3).sigOf 5) 2 4 none ∧ Posts ((withSig 1 3).sigOf 5) 3 4 (some (4, false))
    ∧ ((withSig 0 3).sigOf 5).waiters = [] ∧ ((withSig 0 3).sigRegs .h0).sel = 5 := by
  refine ⟨?_, ?_, ?_, ?_, ?_, ?_, by decide +kernel, by decide +kernel⟩ <;> (unfold Posts; decide +kernel)
theorem test_post_range : ((after (.sigPost .h0 1 1) (withSig 0 0xFFFFFFFF)).sigOf 5).value = 0xFFFFFFFF
    ∧ (after (.sigPost .h0 1 1) (withSig 0 0xFFFFFFFF)).log.next = 1
    ∧ ((after (.sigPost .h0 1 1) (withSig 1 0xFFFFFFFF)).sigOf 5).sat = true := by decide +kernel
theorem test_sig_add : ((after (.sigAdd .h0 5 4) (withSig 0 3)).sigOf 5).value = 7 := by decide +kernel
/-- A command that waits for 3 tokens of a signal that holds 2. -/
def taking : State :=
  let s := (withSig 0 2).setCmd 0 (some { cmd 7 .admitted [] with crec := { (cmd 7 .admitted []).crec with waits := [⟨5, 4, 3⟩] } })
  (s.setCtx 0 { Ctx.zero with state := .on }).setSig 5 { Signal.free with state := .live, value := 2, waiters := [⟨0, 0, 4, 3⟩] }
theorem wit_release : taking.sigOpen .h0 5 ∧ (taking.sigOf 5).state = .live ∧ (taking.sigOf 5).waiters = [⟨0, 0, 4, 3⟩]
    ∧ (taking.cmd? 0).map (fun c => (c.phase, c.waits)) = some (.admitted, [(0, ⟨5, 4, 3⟩)]) := ⟨⟨rfl, rfl, rfl, rfl⟩, by decide +kernel⟩
theorem test_take : let t := after (.sigAdd .h0 5 1) taking
    (t.cmd? 0).map (fun c => (c.phase, c.held)) = some (.ready, [(5, 3)]) ∧ (t.sigOf 5).value = 0 := by decide +kernel
theorem wit_all_or_none : (withSig 0 3).postsFit [⟨5, 2, 3⟩] = true ∧ (withSig 0 3).postsFit [⟨5, 2, 2⟩, ⟨5, 2, 2⟩] = false
    ∧ ((withSig 0 3).sigOf 5).state = .live := by decide +kernel

/-! ## Mailboxes -/

/-- Channel 0 between host function 0 (side A) and the management core. -/
def withChan : State := { dev with cfg := { dev.cfg with mbxBind := [(0, ⟨1, 8, true, 0⟩)] } }
/-- Host function 0 with MSI-X enabled and vector 1 unmasked. -/
def openVec : HostFn := { dev.hostFn 0 with pci := [(0x80, 0x80000000)], msixTab := [(1, ⟨0, 0, false⟩)] }
theorem wit_lock : ((withChan.mbxBind 0).side Master.h0.code).isSome = true ∧ (withChan.chan 0).owner = 0
    ∧ ((withChan.setChan 0 { Chan.reset with owner := 8 }).chan 0).owner ≠ 0 ∧ ((withChan.mbxBind 1).side Master.h0.code).isSome = false
    ∧ withChan.regOpen .h0 = true ∧ ((withChan.setChan 0 { Chan.reset with owner := 1 }).chan 0).owner = Master.h0.code := by decide +kernel
theorem test_lock : ((after (.mbxLockRead .h0 0) withChan).chan 0).owner = 1
    ∧ (after (.mbxLockRead .h0 0) (withChan.setChan 0 { Chan.reset with owner := 8 })).bus.resp = 8 := by decide +kernel
theorem test_unlock : ((after (.mbxLockWrite .m 0 0) (withChan.setChan 0 { Chan.reset with owner := 1 })).chan 0).owner = 0 := by decide +kernel
theorem wit_ring_doorbell : (withChan.mbxBind 0).side Master.h0.code = some false ∧ (withChan.mbxBind 0).side Master.m.code = some true
    ∧ withChan.trc.dump.busy = false ∧ (withChan.mbxBind 0).who false = 0 + 1 ∧ (withChan.hostFn 0).present = true ∧ ((withChan.setHost 0 openVec).hostFn 0).vectorOpen 1 = true
    ∧ (let c : Chan := { Chan.reset with mask := 0 }
       c.db &&& ~~~ c.mask &&& ~~~ (0x0000FFFF : Word) = 0 ∧ (0x00010000 : Word) &&& ~~~ c.mask &&& ~~~ (0x0000FFFF : Word) ≠ 0) := by decide +kernel
theorem test_dbset : let t := after (.mbxDbset .m 0 0x00010001) ((withChan.setChan 0 { Chan.reset with mask := 0 }).setHost 0 openVec)
    (t.chan 0).db = 0x00010000 ∧ (t.hostFn 0).stream.contains (.msix 1) = true := by decide +kernel
theorem test_dbclr : ((after (.mbxDbclr .h0 0 0xFFFFFFFF) (withChan.setChan 0 { Chan.reset with db := 0x00030003 })).chan 0).db = 0x00000003 := by
  decide +kernel
theorem test_mask : ((after (.mbxMask .h0 0 0) withChan).chan 0).mask = 0x0000FFFF := by decide +kernel

/-! ## The table unit -/

/-- The bind record of a KV set of 3 frames of 4 KiB, 4 sequences, 8 page entries, one layer, BF16 rows of 32. -/
def bindRec : List Byte :=
  block 64 [(2, [0x10]), (10, [0x20]), (0x11, [0x30]), (0x18, [3]), (0x1D, [0x10]), (0x20, [4]), (0x24, [8]), (0x28, [1]), (0x2A, [1]), (0x2C, [32])
            , (0x30, [1]), (0x34, [1])]
/-- `vm` with table arguments. -/
def withArgs (a0 a1 a2 : Dword) : State := vm.setTblRegs .h0 { TblRegs.zero with arg0 := a0, arg1 := a1, arg2 := a2 }
def kvSlot : TblSlot := { TblSlot.unbound with bound := true, kv := some (parseBind bindRec), dir0 := [(0, [1])], dir1 := [(0, [1])] }
def kvState (a0 a1 a2 : Dword) : State := (withArgs a0 a1 a2).setTbl 1 0 kvSlot
theorem wit_tblOpen : vm.tblOpen .m 1 4095 ∧ vm.tblOpen .h0 2 0 ∧ vm.tblOpen .m 4 7 :=
  ⟨⟨rfl, rfl, by decide⟩, ⟨rfl, rfl, by decide⟩, ⟨rfl, rfl, by decide⟩⟩
theorem wit_bind : (kvState 0 0 0).tblOpen .h0 1 0 ∧ (∃ k, vm.hostOfCtx 0 = some k) ∧ vm.mayCtx .h0 0 = true ∧ (vm.tblSlot 2 0).bound = false
    ∧ vm.storeUsed 0 + 4096 ≤ (vm.hostCfg 0).tstoreMib * 2 ^ 20 ∧ (kvState 0 0 0).latchedGens 1 0 = [] ∧ (kvState 0 0 0).holders 1 0 = 0
    ∧ bindBad bindRec = false ∧ vm.rangeFault 0 0x100 64 false = none :=
  ⟨⟨rfl, rfl, rfl, by decide, by decide, by decide, rfl⟩, ⟨0, rfl⟩, by decide +kernel⟩
/-- A LOAD of 32 bytes into a slot of kind 2; a command that holds the shadow bank. -/
theorem wit_load : let t : TblSlot := { TblSlot.unbound with bound := true, bankBytes := 32 }
    (match vm.loadSrc 2 t 0 32 with | .ok b => b.length == 32 | .error _ => false) = true
    ∧ ((vm.setTbl 2 0 t).setCmd 0 (some { cmd 7 .started [] with latches := [(2, 0, 1)] })).holders 2 0 ≠ 0 := by decide +kernel
theorem test_bind : ((after (.bind .h0 2 0 0) (withArgs 32 0 0)).tblSlot 2 0).bankBytes = 32
    ∧ (after (.bind .h0 2 0 0) (withArgs 32 0 0)).tblSlot 2 1 = TblSlot.unbound := by decide +kernel
theorem test_bind_kv : let s := withArgs 0x100 0 0
    ((after (.bind .h0 1 0 0) { s with mem := s.mem.write (.hbm 0x10000100) bindRec }).tblSlot 1 0).kv = some (parseBind bindRec) := by decide +kernel
theorem test_unbind : ((after (.unbind .h0 1 0) (kvState 0 0 0)).tblSlot 1 0) = TblSlot.unbound := by decide +kernel
theorem test_load : let s := (withArgs 0 4 0).setTbl 2 0 { TblSlot.unbound with bound := true, bankBytes := 32, bank1 := List.replicate 32 9 }
    ((after (.load .h0 2 0) { s with mem := s.mem.write (.hbm 0x10000000) [1, 2, 3, 4] }).tblSlot 2 0).bank1.take 6 = [1, 2, 3, 4, 9, 9] := by
  decide +kernel
theorem test_swap : ((after (.swap .h0 1 0) (kvState 0 0 0)).tblSlot 1 0).gen = 1 := by decide +kernel
theorem test_sync : ((after (.sync .h0 1 0) ((withArgs 0 0 0).setTbl 1 0 { kvSlot with dir1 := [] })).tblSlot 1 0).dir1 = [(0, [1])] := by
  decide +kernel
/-- MAP of one entry, of none; FORK, TRIM and MOVE between two sequences. -/
theorem wit_pages : (kvState 0x200000000 1 0).holders 1 0 = 0 ∧ kvSlot.kv = some (parseBind bindRec) ∧ kvSlot.bound = true
    ∧ 0 < (parseBind bindRec).nseqMax ∧ (kvState 0 1 0x100).argOk 0 0x100 4 true = true
    ∧ (BitVec.ofNat 32 (leNat ((kvState 0 1 0x100).rdBytes 0 0x100 4)) : Word).toNat < kvSlot.frames ∧ kvSlot.cnt 1 0 < 0xFFFF
    ∧ kvSlot.entries 1 + (2 + 1 - (kvSlot.pages 1 0).length) ≤ (parseBind bindRec).pagesMax
    ∧ kvSlot.pages 1 3 = [] ∧ 1 ≤ (kvSlot.pages 1 0).length ∧ (kvSlot.pages 1 0).take 1 = [1] ∧ kvSlot.cnt 1 1 < 0xFFFF := by
  decide +kernel
theorem test_map : ((after (.map .h0 1 0) (kvState 0x200000000 1 0x100)).tblSlot 1 0).pages 1 0 = [1, 0xFFFFFFFF, 0] := by decide +kernel
theorem test_fork : ((after (.fork .h0 1 0) (kvState 3 1 0)).tblSlot 1 0).pages 1 3 = [1]
    ∧ ((after (.fork .h0 1 0) (kvState 3 1 0)).tblSlot 1 0).pages 0 3 = [] := by decide +kernel
theorem test_trim : ((after (.trim .h0 1 0) (kvState 0 0 0)).tblSlot 1 0).pages 1 0 = [] := by decide +kernel
theorem test_move : ((after (.move .h0 1 0) (kvState 3 0 0)).tblSlot 1 0).pages 1 3 = [1]
    ∧ ((after (.move .h0 1 0) (kvState 3 0 0)).tblSlot 1 0).pages 1 0 = [] := by decide +kernel
theorem wit_outcomes : (vm.tblSlot 1 0).bound = false ∧ ((kvState 1 0 0).tblSlot 1 0).bound = true ∧ (1 : Dword).toNat < kvSlot.frames
    ∧ ((after (.swap .h0 1 0) (kvState 0 0 0)).tblRegs .h0).busy = true ∧ (after (.swap .h0 1 0) (kvState 0 0 0)).regOpen .h0 = true := by decide +kernel
theorem test_query : ((after (.tableOpComplete .h0) (after (.query .h0 1 0) (kvState 0 0 0))).tblRegs .h0).info.getLsbD 33 = true := by decide +kernel
theorem test_count : ((after (.tableOpComplete .h0) (after (.count .h0 1 0) (kvState 1 0 0))).tblRegs .h0).result = 0x00010001 := by decide +kernel
/-- A paged write to frame 1, which both banks name for two sequences; frames 0 and 2 are free; then the same write to a frame of its own. -/
def paging (shared : Bool) : State :=
  let t := if shared then { kvSlot with dir0 := [(0, [1]), (2, [1])] } else kvSlot
  (vm.setTbl 1 0 t).setCmd 0 (some { cmd 7 .worked [] with paged := [⟨0, 5, 0, 0, 0, 0, 0, 0, [(8, [1, 2])]⟩] })
theorem wit_cow : (∀ b ∈ [true, false], let s := paging b
      s.trc.dump.busy = false ∧ ((s.tblSlot 1 0).kv.map (fun k => k.frames)) = some 3 ∧ (s.tblSlot 1 0).frameOf 0 0 0 = some 1
      ∧ s.xlt.mig = [] ∧ (s.cmd? 0).map (fun c => c.outQ) = some [])
    ∧ (let t := (paging true).tblSlot 1 0
       (t.shares 0 0 1).2 < t.cnt 0 1 + t.cnt 1 1 ∧ t.freeFrame = some 0 ∧ (paging true).copyFault 0 (parseBind bindRec) 1 0 = none)
    ∧ (let t := (paging false).tblSlot 1 0
       t.cnt 0 1 + t.cnt 1 1 ≤ (t.shares 0 0 1).2 ∧ (paging false).rangeFault 0 ((parseBind bindRec).frameVa 0 0 1 8) 2 true = none) := by
  decide +kernel
theorem test_cow : let s := (paging true).setTbl 1 0 { (paging true).tblSlot 1 0 with kv := some { parseBind bindRec with layers := 0 } }
    let t := (after (.copyOnWrite 0) s).tblSlot 1 0
    t.pages 0 0 = [0] ∧ t.pages 1 0 = [0] ∧ t.pages 0 2 = [1] := by decide +kernel
theorem test_paged_write : ((after (.pagedWrite 0) (paging false)).cmd? 0).map (fun c => c.paged) = some []
    ∧ (after (.pagedWrite 0) (paging false)).cmds.wagons.length = 1 := by decide +kernel
/-- An invalidation of page 1 with a wagon of page 0, of page 1, issued before it. -/
def invalAt (vpn : Nat) : State := (State.wagons vm [{ wag .read (.hbm 0) with req := { (wag .read (.hbm 0)).req with va := 0x100 } }]).setInval .h0
  (some ⟨0, false, vpn, 1, 4⟩)
theorem wit_inval : vm.mayCtx .h0 (vm.xltSel .h0) = true ∧ vm.xltInval .h0 = none ∧ ((invalAt 1).xltInval .h0).isSome = true
    ∧ (∀ w ∈ (invalAt 1).cmds.wagons, w.ctx = 0 ∧ w.id < 4 ∧ w.req.va ≠ 0 ∧ w.req.va / 65536 < 1)
    ∧ (∃ w ∈ (invalAt 0).cmds.wagons, w.ctx = 0 ∧ w.id < 4 ∧ 0 ≤ w.req.va / 65536 ∧ w.req.va / 65536 < 0 + 1) := by decide +kernel
theorem test_inval : ((after (.xltInval .h0 0x20003) vm).xltInval .h0).map (fun i => (i.vpn, i.pages)) = some (1, 4)
    ∧ (after (.xltInvalComplete .h0) (invalAt 0)).xltInval .h0 ≠ none := by decide +kernel
theorem test_inval_done : (after (.xltInvalComplete .h0) (invalAt 1)).xltInval .h0 = none := by decide +kernel
/-! ## The work of a command -/

/-- `vm` with a started command of an opcode and a parameter block in slot 0. -/
def working (op : Nat) (pb : List Byte) : State := vm.setCmd 0 (some (cmd op .started pb))
/-- The hypotheses of a compute row on such a state. -/
def computes (s : State) (op : Nat) (c : Cmd) (st : Stage) : Bool :=
  s.xlt.mig.isEmpty && s.workable 0 op false == some c && c.ring.isNone && c.stages == [st] && st.op == op && (handIns st).isEmpty
    && !s.strangeParts c && s.ready 0 c == (s, true) && c.outQ.isEmpty
    && (let s0 := s.landPanels c
      match s0.stageWork c 0 st ⟨c.pos, c.pos + 1⟩ (fun _ => none) with
      | some w => s.outFault c 0 w == none && !tooLong c 0 st w
          && ((s0.writeParts w.parts).outReqs 0 c 0 op w).all (fun r => match r.line with | .peer _ _ => false | _ => true)
      | none => false)
/-- The bytes of a parameter block by opcode. -/
def blockLen (op : Nat) : Nat := if op = 1 then 192 else if op = 7 then 128 else 256
theorem wit_compute : ([1, 2, 3, 5, 6, 7].map (fun op => computes (working op (block (blockLen op) [])) op (cmd op .started (block (blockLen op) []))
    ⟨op, block (blockLen op) [], [], [], []⟩)) = [true, true, true, true, true, true] := by decide +kernel
def strided (base n : Nat) : Desc := ⟨false, false, false, 0, 1, 0, 0, .strided base n 1 1 1 1 0 0 0 0⟩
/-- A tile that holds the line of a demanded field at `va`, in the HBM of `vm`; its first bytes. -/
def held (f idx va : Nat) (b : List Byte) : Tile :=
  ⟨0, f, idx, [(.hbm (0x10000000 + va), some (b ++ List.replicate (512 - b.length) 0))], 8, 0, .now⟩
/-- COPY of 8 bytes from 0x2_0000 to 0x3_0000, whose source has been fetched. -/
def copying : Cmd :=
  let pb := block 128 [(0, [4]), (0x10, [1]), (0x14, [1]), (0x28, [1])]
  { cmd 7 .started pb with stages := [⟨7, pb, [(5, strided 0x20000 8), (6, strided 0x30000 8)], [0], []⟩], tiles := [held 5 (tileIdx 0 0) 0x20000 [1, 2, 3]] }
theorem wit_copy : computes (vm.setCmd 0 (some copying)) 7 copying (nth Stage.none copying.stages 0) = true := by decide +kernel
theorem test_copy : let t := after (.copy 0) (vm.setCmd 0 (some copying))
    t.cmds.wagons.map (fun w => (w.req.line, w.req.bytes.take 4)) = [(.hbm 0x10030000, [(0, 1), (1, 2), (2, 3), (3, 0)])]
      ∧ (t.cmd? 0).map (fun c => c.phase) = some .worked := by decide +kernel
/-- A chain of two COPY stages that copy nothing. -/
def chaining : Cmd :=
  let c := cmd 0 .started []
  { c with crec := { c.crec with chain := true }, stages := [⟨7, block 128 [], [], [], []⟩, ⟨7, block 128 [], [], [], []⟩] }
theorem wit_chain : let s := vm.setCmd 0 (some chaining)
    s.xlt.mig = [] ∧ s.workable 0 0 true = some chaining ∧ chaining.ring = none ∧ chaining.outQ = []
    ∧ s.strangeParts chaining = false ∧ bandWrites chaining.stages [] = [] ∧ s.ready 0 chaining = (s, true)
    ∧ (match State.runStages chaining chaining.stages.zipIdx (s.landPanels chaining) [] with
      | (_, some done) => done.length == 2 && done.zipIdx.all (fun e => s.outFault chaining e.2 e.1.2 == none && !tooLong chaining e.2 e.1.1 e.1.2
          && (s.outReqs 0 chaining e.2 e.1.1.op e.1.2).isEmpty) && (bandWrites chaining.stages done).isEmpty
      | _ => false) = true := by decide +kernel
theorem test_chain : ((after (.fusedChain 0) (vm.setCmd 0 (some chaining))).cmd? 0).map (fun c => c.phase) = some .worked := by decide +kernel
/-- ATTN_BWD in SPLIT and ACCUM mode, and its second sweep. -/
def sweep (flags info : Nat) : Cmd :=
  { cmd 4 .started (block 256 [(0x0C, [BitVec.ofNat 8 flags])]) with info := BitVec.ofNat 8 info }
theorem wit_bwd : ∀ e ∈ [(0, 0), (0x40, 0), (0x40, 1)], let c := sweep e.1 e.2
    let s := vm.setCmd 0 (some c)
    let st : Stage := ⟨4, block 256 [(0x0C, [BitVec.ofNat 8 e.1])], [], [], []⟩
    s.xlt.mig = [] ∧ s.workable 0 4 false = some c ∧ c.ring = none ∧ c.stages = [st] ∧ c.outQ = [] ∧ s.unacked 0 = [] ∧ st.units ≤ c.pos + 1
      ∧ (atPar 4 st.pb).accum = (e.1 == 0x40) := by decide +kernel
theorem wit_bwd_work : ∀ e ∈ [(0, 0), (0x40, 0), (0x40, 1)], let c := sweep e.1 e.2
    let s := vm.setCmd 0 (some c)
    let st : Stage := ⟨4, block 256 [(0x0C, [BitVec.ofNat 8 e.1])], [], [], []⟩
    let u : Win := ⟨c.pos, c.pos + 1⟩
    let w := if e.2 = 0 then s.bwdWork c st u else s.accumWork c st
    ((if e.2 = 0 then s.ready 0 c else s.meet 0 c st.accumWants) == (s, true)) = true
      ∧ s.outFault c 0 w = none ∧ s.outReqs 0 c 0 4 w = [] := by decide +kernel
theorem test_bwd_split : ((after (.attnBwd 0) (vm.setCmd 0 (some (sweep 0 0)))).cmd? 0).map (fun c => c.phase) = some .worked := by decide +kernel
theorem test_bwd_accum : ((after (.attnBwd 0) (vm.setCmd 0 (some (sweep 0x40 0)))).cmd? 0).map (fun c => (c.phase, c.info)) = some (.started, 1) := by
  decide +kernel
/-- UPDATE with its control word at 0x100, which has been fetched: STEP = 5, flags. -/
def updater (flags : Byte) : Cmd :=
  { cmd 12 .started (block 256 [(0x81, [1]), (0x34, [0, 0, 0x80, 0x3F])]) with
    tiles := [held 16 outsideTile 0 (block 512 [(0x100, [5, 0, 0, 0, 0, 0, 0, 0, 0, 0, 0x80, 0x3F, flags])])] }
def updating (flags : Byte) : State := vm.setCmd 0 (some (updater flags))
theorem wit_update : (∀ e ∈ [((0 : Byte), 0), (1, 1), (2, 2), (0xFF, 2)], let s := updating e.1
    let c := updater e.1
    let st : Stage := ⟨12, c.pb, [], [], []⟩
    let p := upPar st.pb
    let ctrl := (upFrom p.ctrl 16).map (s.cmdByte c 0 16)
    let k := upScal p (u64At ctrl 0) (w32At ctrl 8)
    let u : Win := ⟨c.pos, c.pos + 1⟩
    let c1 := { c with control := some ctrl }
    let s1 := s.setCmd 0 (some c1)
    let w := upWork (s1.ioOf c1 0 st (fun _ => none)) p k false false false false (fun _ => 0) u
    s.xlt.mig = [] ∧ s.workable 0 12 false = some c ∧ c.stages = [st] ∧ c.outQ = [] ∧ isError c.st = false ∧ st.units ≤ u.hi
      ∧ c.control = none ∧ (s.gather 0 c 0 ⟨[], [(16, p.ctrl, 16)], none⟩ == (s, true)) = true
      ∧ (s1.ready 0 c1 == (s1, true)) = true ∧ u64At ctrl 0 = 5 ∧ fFinite k.gs = true
      ∧ (if 2 ≤ u32At ctrl 12 then 2 else if bitAt (u32At ctrl 12) 0 = true then 1 else 0) = e.2
      ∧ s1.outFault c1 0 w = none ∧ s1.outReqs 0 c1 0 12 w = []) := by decide +kernel
theorem test_update : ((after (.update 0) (updating 0)).cmd? 0).map (fun c => (c.phase, c.atRetire.map (fun w => (w.va, w.bytes.take 2))))
    = some (.worked, [(0x100, [6, 0])]) := by decide +kernel
theorem test_update_skip : ((after (.update 0) (updating 1)).cmd? 0).map (fun c => (c.phase, c.atRetire.length, getOc .updSkip c.acc.oc))
    = some (.worked, 0, 1) := by decide +kernel
/-- MIGRATE of the page at `va` to TIER `tier`, its lists at 0x1000 and 0x1100, which have been fetched, its outcomes at 0x1200; the new entry at
HBM 0x4000_0000, of an arena with the reserved byte `r`. -/
def movingIn (n tier : Byte) (va : List Byte) (r : Byte) : Cmd :=
  let line := block 512 [(0, va), (0x100, [0, 0, 0, 0x40]), (0x118, [r])]
  { cmd 8 .started (block 128 [(0, [n]), (4, [tier]), (0x11, [0x10]), (0x19, [0x11]), (0x21, [0x12])]) with
    tiles := [held 41 outsideTile 0x1000 line, held 42 outsideTile 0x1000 line] }
def moving (n tier : Byte) (va : List Byte) : Cmd := movingIn n tier va 0
def migrating (c : Cmd) : State := vm.setCmd 0 (some c)
theorem wit_migrate : (let h : MigHold := ⟨0, 0, 0x8010, 0x101, 0x30000000B⟩
      let s := migrating (moving 1 0 [])
      let t : State := { s with xlt := { s.xlt with mig := [h] } }
      (t.xlt.mig = [h] ∧ h.slot = 0 ∧ (t.workable 0 8 false).isSome = true ∧ h.slotPa % 8 = 0 ∧ h.fresh < 2 ^ 64)
        ∧ t.mem.hbmWord h.slotPa 8 ≠ h.expect ∧ t.mem.hbmWord h.slotPa 8 = 0x10001)
    ∧ (mgPar (moving 0 0 []).pb).npages ≤ (moving 0 0 []).mig ∧ (migrating (moving 0 0 [])).workable 0 8 false = some (moving 0 0 []) := by decide +kernel
/-- A page that moves to host memory; one that is in its tier; an address without an entry. -/
theorem wit_migrate_plan : let at_ (tier : Byte) (va : List Byte) : State × Cmd := (migrating (moving 1 tier va), moving 1 tier va)
    (∀ e ∈ [at_ 3 [0, 0, 0, 0x20], at_ 0 [0, 0, 0, 0x20], at_ 0 [0, 0, 1, 0x21]], e.1.xlt.mig = [] ∧ e.1.workable 0 8 false = some e.2
      ∧ (e.1.gather 0 e.2 0 (mgPar e.2.pb).demand == (e.1, true)) = true ∧ e.1.arenaBad e.2 (mgPar e.2.pb) = false
      ∧ e.1.migFault e.2 (mgPar e.2.pb) = none ∧ e.1.reading 0 e.2 = false ∧ e.1.pageBusy 0 0x2000 = false ∧ e.1.peerLines e.2 0x20000000 = []
      ∧ isError e.2.st = false)
    ∧ (match (at_ 3 [0, 0, 0, 0x20]).1.migPlan (at_ 3 [0, 0, 0, 0x20]).2 (mgPar (moving 1 3 []).pb) 0 with
      | .move l _ _ fresh _ => l.slotPa == 0x10000 && fresh == 0x400000CF
      | _ => false) = true
    ∧ (match (at_ 0 [0, 0, 0, 0x20]).1.migPlan (at_ 0 [0, 0, 0, 0x20]).2 (mgPar (moving 1 0 []).pb) 0 with | .done o => outcomeStatus o == none | _ => false) = true
    ∧ (match (at_ 0 [0, 0, 1, 0x21]).1.migPlan (at_ 0 [0, 0, 1, 0x21]).2 (mgPar (moving 1 0 []).pb) 0 with | .done o => outcomeStatus o == some stXlate | _ => false)
      = true := by decide +kernel
theorem test_migrate : let s := migrating (moving 1 0 [0, 0, 0, 0x20])
    let t := after (.migrate 0) { s with xlt := { s.xlt with mig := [⟨0, 0, 0x8010, 0x10001, 0x30000000B⟩] } }
    t.mem.hbmWord 0x8010 8 = 0x30000000B ∧ (t.cmd? 0).map (fun c => (c.mig, getOc .migMoved c.acc.oc)) = some (1, 1) := by decide +kernel
theorem test_migrate_bad : ((after (.migrate 0) (migrating (moving 1 0 [0, 0, 1, 0x21]))).cmd? 0).map (fun c => c.st) = some stXlate := by decide +kernel
/-! ## The Yard and the ring -/

/-- Ports that are UP. -/
def ups (s : State) (ks : List Nat) : State := ks.foldl (fun s k => s.setPort k { s.port k with state := .up }) s
/-- A started Yard command of an operation as member 0 of an axis of two, with its streams at 0x2_0000 and 0x3_0000; its inputs have been
fetched. -/
def yardCmd (op : Nat) (pb recs : List Byte) (y : YardSt) : Cmd :=
  { cmd op .started pb with stages := [⟨op, pb, [(5, strided 0x20000 256), (6, strided 0x30000 256), (7, strided 0x40000 256)], [0], recs⟩]
                            tiles := [held 5 outsideTile 0x20000 [], held 7 outsideTile 0x40000 []], yard := some y }
def yardIn (c : Cmd) : State := (ups vm [0, 1]).setCmd 0 (some c)
/-- A one-bit REDUCE of 64 elements; a GATHER of 128 bytes; a PERMUTE of 64 bytes to member 1 and 64 to be received. -/
def reducing : Cmd := yardCmd 9 (block 128 [(0, [64]), (8, [0x08])]) [] { yst 2 0 with halves := yardHalves 9 64 2 }
def gathering (gens : List Nat) : Cmd := yardCmd 10 (block 128 [(0, [128]), (0x40, [1])]) [] { yst 2 0 with halves := yardHalves 10 128 2, gens := gens }
def permuting : Cmd := yardCmd 11 (block 128 [(0, [1]), (0x68, [64])]) (block 32 [(0, [1]), (4, [64])]) (yst 2 0)
theorem wit_yard : (∀ e ∈ [(9, reducing), (10, gathering [7]), (10, gathering [7, 8]), (11, permuting)], let s := yardIn e.2
    s.xlt.mig = [] ∧ s.workable 0 e.1 false = some e.2 ∧ isError e.2.st = false ∧ e.2.outQ = []
      ∧ (match e.2.yard, e.2.stages with
        | some y, [st] => y.begun == false && y.landed.isEmpty && y.credit.isEmpty && !s.yardDown e.2 y && decide (1 < y.size)
            && s.gather 0 e.2 0 (e.2.yardDemand st) == (s, true)
        | _, _ => false) = true)
    ∧ (ydPar reducing.pb).n = 64
    ∧ (match (gathering [7]).yard, (gathering [7, 8]).yard with
      | some y, some z => !y.stale (ydPar (gathering [7]).pb) 7 && z.stale (ydPar (gathering [7]).pb) 7
      | _, _ => false) = true
    ∧ (match permuting.yard, permuting.stages with
      | some y, [st] => st.sends.all (fun e => e.dest != y.own) && st.sends.length == 1 && decide (y.recvd < (ydPar permuting.pb).recvBytes)
      | _, _ => false) = true := by decide +kernel
theorem wit_yard_out : let c := reducing
    let s := yardIn c
    let p := ydPar c.pb
    (∀ h ∈ [0, 1], let e := chunkRange p.n 2 h (prevMember 0 2 h)
      let w := s.reduceWork c p e.1 none (reduceChunk p none (s.yardIn c 5 p.fmtIn e.1 e.2) (s.yardIn c 7 0 e.1 e.2))
      s.outFault c 0 w = none ∧ (s.outReqs 0 c 0 9 w).all (fun r => match r.line with | .peer _ _ => false | _ => true) = true)
    ∧ (let w : WorkOut := { outs := [(6, 0, List.replicate 128 0)] }
       s.outFault (gathering [7]) 0 w = none ∧ (s.outReqs 0 (gathering [7]) 0 10 w).length = 1) := by decide +kernel
/-- The chunk of the member behind goes on, as it is. -/
theorem test_reduce : let t := after (.reduce 0) (yardIn (yardCmd 9 (block 128 [(0, [64])]) [] { yst 2 0 with halves := yardHalves 9 64 2 }))
    (t.cmd? 0).map (fun c => c.yard.map (fun y => y.sendQ.map (fun o => (o.via, o.f.payload.length)))) = some (some [(some 0, 256), (some 1, 0)]) := by
  decide +kernel
theorem test_gather : let t := after (.gather 0) (yardIn (gathering [7]))
    t.cmds.wagons.map (fun w => w.req.line) = [.hbm 0x10030000]
      ∧ (t.cmd? 0).map (fun c => c.yard.map (fun y => y.sendQ.map (fun o => (o.f.gen.toNat, o.f.payload.length)))) = some (some [(7, 64), (7, 64)]) := by
  decide +kernel
theorem test_gather_stale : ((after (.gather 0) (yardIn (gathering [7, 8]))).cmd? 0).map (fun c => c.st) = some stStaleGen := by decide +kernel
theorem test_permute : ((after (.permute 0) (yardIn permuting)).cmd? 0).map (fun c => c.yard.map (fun y => y.sendQ.map (fun o => (o.dest, o.f.payload.length))))
    = some (some [(1, 64)]) := by decide +kernel
/-- The same commands at the end of their work. -/
def finished (c : Cmd) : Cmd :=
  { c with yard := c.yard.map (fun y => { y with begun := true, recvd := 64, halves := y.halves.map (fun h => { h with k := 2 }) }) }
theorem wit_yard_finish : ∀ e ∈ [(9, reducing), (10, gathering [7]), (11, permuting)], let c := finished e.2
    (match c.yard with
      | some y => y.begun && y.sendQ.isEmpty && y.landed.isEmpty && !y.expecting e.1 (ydPar c.pb) && !(yardIn c).yardDown c y
          && (vm.setCmd 0 (some c)).yardDown c y
      | none => false) = true ∧ (yardIn c).packetsOut 0 = false ∧ ((yardIn c).workable 0 e.1 false) = some c
      ∧ ((vm.setCmd 0 (some c)).workable 0 e.1 false) = some c := by decide +kernel
theorem test_gather_end : let t := after (.gather 0) (yardIn (finished (gathering [7])))
    (t.cmd? 0).map (fun c => (c.phase, getOc .ydGen c.acc.oc)) = some (.worked, 7) := by decide +kernel
theorem test_yard_link_down : ((after (.reduce 0) (vm.setCmd 0 (some (finished reducing)))).cmd? 0).map (fun c => c.st) = some stLinkDown := by
  decide +kernel
/-- A frame of member 1 for a command. -/
def frameFor (c : Cmd) (ftype mode : Byte) (argb : Byte) (payload : List Byte) : YardFrame :=
  { yfr 1 ftype (yardHash c.op c.pb) with mode := mode, argb := argb, payload := payload, chunk := if mode = 0 then 0 else 1 }
/-- No target and room; another epoch of the job; a full table. -/
def jobbed : State := { vm with yard := { vm.yard with jobs := [(0, some ⟨0, 0, 5, false⟩)] } }
theorem wit_open : vm.yardTarget (yfr 1 1 0) = none ∧ vm.epochDiffers (yfr 1 1 0) = false ∧ vm.yard.pend.length < 256
    ∧ jobbed.yardTarget (yfr 1 1 0) = none ∧ jobbed.epochDiffers (yfr 1 1 0) = true
    ∧ 256 ≤ (List.replicate 256 (⟨0, yfr 1 1 0, 0⟩ : PendOpen)).length := by decide +kernel
theorem wit_open_match : let s := (ups vm [0, 1]).setCmd 0 (some { gathering [] with phase := .ready })
    s.yardTarget (frameFor (gathering []) 1 0 0 []) = some 0 ∧ s.yardTarget (yfr 1 1 0) = some 0 ∧ (ydPar (gathering []).pb).axis = 0 ∧ (yfr 1 1 0).shapeHash ≠ yardHash 10 (gathering []).pb
    ∧ (s.cmd? 0).map (fun c => (c.phase, c.yard.isSome)) = some (.ready, true) ∧ isError stFormat = true ∧ (gathering []).started = true := by
  decide +kernel
theorem test_open : let s := (ups vm [0, 1]).setCmd 0 (some { gathering [] with phase := .ready })
    ((after (.openFrame 0 (frameFor (gathering []) 1 0 0 [])) s).cmd? 0).map (fun c => c.yard.map (fun y => y.grants)) = some (some [(1, 2)])
    ∧ (after (.openFrame 0 (yfr 1 1 0)) vm).yard.pend.length = 1 := by decide +kernel
theorem test_grant : let s := (ups vm [0, 1]).setCmd 0 (some { gathering [] with phase := .ready })
    ((after (.grantFrame 0 (frameFor (gathering []) 2 0 2 [])) s).cmd? 0).map (fun c => c.yard.map (fun y => y.credit)) = some (some [(1, 2)]) := by
  decide +kernel
theorem test_reject_frame : ((after (.rejectFrame 0 (frameFor (gathering []) 3 0 stFormat [])) (yardIn (gathering []))).cmd? 0).map (fun c => c.st)
    = some stFormat := by decide +kernel
/-- Half a shard of member 1 for a GATHER; the same in the wrong phase; 64 bytes for a PERMUTE. -/
def shardFrame (mode : Byte) : YardFrame := frameFor (gathering [7]) 4 mode 0 (List.replicate 64 9)
theorem wit_data : (match (gathering [7]).yard with
      | some y => y.takes 10 (ydPar (gathering [7]).pb) (shardFrame 4) && y.takes 10 (ydPar (gathering [7]).pb) (shardFrame 12)
          && !y.takes 10 (ydPar (gathering [7]).pb) (shardFrame 0) && !y.begun
      | none => false) = true
    ∧ (match permuting.yard with
      | some y => y.takes 11 (ydPar permuting.pb) (frameFor permuting 4 0 0 (List.replicate 64 9))
          && !permuting.permuteOver y (frameFor permuting 4 0 0 (List.replicate 64 9))
      | none => false) = true
    ∧ (yardIn (gathering [7])).yardPeer 0 (shardFrame 4) = some 0 ∧ (gathering [7]).phase ≠ .worked ∧ vm.yardPeer 0 (shardFrame 4) = none := by
  decide +kernel
theorem test_data : let t := after (.dataFrame 0 (shardFrame 4)) (yardIn (gathering [7]))
    t.mem.get (.hbm 0x10000000) = 9 ∧ t.mem.get (.hbm 0x1000003F) = 9
      ∧ (t.cmd? 0).map (fun c => c.yard.map (fun y => y.landed.length)) = some (some 1) := by decide +kernel
theorem test_data_bad : Tab.get 0 (after (.dataFrame 0 (shardFrame 4)) vm).cnt (cntYard 6) = 1 := by decide +kernel
/-- COLL_MS has passed. -/
def late (s : State) : State := { s with time := { s.time with cmdClk := 0x1000000000000 } }
def begun (c : Cmd) : Cmd := { c with yard := c.yard.map (fun y => { y with begun := true }) }
def pended : State := { vm with yard := { vm.yard with pend := [⟨0, yfr 1 1 0, 0⟩] } }
/-- A PERMUTE of epoch 1 that waits for a REDUCE of epoch 0. -/
def drains : State :=
  let c := { cmd 11 .ready (block 128 [(0x0E, [1])]) with yard := some (yst 2 0) }
  late ((vm.setCmd 0 (some c)).setCmd 1 (some reducing))
theorem wit_coll_time : (late pended).trc.dump.busy = false ∧ (late pended).yard.pend[0]? = some ⟨0, yfr 1 1 0, 0⟩
    ∧ vm.cfg.collMs * 1000000 ≤ (late pended).time.cmdClk.toNat
    ∧ (∀ c ∈ [begun reducing, begun (gathering [7]), begun permuting], c.phase = .started
      ∧ (match c.yard with | some y => y.begun && y.expecting c.op (ydPar c.pb) && y.waitFrom == 0 | none => false) = true)
    ∧ (drains.cmd? 0).map (fun c => (c.op, c.started, c.admitAt, drains.draining c, c.dual.isNone, c.parent.isNone)) = some (11, false, 0, true, true, true)
    ∧ (yardIn reducing).yardByTag 0 = some 0 ∧ (vm.setCmd 0 (some { reducing with phase := .ready })).yardByTag 0 = some 0 := by decide +kernel
theorem test_pend_timeout : (after (.pendingOpenTimeout 0) (late pended)).yard.pend = [] := by decide +kernel
theorem test_coll_timeout : ((after (.collectiveTimeout 0) (late (yardIn (begun reducing)))).cmd? 0).map (fun c => c.status) = some (some (stTimeout, 0x05)) := by
  decide +kernel
theorem test_yard_cancel : ((after (.yardCancel 0 0) (yardIn reducing)).cmd? 0).map (fun c => c.st) = some stAborted
    ∧ ((after (.yardCancel 0 1) (yardIn reducing)).cmd? 0).map (fun c => c.st) = some stOk := by decide +kernel
theorem test_drain_timeout : (after (.drainTimeout 0) drains).cmd? 0 = none := by decide +kernel
/-- A ring command of two members, this one member 0, with one query and one key of one head of 32 elements; its buffer at 0x6_0000. -/
def ringPb : List Byte := block 256 [(0, [1]), (4, [1, 0, 1]), (8, [32]), (0x0C, [8]), (0x28, [1]), (0x2C, [9]), (0xB2, [6])]
def ringSt : RingSt := ⟨0, 0, [], [], 1, 0, [], 0, 0, false, 0, 0, 0⟩
/-- Its sequence record, with n queries. -/
def ringRecs (n : Byte) : List Byte := block 32 [(4, [n]), (12, [1])]
def ringCmd (op : Nat) (r : RingSt) : Cmd :=
  { cmd op .started ringPb with stages := [⟨op, ringPb, [], [0], ringRecs 1⟩], ring := some r }
def ringIn (op : Nat) (r : RingSt) : State := (ups vm [6, 7]).setCmd 0 (some (ringCmd op r))
/-- Its first step, its second with the chunk of that step, its end; the end of a backward member, in SPLIT and in ACCUM mode; a member without a query. -/
theorem wit_ring : ∀ e ∈ [(3, ringSt), (3, { ringSt with step := 1, present := [1], sent := 1 }), (3, { ringSt with step := 2, sent := 1 })
      , (4, { ringSt with step := 2, sent := 2, accIn := true })], let s := ringIn e.1 e.2
    let c := ringCmd e.1 e.2
    let st : Stage := ⟨e.1, ringPb, [], [0], ringRecs 1⟩
    s.xlt.mig = [] ∧ s.workable 0 e.1 false = some c ∧ c.ring = some e.2 ∧ c.ringStage = some (st, 0) ∧ isError c.st = false ∧ c.outQ = []
      ∧ st.idle = false ∧ s.ringDown = false ∧ (vm.setCmd 0 (some c)).ringDown = true
      ∧ (let a := s.atIn c e.2.stage st
        if e.2.over a.p = true then
          let c1 := { c with rung := c.rung ++ [(e.2.stage, e.2.rows)] }
          let w := if e.1 = 3 then s.fwdWork c1 e.2.stage st ⟨0, st.units⟩ else s.ringBwdOut c st e.2
          e.2.step = 2 ∧ s.outFault c e.2.stage w = none ∧ (s.setCmd 0 (some c1)).outReqs 0 c1 e.2.stage e.1 w = []
        else e.2.credits = 0 ∧ e.2.owed = 0 ∧ e.2.step < a.p.ringLen
          ∧ (match s.ready 0 c with
            | (s1, true) => (s1.cmd? 0).map (fun c1 => (c1.ring == c.ring, c1.stages == c.stages, c1.status == c.status, c1.phase, c1.outQ.length))
                == some (true, true, true, .started, 0)
            | _ => false) = true) := by decide +kernel
theorem wit_ring_idle : (⟨3, ringPb, [], [0], ringRecs 0⟩ : Stage).idle = true := by decide +kernel
theorem test_ring_step : ((after (.attnFwd 0) (ringIn 3 ringSt)).cmd? 0).map (fun c => (c.phase, c.ring.map (fun r => r.step))) = some (.started, some 1) := by
  decide +kernel
theorem test_ring_bwd_end : ((after (.attnBwd 0) (ringIn 4 { ringSt with step := 2, sent := 2, accIn := true })).cmd? 0).map (fun c => c.phase) = some .worked := by
  decide +kernel
/-- A frame for its ring: of the image from an offset on, or of the accumulators. -/
def ringFrame (tag : Word) (hash : Word) (step : Byte) (origin : Byte) (ftype : Byte) (off : Nat) (n : Nat) : RingFrame :=
  ⟨tag, origin, step, ftype, hash, BitVec.ofNat 64 off, 0, List.replicate n 5⟩
theorem wit_ring_rx : let h := ringHash ringPb
    let rx (op : Nat) (r : RingSt) (f : RingFrame) : Bool × Bool :=
      (ringMatches (atPar op ringPb) 1 r f, r.rxOff + f.payload.length == ringExpect (atPar op ringPb) 1 r)
    ((ringIn 3 ringSt).ringOf 0).isSome = true ∧ (atPar 3 ringPb).ringTag = 9
    ∧ rx 3 ringSt (ringFrame 9 h 1 1 1 0 64) = (true, false)
    ∧ rx 3 { ringSt with rxOff := 8128 } (ringFrame 9 h 1 1 1 8128 64) = (true, true)
    ∧ rx 4 { ringSt with rxStep := 2 } (ringFrame 9 h 2 0 2 0 256) = (true, true)
    ∧ (rx 3 ringSt (ringFrame 9 h 1 1 1 0 8193)).1 = false ∧ (rx 3 ringSt (ringFrame 9 h 1 1 1 64 64)).1 = false
    ∧ ringSt.step ≤ ringSt.sent ∧ (ringFrame 9 h 0 0 3 0 0).ftype = 3 := by decide +kernel
theorem test_ring_chunk : let t := after (.ringChunkRx 0 (ringFrame 9 (ringHash ringPb) 1 1 1 8128 64)) (ringIn 3 { ringSt with rxOff := 8128 })
    (t.cmd? 0).map (fun c => c.ring.map (fun r => (r.rxStep, r.rxOff, r.present))) = some (some (2, 0, [1]))
      ∧ t.mem.get (.hbm 0x10063FFF) = 5 := by decide +kernel
theorem test_ring_bad : let t := after (.ringChunkRx 0 (ringFrame 8 (ringHash ringPb) 1 1 1 0 64)) (ringIn 3 ringSt)
    (t.cmd? 0).map (fun c => getOc .ringBad c.acc.oc) = some 1 := by decide +kernel
theorem test_ring_credit : ((after (.ringCreditRx 0 (ringFrame 9 0 0 0 3 0 0)) (ringIn 3 ringSt)).cmd? 0).map (fun c => c.ring.map (fun r => r.credits))
    = some (some 1) := by decide +kernel
theorem wit_ring_cancel : (ringIn 3 ringSt).ringByTag 9 = some 0 ∧ (ringCmd 3 ringSt).started = true
    ∧ ({ ringSt with step := 1, present := [1] } : RingSt).waitsCredit (atPar 3 ringPb) = true
    ∧ ({ ringSt with step := 1, sent := 1 } : RingSt).waitsChunk (atPar 3 ringPb) = true ∧ (late (ringIn 3 { ringSt with step := 1 })).trc.dump.busy = false
    ∧ ((late (ringIn 3 { ringSt with step := 1 })).ringOf 0).isSome = true
    ∧ vm.cfg.collMs * 1000000 ≤ (late vm).time.cmdClk.toNat := by decide +kernel
theorem test_ring_cancel : ((after (.ringCancel 6 9) (ringIn 3 ringSt)).cmd? 0).map (fun c => c.st) = some stAborted := by decide +kernel
theorem test_ring_timeout : ((after (.ringTimeout 0) (late (ringIn 3 { ringSt with step := 1 }))).cmd? 0).map (fun c => c.status) = some (some (stTimeout, 0x05)) := by
  decide +kernel
/-! ## Ports, packets and fabric time -/

/-- `vm` with port 0 in a state; with fabric time at 1 s. -/
def porting (f : Port → Port) : State := vm.setPort 0 (f Port.reset)
def second (s : State) : State := { s with time := { s.time with now := 1000000000, clk := 1000000000 } }
/-- A flit whose body is four bytes, and then zeros. -/
def flitOf (ftype : Nat) (seq ack : BitVec 12) (ackV : Bool) (b : List Byte) : Flit :=
  ⟨ftype, 15, seq, ack, ackV, false, false, b ++ List.replicate 252 0⟩
def dataFlit (seq : BitVec 12) : Flit := flitOf 1 seq 0 false [0, 0, 0, 0]
/-- DATA with SEQ 0, IDLE that acknowledges SEQ 3: their first four bytes leave the CRC register at 0. -/
def data0 : Flit := flitOf 1 0 0 false [115, 86, 125, 99]
def idleAck : Flit := flitOf 0 0 3 true [177, 243, 2, 136]
theorem crc_zeros (n : Nat) : (List.replicate n (0 : Byte)).foldl crcByte 0 = 0 := by
  induction n with
  | zero => rfl
  | succ n ih => rw [List.replicate_succ, List.foldl_cons]; exact ih
theorem crc_zero_tail (a : List Byte) (n : Nat) (h : a.foldl crcByte 0xFFFFFFFF = 0) : crc32c (a ++ List.replicate n 0) = 0xFFFFFFFF := by
  rw [crc32c, List.foldl_append, h, crc_zeros]; rfl
theorem parse_flit (f : Flit) (b : List Byte) (hb : f.body = b ++ List.replicate 252 0)
    (h : (toLe 12 f.header ++ b).foldl crcByte 0xFFFFFFFF = 0) (hn : (toLe 12 f.header ++ b).length = 16) 
    (hp : let x := toLe 12 f.header ++ f.body ++ [0xFF, 0xFF, 0xFF, 0xFF]
      x.length = 272 ∧ BitVec.ofNat 32 (u32At x 268) = 0xFFFFFFFF ∧ field (fieldAt x 0 12) 3 0 ≤ 2 ∧ fieldAt x 0 12 < 2 ^ 35
        ∧ (⟨field (fieldAt x 0 12) 3 0, field (fieldAt x 0 12) 7 4, BitVec.ofNat 12 (field (fieldAt x 0 12) 19 8), BitVec.ofNat 12 (field (fieldAt x 0 12) 31 20)
            , bitAt (fieldAt x 0 12) 32, bitAt (fieldAt x 0 12) 33, bitAt (fieldAt x 0 12) 34, slice x 12 256⟩ : Flit) = f) :
    parseFlit f.bytes = some f := by
  have hc : crc32c (toLe 12 f.header ++ f.body) = 0xFFFFFFFF := by rw [hb, ← List.append_assoc]; exact crc_zero_tail _ _ h
  have he : f.bytes = toLe 12 f.header ++ f.body ++ [0xFF, 0xFF, 0xFF, 0xFF] := by simp only [Flit.bytes, hc]; rfl
  have hl : (toLe 12 f.header ++ f.body).length = 268 := by rw [hb, ← List.append_assoc, List.length_append, hn, List.length_replicate]
  have ht : (toLe 12 f.header ++ f.body ++ [0xFF, 0xFF, 0xFF, 0xFF]).take 268 = toLe 12 f.header ++ f.body := by
    rw [List.take_append_of_le_length (by omega), List.take_of_length_le (by omega)]
  rw [he, parseFlit, ht, hc]
  obtain ⟨h1, h2, h3, h4, h5⟩ := hp
  simp only [h1, h2, h3, h4, h5, and_self, if_true]
theorem parse_data0 : parseFlit data0.bytes = some data0 :=
  parse_flit data0 [115, 86, 125, 99] rfl (by decide +kernel) (by decide +kernel) (by decide +kernel)
theorem parse_idleAck : parseFlit idleAck.bytes = some idleAck :=
  parse_flit idleAck [177, 243, 2, 136] rfl (by decide +kernel) (by decide +kernel) (by decide +kernel)
/-- The bytes of `data0` with a CRC of zero. -/
def badFlit : List Byte := toLe 12 data0.header ++ data0.body ++ [0, 0, 0, 0]
theorem parse_badFlit : parseFlit badFlit = none := by
  have hc : crc32c (badFlit.take 268) = 0xFFFFFFFF := by
    rw [show badFlit.take 268 = (toLe 12 data0.header ++ [115, 86, 125, 99]) ++ List.replicate 252 0 by decide +kernel]
    exact crc_zero_tail _ _ (by decide +kernel)
  rw [parseFlit, hc, if_neg]
  exact fun h => absurd h.2.1 (by decide +kernel)
theorem wit_port : vm.regOpen .m = true ∧ (porting (fun p => { p with state := .down })).trainable 0 = true
    ∧ (let s := second (porting (fun p => { p with state := .training })); (s.port 0).trainAt.toNat + 2000000 ≤ s.time.clk.toNat)
    ∧ (let s := second (porting (fun p => { p with state := .retraining, attempt := 2 }))
       (s.port 0).attempt < 3 ∧ (s.port 0).trainAt.toNat + 2000000 ≤ s.time.clk.toNat)
    ∧ (∀ n ∈ [7, 8], let s := second (porting (fun p => { p with state := .up, runs := n, replay := [(0, dataFlit 3)] }))
       (s.port 0).replay = [(0, dataFlit 3)] ∧ s.cfg.replayNs ≤ s.time.clk.toNat ∧ (s.port 0).runs = n)
    ∧ (let s := second (porting (fun p => { p with state := .up, queues := [(7, [⟨pkt 8 3 0 0 [], none, none, none, 0⟩])] }))
       (s.port 0).queue 7 = [⟨pkt 8 3 0 0 [], none, none, none, 0⟩] ∧ (s.port 0).credit 7 = 0 ∧ 1000000 ≤ s.time.clk.toNat) := by decide +kernel
theorem test_train : ((after (.train .m 0) (porting (fun p => { p with state := .down }))).port 0).state = .training
    ∧ ((after (.train .m 0) (porting (fun p => { p with state := .up }))).port 0).state = .retraining := by decide +kernel
theorem test_disable : ((after (.disable .m 0) (porting (fun p => { p with state := .up }))).port 0).reason = 6
    ∧ (after (.disable .h0 0) (porting (fun p => { p with state := .up }))).log.next = 1 := by decide +kernel
theorem test_lane_loss : ((after (.laneLockLoss 0) (porting (fun p => { p with state := .up }))).port 0).reason = 1 := by decide +kernel
theorem test_train_timeout : ((after (.trainTimeout 0) (second (porting (fun p => { p with state := .training })))).port 0).state = .down
    ∧ ((after (.trainTimeout 0) (second (porting (fun p => { p with state := .retraining, attempt := 2 })))).port 0).attempt = 3 := by decide +kernel
theorem test_replay_timeout : let t := after (.replayTimeout 0) (second (porting (fun p => { p with state := .up, replay := [(0, dataFlit 3)] })))
    (t.port 0).runs = 1 ∧ (t.port 0).sent.map (fun f => (f.seq, f.rpl)) = [(3, true)] := by decide +kernel
theorem test_credit_stall : let s := second (porting (fun p => { p with state := .up, queues := [(7, [⟨pkt 8 3 0 0 [], none, none, none, 0⟩])] }))
    ((after (.creditStall 0 7) s).port 0).reason = 5 ∧ (after (.creditStall 0 6) s).port 0 = s.port 0 := by decide +kernel
def upPort : State := porting (fun p => { p with state := .up })
theorem wit_flit : (upPort.port 0).state = .up ∧ (upPort.port 0).nakGone = false ∧ (upPort.port 0).rxNext = data0.seq ∧ (upPort.port 0).queues = []
    ∧ ((porting (fun p => { p with state := .up, rxNext := 1 })).port 0).rxNext ≠ data0.seq ∧ idleAck.ack = 3 := by decide +kernel
theorem test_flit : let t := after (.flitRx 0 data0.bytes) upPort
    (t.port 0).rxNext = 1 ∧ (t.port 0).rxSlots.length = 256 := by
  simp only [after, exec, execFlitRx, flitOp, parse_data0]; decide +kernel
theorem test_flit_crc : let t := after (.flitRx 0 badFlit) upPort
    (t.port 0).crcErr = 1 ∧ (t.port 0).sent.map (fun f => f.nak) = [true] := by
  simp only [after, exec, execFlitRx, flitOp, parse_badFlit]; decide +kernel
theorem test_flit_ack : let t := after (.flitRx 0 idleAck.bytes) (porting (fun p => { p with state := .up, replay := [2, 3, 4].map (fun n => (0, dataFlit n)) }))
    (t.port 0).replay.map (fun e => e.2.seq) = [4] := by
  simp only [after, exec, execFlitRx, flitOp, parse_idleAck]; decide +kernel
/-- A port that has received a packet of each kind for this device. -/
def received (p : Packet) : State := porting (fun q => { q with state := .up, rxSlots := p.slots, rxRpl := [false] })
def kinds : List Packet :=
  [pkt 1 0 0 0 [], pkt 2 0 0 0 (List.replicate 512 0), pkt 3 0 0 0 (List.replicate 576 0), pkt 4 1 0 0 (List.replicate 512 0), pkt 5 1 0 0 []
   , { pkt 6 1 0 0 [] with status := stXlate }]
theorem wit_packets : (∀ p ∈ kinds, headerBad p.header = false ∧ p.data.length = 32 * p.len ∧ p.len ≤ 256 ∧ vm.mustWait p = false)
    ∧ kinds.map (fun p => p.kind.toNat) = [1, 2, 3, 4, 5, 6] ∧ vm.cfg.node.node < vm.cfg.node.count ∧ vm.fab.loop = []
    ∧ ((received (pkt 1 0 0 0 [])).port 0).rxSlots = (pkt 1 0 0 0 []).slots ++ [] := by decide +kernel
theorem wit_channels : (let s := second (porting (fun p => { p with state := .up, ret := [(0, 3)] }))
      (s.port 0).ret ≠ [] ∧ (s.port 0).retAt.toNat + 64 ≤ s.time.clk.toNat ∧ (s.port 0).replay.length < 512 ∧ (s.port 0).queues = [])
    ∧ (let x : TxPkt := ⟨pkt 1 0 0 0 [], none, none, none, 0⟩
      let s := porting (fun p => { p with state := .up, credits := [(0, 1)], queues := [(0, [x])] })
      s.startable 0 0 = some x ∧ (s.port 0).queue 0 = [x] ∧ (∀ d ∈ [1, 2, 3, 4, 5, 6, 7, 8], (s.port 0).queue d = [])
        ∧ x.p.data.length = 32 * x.p.len) := by decide +kernel
theorem test_packet : let t := after (.packetRx 0) (received (pkt 1 0 0 7 []))
    (t.port 0).rxSlots = [] ∧ (t.port 0).ret = [(0, 1)] ∧ t.fab.loop.map (fun p => (p.kind, p.status)) = [(6, stXlate)] := by decide +kernel
theorem test_credit : let t := after (.credit 0 { pkt 9 0 0x0005000000000002 0 [] with arg2 := 7 }) (porting (fun p => { p with state := .up }))
    (t.port 0).credit 0 = 2 ∧ (t.port 0).credit 3 = 5 ∧ (t.port 0).credit 4 = 7 ∧ (t.port 0).credit 1 = 0 := by decide +kernel
theorem test_credit_return : let t := after (.creditReturnTimer 0) (second (porting (fun p => { p with state := .up, ret := [(0, 3)] })))
    (t.port 0).ret = [] ∧ (t.port 0).sent.length = 1 := by decide +kernel
theorem test_departure : let s := porting (fun p => { p with state := .up, credits := [(0, 1)], queues := [(0, [⟨pkt 1 0 0 0 [], none, none, none, 0⟩])] })
    ((after (.departureWindow 0) s).port 0).credit 0 = 0 ∧ ((after (.departureWindow 0) s).port 0).sent.length = 1 := by decide +kernel
/-- Node (1, 0, 0, 0) of a 4 × 2 × 1 × 1 pod; its neighbours, the node two steps away, a node of the second axis alone. -/
def pod : State := { vm with cfg := { vm.cfg with node := ⟨1, 1, 0, 0, 0, 3, 1, 0, 0⟩ } }
theorem wit_route : (∀ a, a < 4 → pod.cfg.node.own a < pod.cfg.node.size a) ∧ pod.cfg.node.node = pod.cfg.node.member 0 (pod.cfg.node.own 0)
    ∧ [0, 2, 3, 5, 7].map pod.cfg.node.dimOrder = [some 1, some 0, some 0, some 2, some 0] ∧ pod.cfg.node.dimOrder 1 = none
    ∧ (∀ p ∈ [0, 1, 2, 3, 4, 5, 6, 7], (pod.tblSlot 4 p).bound = false) ∧ pod.cfg.node.count = 8 := by decide +kernel
/-- An export window over the first GiB for node 0. -/
def exporting : State := { vm with cfg := { vm.cfg with exp := [(0, ⟨true, true, true, 0, 0, 0, 1⟩)] } }
def peered (k : WagonKind) : State := State.wagons (withCmd (cmd 7 .started [])) [wag k (.peer 0 512)]
theorem wit_peer : exporting.asleep = false ∧ (∀ k ∈ [(1 : BitVec 4), 2, 3], ∀ b ∈ [true, false], exporting.peerOk { pkt 1 0 0x3FFFFE00 0 [] with kind := k } b = true
      ∧ exporting.peerOk { pkt 1 0 0x40000000 0 [] with kind := k } b = false ∧ exporting.peerOk { pkt 1 0 0x200 0 [] with kind := k, src := 1 } b = false)
    ∧ exporting.mem.eccAt (.hbm 0) = .clean ∧ ({ exporting.mem with ecc := [(0, .uncorrectable)] } : Memories).eccAt (.hbm 0) = .uncorrectable := by decide +kernel
theorem wit_response : (∀ k ∈ [WagonKind.read, .write], (peered k).cmds.wagons = [wag k (.peer 0 512)] ∧ (wag k (.peer 0 512)).served = false
      ∧ (wag k (.peer 0 512)).tag = 3 ∧ (wag k (.peer 0 512)).discard = false ∧ (wag k (.peer 0 512)).timedOut = false)
    ∧ (wag .write (.peer 0 512)).req.field ≠ loadField ∧ ((peered .write).cmd? 0).map (fun c => (c.started, isError c.st)) = some (true, false)
    ∧ isError stXlate = true ∧ vm.cmds.wagons = [] := by decide +kernel
theorem test_rd_req : let t := after (.rdReq 0 (pkt 1 0 0 7 [])) exporting
    t.fab.loop.map (fun p => (p.kind, p.tag, p.data.take 2)) = [(4, 7, [0x01, 0x80])] := by decide +kernel
theorem test_wr : (after (.wr 0 (pkt 2 0 0x20000 7 (List.replicate 511 0 ++ [3]))) exporting).mem.get (.hbm 0x201FF) = 3
    ∧ (after (.wr 0 (pkt 2 0 0x40000000 7 (List.replicate 512 3))) exporting).mem = exporting.mem := by decide +kernel
theorem test_wr_mask : let t := after (.wrMask 0 (pkt 3 0 0x20000 7 (2 :: List.replicate 63 0 ++ List.replicate 4 3 ++ List.replicate 508 0))) exporting
    t.mem.get (.hbm 0x20000) = 0 ∧ t.mem.get (.hbm 0x20001) = 3 := by decide +kernel
theorem test_rd_rsp : ((after (.rdRsp 0 (pkt 4 1 512 3 (List.replicate 512 8))) (peered .read)).wagon? 3).map (fun w => (w.served, w.data.length)) = some (true, 512)
    := by decide +kernel
theorem test_wr_ack : ((after (.wrAck 0 (pkt 5 1 512 3 [])) (peered .write)).wagon? 3).map (fun w => w.served) = some true
    ∧ (after (.wrAck 0 (pkt 5 1 512 4 [])) (peered .write)).log.next = 1 := by decide +kernel
theorem test_err_rsp : ((after (.errRsp 0 { pkt 6 1 512 3 [] with status := stXlate }) (peered .write)).cmd? 0).map (fun c => c.st) = some stXlate := by
  decide +kernel
/-- The ticks of a thousand under a slew; holdover. -/
theorem wit_tick : (∀ h ∈ [true, false], ∀ d ∈ [(1 : Int), 0, -1], let t : TimeSt := { dev.time with phase := 999, slew := d, holdover := h }
      t.phase = 999 ∧ t.holdover = h) := by decide +kernel
theorem test_tick_in_reset : (match step (after .powerUp dev) with | .next t => t.time.now == 4 | _ => false) = true := by decide +kernel
theorem test_tick_slew : (let s : State := { dev with time := { dev.time with phase := 999, slew := 2 } }
    match step s with | .next t => t.time.now == 5 && t.time.slew == 1 && t.time.phase == 0 | _ => false) = true := by decide +kernel
/-- A window of class 3 at 100, 50 ns long, in periods of 1,000 ns: at 1,200, within 2 ns, a packet that waits since 1,095 has missed the one
at 1,100, a packet that waits since 1,110 has not (R368). -/
theorem test_missed : ∀ i < 5, missedIn 1000 [⟨100, 50, 3⟩] (1198 + i) 105 3 = [1100] ∧ missedIn 1000 [⟨100, 50, 3⟩] (1198 + i) 90 3 = []
    ∧ missedIn 1000 [⟨100, 50, 3⟩] (1198 + i) 105 4 = [] := by decide
/-- A follower whose time comes in at port 6, with 63 samples of twice 8 ns and a request out. -/
def following (n : Nat) (stepped : Bool) (d : Int) : State :=
  let s := second (ups vm [6])
  let s := s.setPort 6 { s.port 6 with reqAt := [(5, some 1000000000)] }
  { s with time := { s.time with srcPort := 6, reqs := [(5, 1000000000)], samples := List.replicate n d, stepped := stepped } }
/-- A response: T2 and T3, timeOk of the peer, its hops. -/
def timeRsp (t2 t3 : Dword) : Packet := { pkt 0xA 0 t2 5 [] with arg := 0x00020102, arg2 := t3 }
theorem wit_exchange : vm.timePort = none ∧ (following 0 false 0).timePort = some 6 ∧ ((following 0 false 0).port 6).state = .up ∧ (vm.port 6).state ≠ .up
    ∧ (following 0 false 0).time.lastReq.toNat + 16000 ≤ (following 0 false 0).time.clk.toNat
    ∧ (following 0 false 0).time.reqs.any (fun r => r.1 == 5) = true ∧ Tab.get none ((following 0 false 0).port 6).reqAt 5 = some 1000000000
    ∧ Tab.get none ((following 0 false 0).port 5).reqAt 5 = none ∧ (following 0 false 0).follower = true ∧ vm.cfg.ttRole = 0 := by decide +kernel
/-- A stamp is within 2 ns of the counter (R25). -/
theorem wit_stamp (s : State) (k : Nat) : ∃ i < 5, s.portTime k = BitVec.ofNat 64 (s.time.now.toNat + i - 2) :=
  ⟨(Config.interp (0x18 + k) s.time.now.toNat).val, (Config.interp (0x18 + k) s.time.now.toNat).isLt, rfl⟩
/-- The classes of a response, with each of the stamps that are possible: too late; not yet 64 samples; the 64th, with an estimate of at most 0, above 0, at most 1 µs, above it. -/
theorem wit_samples : ∀ i < 5, let c (n : Nat) (stepped : Bool) (d : Int) (t2 : Dword) : Nat :=
      let s := following n stepped d
      let t := s.time
      let out : Int := (t2.toNat : Int) - 1000000000
      let back : Int := ((t.now.toNat + i - 2 : Nat) : Int) - t2.toNat
      let xs := (if 64 ≤ t.samples.length then t.samples.drop 1 else t.samples) ++ [out - back]
      let sum := xs.foldl (· + ·) 0
      if 2000 < out + back then 0 else if xs.length < 64 then 1 else if (t.stepped = true ∧ sum ≤ 128000) ∨ (t.stepped = false ∧ sum ≤ 0) then 2 else 3
    c 0 false 0 1000000008 = 1 ∧ c 63 false 0 999999999 = 2 ∧ c 63 true 16 1000000008 = 2 ∧ c 63 false 16 1000000008 = 3 ∧ c 64 true 2001 1000000000 = 2
      ∧ c 64 true 2033 1000000000 = 3
      ∧ 2000 < ((1000001003 : Int) - 1000000000) + (999999998 - 999998996) := by decide +kernel
theorem test_exchange : let t := after .timeExchangeTimer (following 0 false 0)
    t.time.nextTag = 1 ∧ t.time.reqs.length = 2 ∧ t.time.lastReq = 1000000000 := by decide +kernel
theorem test_time_rsp_step : (timeRspAt 6 false (timeRsp 1000000008 1000000008) 1000000000 (following 63 false 16)).time.now = 1000000008 := by decide +kernel
theorem test_time_rsp_slew : (timeRspAt 6 false (timeRsp 1000000008 1000000008) 1000000000 (following 63 true 16)).time.slew = 8 := by decide +kernel
theorem test_time_req : ((after (.timeReq 6 (pkt 0xA 0 0 5 [])) (following 0 false 0)).port 6).sent.length = 1 := by decide +kernel
theorem wit_holdover : let s := following 0 false 0
    s.time.holdover = false ∧ s.time.lastOk.toNat + 1000000 ≤ s.time.clk.toNat
    ∧ (let u : State := { ups s [5] with cfg := { s.cfg with ttAlt := 5 } }
       6 ≠ u.cfg.ttAlt ∧ u.cfg.ttAlt < 8 ∧ (u.port 5).state = .up) := by decide +kernel
theorem test_alt_port : let s := following 0 false 0
    (after .timeSampleTimeout { ups s [5] with cfg := { s.cfg with ttAlt := 5 } }).time.srcPort = 5
      ∧ (after .timeSampleTimeout { s with cfg := { s.cfg with ttAlt := 15 } }).time.holdover = true := by decide +kernel
theorem test_holdover_end : let s := following 0 false 0
    (after .holdoverTimeout { s with time := { s.time with holdover := true, timeOk := true } }).time.timeOk = false
    ∧ (after .timeSampleTimeout { s with time := { s.time with holdover := true, tryAlt := true } }).time.tryAlt = false := by decide +kernel
/-- An anchor at 1 s and `e` ns, whose time has been loaded. -/
def anchor (armed loaded : Bool) (bad : Nat) (now : Dword) : State :=
  { vm with cfg := { vm.cfg with ttRole := 1 }, time := { vm.time with armed := armed, loaded := loaded, badEdges := bad, now := now, next := 2000000000, timeOk := true } }
theorem wit_anchor : (anchor false false 0 0).cfg.cfgDone = true ∧ (anchor false false 0 0).cfg.ttRole = 1 ∧ vm.cfg.ttRole ≠ 1 ∧ vm.regOpen .m = true
    ∧ (anchor true false 0 0).time.now.toNat + 5 ≤ (anchor true false 0 0).time.next.toNat
    ∧ (∀ e ∈ [(1000, true), (1001, false), (-1000, true), (-1001, false), (499999999, false), (-500000000, false)],
      let n : Nat := 1
      ((-500000000 : Int) ≤ e.1 ∧ e.1 < 500000000) ∧ (decide (-1000 ≤ e.1 ∧ e.1 ≤ (1000 : Int)) = e.2) ∧ 0 ≤ n * 1000000000 + e.1) := by decide +kernel
theorem test_arm_time : (after (.ttArm .m) (anchor false false 0 0)).time.armed = true ∧ (after (.ttArm .m) vm).log.next = 1 := by decide +kernel
theorem test_edge : (refSyncAt 3 (anchor true false 0 5)).time.now = 1999999997 ∧ (refSyncAt (-2) (anchor false true 0 999999002)).time.slew = 1000
    ∧ (refSyncAt 5 (anchor false true 2 1000000996)).time.timeOk = false := by decide +kernel
/-! ## Hosts, attestation and update -/

/-- `vm`, host function 0 with its decoder at 0x1_0000_0000 over 64 GiB of HBM. -/
def hdm : State := vm.setHost 0 { vm.hostFn 0 with committed := true, decBase := 0x100000000, decSize := 0x20000000 }
theorem wit_host : (vm.hostFn 0).present = true ∧ (vm.hostFn 0).perst = false ∧ (vm.hostFn 3).present = false ∧ (vm.hostFn 3).perst = false ∧ vm.pwr.warming = false ∧ (vm.hostFn 0).width ≠ 0
    ∧ ((vm.setHost 0 { vm.hostFn 0 with perst := true }).hostFn 0).perst = true ∧ ((vm.setHost 0 { vm.hostFn 0 with width := 0 }).hostFn 0).width = 0
    ∧ vm.cfg.cfgDone = true ∧ widthLanes 5 ≤ splitLanes (vm.boot.straps % 4) 0 ∧ widthLanes 1 ≤ splitLanes (vm.boot.straps % 4) 0
    ∧ (vm.hostFn 0).cxl = true ∧ (dev.setHost 0 { dev.hostFn 0 with cxl := false } |>.hostFn 0).cxl = false
    ∧ vm.regReady .h0 false = true ∧ Master.h0.host? = some 0 ∧ (0x17FF : Dword).toNat / 2 ^ 10 % 8 = 5 ∧ (0x1BFF : Dword).toNat / 2 ^ 10 % 8 = 6 := by
  decide +kernel
/-- `vm`, vector 5 of host function 0 pending, MSI-X enabled or with Function Mask set. -/
def pendingVector (ctl : Word) : State := vm.setHost 0 { vm.hostFn 0 with pci := [(0x80, ctl)], msixPend := [5] }
theorem wit_regions : hostMaster 0 = .h0 ∧ (vm.hostFn 0).present = true ∧ (vm.hostFn 0).width ≠ 0 ∧ (vm.hostFn 0).cxl = true
    ∧ ((pendingVector 0xC0000000).hostFn 0).msixPend = [5] ∧ ((pendingVector 0xC0000000).hostFn 0).width ≠ 0
    ∧ (Tab.get 0 ((pendingVector 0x80000000).hostFn 0).pci 0x80).getLsbD 31 = true ∧ (Tab.get 0 ((pendingVector 0x80000000).hostFn 0).pci 0x80).getLsbD 30 = false
    ∧ (Tab.get 0 ((pendingVector 0xC0000000).hostFn 0).pci 0x80).getLsbD 30 = true
    ∧ ((vm.setHost 0 { vm.hostFn 0 with cxl := false }).hostFn 0).cxl = false := by decide +kernel
/-- Vector 5 is sent when its mask bit is cleared, unless Function Mask is set (R411). -/
theorem test_unmask : ((after (.registerWrite .h0 0x40000005C .w32 0) (pendingVector 0x80000000)).hostFn 0).stream = [.msix 5]
    ∧ ((after (.registerWrite .h0 0x40000005C .w32 0) (pendingVector 0xC0000000)).hostFn 0).stream = [] := by decide +kernel
theorem test_perst : let t := after (.perstAssert 0) vm
    (t.hostFn 0).width = 0 ∧ (t.hostFn 0).perst = true ∧ (t.ctx 0).state = .resetting := by decide +kernel
theorem test_perst_release : ((after (.perstRelease 0) (after (.perstAssert 0) vm)).hostFn 0).perst = false := by decide +kernel
theorem test_link_down : ((after (.hostLinkDown 0) hdm).hostFn 0).committed = false ∧ ((after (.flr 0) hdm).hostFn 0).committed = true
    ∧ ((after (.flr 0) hdm).ctx 0).state = .resetting := by decide +kernel
theorem test_link_up : ((after (.hostLinkUp 0 4 5 true) { (vm.setHost 0 { vm.hostFn 0 with width := 0 }) with inv := { vm.inv with hostGroups := [0, 1] } }).hostFn 0).width = 4
    ∧ ((after (.hostLinkUp 0 5 5 true) { (vm.setHost 0 { vm.hostFn 0 with width := 0 }) with inv := { vm.inv with hostGroups := [0, 1] } }).hostFn 0).width = 0 := by decide +kernel
theorem test_snoop : ((after (.h2dSnoop 0 0) vm).hostFn 0).snoop = true := by decide +kernel
theorem test_ltr : ((after (.pwrLtrWrite .h0 0x97FF) vm).hostFn 0).ltrValue = 0x3FF ∧ ((after (.pwrLtrWrite .h0 0x97FF) vm).hostFn 0).ltrReq = true
    ∧ (after (.pwrLtrWrite .h0 0x1BFF) vm).log.next = 1 := by decide +kernel
/-- A range of 64 GiB, of 1 byte less than 256 MiB, of one block too many. -/
theorem wit_hdm : let bad (base size ways : Nat) : Bool := decide (((vm.hostCfg 0).h0Size + (vm.hostCfg 0).h1Size) * 2 ^ 30 < size ∨ ways ≠ 1 ∨ base % 2 ^ 28 ≠ 0
      ∨ size % 2 ^ 28 ≠ 0)
    bad 0x100000000 0x1000000000 1 = false ∧ bad 0x100000000 0x1010000000 1 = true ∧ bad 0x100000000 0x0FFFFFFF 1 = true ∧ bad 0x10 0x10000000 1 = true
    ∧ bad 0 0x10000000 2 = true
    ∧ hdm.hdmAddr 0 0x100000000 = some 0 ∧ hdm.hdmAddr 0 0x11FFFFFFF = some 0x1FFFFFFF ∧ hdm.hdmAddr 0 0x120000000 = none ∧ hdm.hdmAddr 0 0xFFFFFFFF = none
    ∧ hdm.hbmExists 0 = true ∧ hdm.mem.eccAt (.hbm 0) = .clean ∧ hdm.pwr.state = 0 ∧ hdm.pwr.trans = false
    ∧ ({ hdm.mem with ecc := [(0, .uncorrectable)] } : Memories).eccAt (.hbm 0) = .uncorrectable
    ∧ (let s : State := { hdm with inv := { hdm.inv with mapOut := List.range 256 } }; s.hbmExists 0 = false ∧ s.hdmAddr 0 0x100000000 = some 0) := by
  decide +kernel
theorem wit_hdm_second : let s : State := { hdm with cfg := { hdm.cfg with hosts := [(0, { hdm.hostCfg 0 with h0Size := 0, h1Size := 1, h1Base := 2 })] } }
    s.hdmAddr 0 0x100000000 = some (2 ^ 38 + 2 * 2 ^ 30) ∧ (s.hostCfg 0).h0Size * 2 ^ 30 ≤ 0 := by decide +kernel
theorem test_commit : ((after (.hdmDecoderCommit 0 0 0x10000000 1) vm).hostFn 0).committed = true
    ∧ ((after (.hdmDecoderCommit 0 0 0x10000000 2) vm).hostFn 0).decErr = true := by decide +kernel
theorem test_hdm_read : ((after (.hdmRead 0 0x100000001) hdm).hostFn 0).rdData.take 2 = [0x01, 0x80]
    ∧ (after (.hdmRead 0 0x100000041) { hdm with pwr := { hdm.pwr with state := 2 } }).pwr.held = [.hdmRead 0 0x40] := by decide +kernel
theorem test_hdm_write : (after (.hdmWrite 0 0x100000040 (List.replicate 64 7)) hdm).mem.read (.hbm 0x3F) 3 = [0, 7, 7]
    ∧ ((after (.hdmWrite 0 0x100000040 (List.replicate 64 7)) hdm).hostFn 0).cmps = 1 := by decide +kernel
/-- An SPDM requester that has selected the algorithms, of a device that has an identity. -/
def spdm (negotiated idOk : Bool) : State :=
  let s := vm.setHost 0 { vm.hostFn 0 with negotiated := negotiated }
  { s with boot := { s.boot with idOk := idOk, devCert := [1, 2, 3], aliasCert := [4] } }
def algs (h : Bool) : AlgSel := ⟨true, h, true, true⟩
theorem wit_spdm : ((spdm true true).hostFn 0).negotiated = true ∧ ((spdm false true).hostFn 0).negotiated = false ∧ (spdm true true).boot.idOk = true
    ∧ (spdm true false).boot.idOk = false ∧ ((spdm true true).hostFn 0).width ≠ 0
    ∧ (algs true).baseAsymNone = true ∧ (algs true).baseHashSha3 = true ∧ (algs true).measHashSha3 = true ∧ (algs true).extMlDsa = true ∧ (algs false).baseHashSha3 = false := by
  decide +kernel
theorem test_version : ((after (.getVersion 0) vm).hostFn 0).doe = some ⟨1, 1, .version 0x12⟩
    ∧ ((after (.getCapabilities 0) vm).hostFn 0).doe = some ⟨1, 1, .capabilities true true true 16⟩ := by decide +kernel
theorem test_negotiate : ((after (.negotiateAlgorithms 0 (algs true)) vm).hostFn 0).negotiated = true
    ∧ ((after (.negotiateAlgorithms 0 (algs false)) vm).hostFn 0).doe = some ⟨1, 1, .errInvalid⟩ := by decide +kernel
theorem wit_chain_length : 0 < (spdm true true).chain.length := by
  rw [State.chain, List.length_append]; exact Nat.lt_of_lt_of_le Nat.zero_lt_one (Nat.le_add_left _ _)
theorem test_certificate : ((after (.getCertificate 0 1 0 2) (spdm true true)).hostFn 0).doe = some ⟨1, 1, .errInvalid⟩ := by decide +kernel
theorem test_before_negotiation : ((after (.getDigests 0) (spdm false true)).hostFn 0).doe = some ⟨1, 1, .errInvalid⟩
    ∧ ((after (.unsupportedRequest 0 0xFF) (spdm false true)).hostFn 0).doe = some ⟨1, 1, .errUnsupported 0xFF⟩ := by decide +kernel
theorem test_no_identity : ((after (.challenge 0 0 (List.replicate 32 0)) (spdm true false)).hostFn 0).doe = some ⟨1, 1, .errUnspecified⟩
    ∧ ((after (.getMeasurements 0 7 false []) (spdm true false)).hostFn 0).doe = some ⟨1, 1, .errInvalid⟩ := by decide +kernel
/-! ## Update and boot -/

/-- Channel 0 between host function 0 and the management core, with a request in MBX_MSG0–3 that has been rung; host function 0 may update or not. -/
def request (may : Bool) (req : Word) (n : Word) : State :=
  let s := { vm with cfg := { vm.cfg with mbxBind := [(0, ⟨8, 1, true, 0⟩)], updHosts := if may then 1 else 0 }, boot := { vm.boot with flashSize := 2 ^ 24 } }
  s.setChan 0 { s.chan 0 with db := 0x00010000, mask := 0xFFFFFFFF, msg := [(0, req), (3, n)] }
theorem wit_request : ([(1 : Word), 2, 3].map (fun r => ((request true r 4).updChannel 0 0, ((request true r 4).chan 0).word 0)))
      = [(some true, 1), (some true, 2), (some true, 3)]
    ∧ ((request true 1 4).chan 0).db &&& 0x00010000 ≠ 0 ∧ (request true 1 4).cfg.updHosts.getLsbD 0 = true ∧ (request false 1 4).cfg.updHosts.getLsbD 0 = false
    ∧ (request true 1 4).boot.upd.state ≠ .busy ∧ ((request true 1 4).readStaged 0 0 4).isSome = true
    ∧ 4 ≤ ((vm.hostCfg 0).h0Size + (vm.hostCfg 0).h1Size) * 2 ^ 30 ∧ 4 ≤ (request true 1 4).boot.flashSize / 2
    ∧ (request true 1 0x800001).boot.flashSize / 2 < 0x800001 ∧ (request true 3 0).boot.ctrPresent = false := by decide +kernel
theorem test_status : ((after (.status 0 0) (request true 0x00070002 0)).chan 0).word 32 = 0x00070000
    ∧ ((after (.status 0 0) (request false 2 0)).chan 0).word 32 = stRange.setWidth 32
    ∧ ((after (.status 0 0) (request true 2 0)).chan 0).db = 1 := by decide +kernel
theorem test_stage : let t := after (.stage 0 0) (request true 1 0x800001)
    (t.chan 0).word 32 = stRange.setWidth 32 ∧ (after (.stage 0 0) (request true 1 4)).boot.upd.state = .busy
      ∧ (after (.stage 0 0) (request true 1 4)).boot.upd.found = 2 := by decide +kernel
theorem test_commit_svn : let s := request true 3 0
    let b (svn : Word) : BootSt := { s.boot with ctrPresent := true, svn := svn, counter := 3, ctrKey := [7], fctr := some ⟨some [7], 3⟩ }
    (after (.commitSvn 0 ⟨0, .own⟩) { s with boot := b 4 }).boot.counter = 4
      ∧ (after (.commitSvn 0 ⟨0, .own⟩) { s with boot := b 4 }).boot.fctr = some ⟨some [7], 4⟩
      ∧ (after (.commitSvn 0 ⟨0, .own⟩) { s with boot := b 2 }).boot.counter = 3 := by decide +kernel
/-- RFC 4231, test case 2: the code begins with 0x5B. -/
theorem test_hmac : (hmac256 (ascii "Jefe") (ascii "what do ya want for nothing?")).head? = some 0x5B := by decide +kernel
/-- A staged image that has failed already; one that has not, whose header is whole. -/
def staged (found : Nat) (image : List Byte) : State :=
  { vm with boot := { vm.boot with flashSize := 2 ^ 24, upd := { vm.boot.upd with state := .busy, found := found, image := image } } }
theorem test_stage_complete : (after (.stageComplete true) (staged 2 [])).boot.upd.state = .failed
    ∧ (after (.stageComplete true) vm).boot = vm.boot := by decide +kernel

/-- A device in a phase of the boot, with 16 MiB of flash that holds the given bytes. -/
def booting (phase : Nat) (bytes : List (Nat × List Byte)) : State :=
  let flash := bytes.foldl (fun (t : Tab Byte) e => e.2.zipIdx.foldl (fun t x => Tab.set 0 t (e.1 + x.2) x.1) t) []
  { State.reset with boot := { State.reset.boot with phase := phase, flashSize := 2 ^ 24, flash := flash } }
/-- The first eight bytes of a header; the second slot lies 8 MiB above the first. -/
def magic : List Byte := [0x31, 0x58, 0x44, 0x4C, 1, 0]
/-- An image with a policy record (port 0 used), a time record without ports, and the partition of host function 0. -/
def configured : List (Nat × List Byte) :=
  [(0, magic ++ [2, 0]), (0x20, [0x10, 0, 1, 0, 0, 0x60, 0, 0, 0x20]), (0x70, [0x11, 0, 1, 0, 0, 0x70, 0, 0, 0x10])
   , (0x6000, [0x10, 0, 0xA0, 0, 0xF, 4, 0, 0, 0x10, 0]), (0x6010, [0x08, 8, 0x70, 0, 0xF, 4, 0, 0, 0xFE, 1])
   , (0x7000, [0x80, 0, 0, 0, 0, 4, 0, 0, 0, 0x40, 6])]
theorem wit_boot : (booting 1 []).boot.phase = 1 ∧ (booting 1 []).inv.pllFailed.contains 23 = false ∧ (booting 1 []).inv.pllFailed.contains 5 = false
    ∧ flashSizeOk (booting 2 []).boot.flashSize = true
    ∧ (let two := (booting 2 [(0, magic), (0x800000, magic)]).boot
       headOk (two.img 0) = true ∧ headOk (two.img 1) = true)
    ∧ (let one := (booting 2 [(0x800000, magic)]).boot
       headOk (one.img 0) = false ∧ headOk (one.img 1) = true ∧ headOk ((booting 2 []).boot.img 1) = false) := by decide +kernel
theorem wit_reject : headFail ((booting 3 [(0, magic)]).boot.img 0) 0x800000 false = some ⟨0x02, 0, 0⟩ ∧ (booting 3 []).boot.tried = []
    ∧ (match loadCfg ((booting 6 []).boot.img 0) Inventory.none 0 with | .inl f => f.code == 0x0C | .inr _ => false) = true
    ∧ (match loadCfg ((booting 6 configured).boot.img 0) Inventory.none 0 with | .inl _ => false | .inr c => c.portUse.getLsbD 0) = true := by decide +kernel
/-- FIPS 202: the digest of the empty message begins with 0xA6. -/
theorem test_sha3 : (sha3 []).head? = some 0xA6 := by decide +kernel
/-- A header of five empty sections. -/
def entry (i : Nat) (type signer : Byte) : Nat × List Byte := (0x20 + 80 * i, [type, 0, signer, 0, 0, 0x60])
def whole : List (Nat × List Byte) :=
  [(0, magic ++ [5, 0, 7]), (0x10, [0, 0, 1]), entry 0 1 0, entry 1 3 2, entry 2 0x10 1, entry 3 0x11 1, entry 4 0x12 1]
/-- The clause on a verified image: the trust anchors and the digests are those of the configuration (log 10), here given. -/
theorem wit_verify (keys : signFail ((booting 3 whole).boot.img 0) = none) (digests : hashFail ((booting 3 whole).boot.img 0) false = none) :
    (booting 3 whole).boot.phase = 3 ∧ headFail ((booting 3 whole).boot.img (booting 3 whole).boot.slot) ((booting 3 whole).boot.flashSize / 2) false = none
      ∧ signFail ((booting 3 whole).boot.img (booting 3 whole).boot.slot) = none
      ∧ (let b := (booting 3 whole).boot
         let d := b.derive (b.img 0) none
         (rollFail (b.img 0) (d.counterOf .own)).or (hashFail (b.img 0) false) = none) := by
  have key : ∀ (b : BootSt) (img : Img), hashFail img false = none →
      (rollFail img ((b.derive img none).counterOf .own)).or (hashFail img false) = none := by
    intro b img k; rw [k]; rfl
  exact ⟨rfl, by decide +kernel, keys, key _ _ digests⟩
theorem wit_stage_complete : let s := staged 0 ((booting 3 whole).boot.img 0 0 0x1B0)
    s.boot.upd.state = .busy ∧ s.boot.upd.found = 0 ∧ headFail (listImg (s.stagedBytes s.boot.upd.image)) (s.boot.flashSize / 2) false = none := by
  decide +kernel
theorem test_rom : (after (.rom true) (booting 1 [])).boot.phase = 2 ∧ (after (.rom false) (booting 1 [])).boot.failCode = 0x0E := by decide +kernel
theorem test_flash : (after (.flash none true) (booting 2 [(0x800000, magic)])).boot.slot = 1
    ∧ (after (.flash none true) (booting 2 [])).boot.failCode = 0x02 := by decide +kernel
theorem test_verify : (after (.verify none .own) (booting 3 [(0, magic)])).boot.failCode = 0x02
    ∧ (after (.verify none .own) (booting 3 [(0, magic), (0x800000, magic)])).boot.slot = 1 := by decide +kernel
theorem test_fw : (after (.fw true) (booting 4 [])).boot.phase = 5 ∧ (after (.fw true) (booting 4 [])).boot.pufLocked = true
    ∧ (after (.fw true) (booting 4 [])).boot.mgmtEntry = some 0 ∧ (after (.fw false) (booting 4 [])).boot.phase = 8 := by decide +kernel
/-- Self-test that finds nothing but the eight host lane groups. -/
def sound : BistResult := ⟨[], [], [], [], [], [], [], [], [], (true, true), [0, 1, 2, 3, 4, 5, 6, 7], true⟩
theorem test_bist : (after (.bist sound) (booting 5 [])).boot.phase = 6 ∧ (after (.bist sound) (booting 4 [])).boot.phase = 4 := by decide +kernel
/-- A device in phase CONFIG whose self-test has found the floor, with an image that loads. -/
def loading (floor : Bool) : State := { booting 6 configured with inv := { Inventory.none with floorOk := floor } }
theorem wit_config : (loading true).boot.phase = 6 ∧ (loading true).inv.floorOk = true ∧ (loading false).inv.floorOk = false
    ∧ (match loadCfg ((loading true).boot.img 0) (loading true).inv 0 with | .inl _ => false | .inr c => c.portUse.getLsbD 0) = true := by decide +kernel
theorem test_config : let t := after .config (loading true)
    t.cfg.cfgDone = true ∧ t.boot.phase = 7 ∧ (t.port 0).state = .training ∧ (t.hostCfg 0).ctxCount = 100 := by decide +kernel
theorem test_config_floor : (after .config (loading false)).boot.failCode = 0x0E := by decide +kernel
/-- Two seconds after phase FLASH began. -/
def slow (phase : Nat) : State := let s := booting phase []
  { s with time := { s.time with clk := 2000000000 } }
theorem wit_load_timeout : (∀ p ∈ [2, 3, 4, 6], (slow p).boot.phase = p) ∧ (slow 2).boot.tLoad.toNat + 2000000000 ≤ (slow 2).time.clk.toNat
    ∧ (booting 2 []).time.clk.toNat < (booting 2 []).boot.tLoad.toNat + 2000000000 := by decide +kernel
theorem test_load_timeout : (after .configLoadTimeout (slow 2)).boot.failCode = 0x0D ∧ (after .configLoadTimeout (slow 5)).boot.phase = 5 := by decide +kernel
theorem wit_pll : (∀ d ∈ [5, 14, 21, 23], (booting 1 []).inv.pllFailed.contains d = false) ∧ vm.boot.phase = 7
    ∧ ((porting (fun p => { p with state := .training })).port (14 - 14)).state = .training := by decide +kernel
theorem test_pll : (after (.pllLockTimeout 23) (booting 1 [])).inv.pllFailed = [23]
    ∧ (after (.pllLockTimeout 14) (porting (fun p => { p with state := .training }))).inv.portsBad = [0] := by decide +kernel
/-! ## Resets, supply, heat and idle states -/

theorem wit_reset : vm.pwr.trip = false ∧ vm.pwr.inReset = false ∧ vm.boot.phase ≠ 0
    ∧ (let t := after .powerUp vm; t.pwr.inReset = true ∧ t.pwr.trip = false)
    ∧ (∀ c0 ∈ [94, 95], let s := after (.thermalTrip c0 0 0 105) vm
       let t : State := { s with pwr := { s.pwr with inReset := true } }
       t.pwr.trip = true ∧ t.pwr.inReset = true ∧ (t.pwr.tjC0 < 95 ↔ c0 = 94) ∧ t.pwr.tjC1 < 95 ∧ t.pwr.tjH < 95) := by decide +kernel
theorem test_power_up : (after .powerUp { vm with pending := [.wake] }).pwr.inReset = true ∧ (after .powerUp { vm with pending := [.wake] }).pending = [.wake]
    ∧ (after .powerUp vm).cfg.cfgDone = false := by decide +kernel
theorem test_supply_reset : (after (.supplyReset .c0) vm).pwr.rstCause = 2 ∧ (after (.supplyReset .c0) (after (.thermalTrip 0 0 0 105) vm)).pwr.rstCause = 3 := by
  decide +kernel
theorem test_sys_rst : (after (.sysRstNAssert 999) vm).pwr.inReset = false ∧ (after (.sysRstNAssert 1000) vm).pwr.rstCause = 1 := by decide +kernel
theorem test_release : let t := after (.sysRstNRelease 0 5) (after .powerUp vm)
    t.boot.phase = 1 ∧ t.boot.sbAddr = 5 ∧ t.pwr.inReset = false
      ∧ (after (.sysRstNRelease 0 5) (after (.thermalTrip 0 0 0 105) vm)).pwr.trip = true := by decide +kernel
theorem wit_cold_row : coldRow (.registerWrite .m 0x400008 .w64 1) = false ∧ resetRow (.registerWrite .m 0x400008 .w64 1) = true
    ∧ resetRow (.registerWrite .m 0x400010 .w64 1) = false ∧ lifeRow .cmdAdmit = true ∧ dev.cfg.cfgDone = true ∧ dev.boot.phase = 7
    ∧ (match exec .cmdAdmit dev with | .next _ => true | _ => false) = true ∧ dev.mem.wf = true := by decide +kernel
theorem wit_warm : vm.regReady .m false = true ∧ vm.trc.dump.busy = false ∧ vm.pwr.warming = false ∧ (vm.ctx 0).state ≠ .off ∧ (∀ e ∈ State.reset.ctxs, e.2.state = .off)
    ∧ (let t := after (.warm .m 0) vm
       t.pwr.warming = true ∧ (t.ctx 0).state = .resetting ∧ t.trc.dump.busy = false ∧ t.cmdList.all (fun e => e.2.ctx != 0) = true ∧ t.cmds.wagons = []
        ∧ t.ctxs.all (fun e => e.1 == 0 || e.2.state == .off) = true)
    ∧ frozen.trc.dump.busy = true ∧ frozen.trc.dump.done = false
    ∧ (let taken (v : Word) : Bool := decide (10 ≤ v.toNat % 2 ^ 16 ∧ v.toNat % 2 ^ 16 ≤ 1000 ∧ 1 ≤ v.toNat / 2 ^ 16 ∧ v.toNat / 2 ^ 16 ≤ 1000
        ∧ v.toNat % 2 ^ 16 < v.toNat / 2 ^ 16 * 1000)
       taken 0x0001000A = true ∧ taken 0x03E803E8 = true ∧ taken 0x000103E8 = false ∧ taken 0x00010009 = false ∧ taken 0x03E90032 = false) := by decide +kernel
theorem test_warm : let t := after (.warm .m 0x00960007) (ups vm [0])
    t.pwr.rstCause = 0 ∧ t.pwr.cap = 150 ∧ (t.ctx 0).state = .resetting ∧ t.cfg = vm.cfg
      ∧ (after (.ctxResetDone 0) t).pwr.rstCause = 4 ∧ ((after (.ctxResetDone 0) t).port 0).state = .retraining := by decide +kernel
theorem test_warm_in_dump : (after (.warm .m 0) frozen).pwr.rstCause = 0 := by decide +kernel
theorem test_pwr_tmo : (after (.pwrTmoWrite .m 0x03E8000A) vm).pwr.stallMs = 1000 ∧ (after (.pwrTmoWrite .m 0x03E80009) vm).pwr.wagonUs = 50 := by decide +kernel
/-- One second after reset, with a supply warning; after its release; a Sleeper device. -/
def hour (f : PwrSt → PwrSt) : State := let s := second vm
  { s with pwr := f s.pwr, cfg := { s.cfg with profile := .sleeper } }
theorem wit_supply : vm.pwr.warn = false ∧ vm.pwr.trip = false ∧ vm.pwr.inReset = false ∧ (hour (fun p => { p with warn := true })).pwr.warn = true
    ∧ (hour (fun p => { p with warn := true })).pwr.holdExp = false ∧ (hour id).pwr.warnAt.toNat + 1000000 ≤ (hour id).time.clk.toNat
    ∧ (hour (fun p => { p with releasedAt := some 999950000 })).pwr.releasedAt = some 999950000 ∧ 999950000 + 50000 ≤ (hour id).time.clk.toNat := by decide +kernel
theorem test_warning : (after (.supplyWarning .hub) (hour id)).pwr.admitStop = true ∧ (after (.supplyWarning .hub) (hour id)).pwr.step 0 = 5 := by decide +kernel
theorem test_warning_end : (after .warningReleased (hour (fun p => { p with warn := true }))).pwr.releasedAt = some 1000000000
    ∧ (after .warningReturn (hour (fun p => { p with releasedAt := some 999950000, admitStop := true }))).pwr.admitStop = false
    ∧ (after .warningReturn (hour (fun p => { p with releasedAt := some 999950001, admitStop := true }))).pwr.admitStop = true := by decide +kernel
theorem test_hold_window : (after .holdWindowExpire (hour (fun p => { p with warn := true, admitStop := true }))).pwr.holdExpired = 1 := by decide +kernel
theorem wit_throttle : (hour id).cfg.profile ≠ .express ∧ vm.cfg.profile = .express ∧ (hour id).pwr.thC0 < 4 ∧ (hour id).pwr.thC1 < 4 ∧ (hour id).pwr.capStep < 4
    ∧ (∀ k ∈ [0, 1, 2], (Tab.get 0 (hour id).pwr.downAt k).toNat + 1000000 ≤ (hour id).time.clk.toNat
      ∧ (Tab.get 0 (hour id).pwr.upAt k).toNat + 1000000 ≤ (hour id).time.clk.toNat)
    ∧ 0 < (hour (fun p => { p with thC0 := 4 })).pwr.thC0 ∧ 4 * (hour id).pwr.cap < 1601 ∧ 100 * 1519 < 380 * (hour id).pwr.cap := by decide +kernel
theorem test_throttle : (after (.throttleTick 95 94 0) (hour id)).pwr.thC0 = 1 ∧ (after (.throttleTick 95 94 0) (hour id)).pwr.thC1 = 0
    ∧ (after (.throttleTick 90 90 1519) (hour (fun p => { p with thC0 := 2, capStep := 1 }))).pwr.thC0 = 1
    ∧ (after (.throttleTick 91 90 1520) (hour (fun p => { p with thC0 := 2, capStep := 1 }))).pwr.capStep = 1 := by decide +kernel
theorem test_crit : (after (.thermCrit 105 0 0) (hour id)).pwr.step 1 = 5 ∧ (after (.thermCrit 104 104 104) (hour id)).pwr.thermCrit = false := by decide +kernel
theorem test_crit_clear : (after (.thermCritClear 100 100 100) (hour (fun p => { p with thermCrit := true }))).pwr.thermCrit = false
    ∧ (after (.thermCritClear 100 101 100) (hour (fun p => { p with thermCrit := true }))).pwr.thermCrit = true := by decide +kernel
theorem test_trip : (after (.thermalTrip 0 0 0 105) (hour id)).pwr.rstCause = 3 ∧ (after (.thermalTrip 0 0 0 105) (hour id)).time.now = 1000000000
    ∧ (after (.thermalTrip 114 114 114 104) (hour id)).pwr.trip = false := by decide +kernel
theorem test_hbm_temp : (after (.hbmTempChange 3 85) vm).pwr.fastRefresh = [3] ∧ (after (.hbmTempChange 3 84) vm).pwr.fastRefresh = []
    ∧ (after (.hbmTempChange 3 91) { vm with pwr := { vm.pwr with halfRate := [3] } }).pwr.halfRate = [3]
    ∧ (after (.hbmTempChange 3 90) { vm with pwr := { vm.pwr with halfRate := [3] } }).pwr.halfRate = [] := by decide +kernel
/-- Idle since reset, all states allowed; in I4, with a host read that waits; on the way out of I4. -/
def resting (f : PwrSt → PwrSt) : State :=
  let s := hour (fun p => f { p with idleSince := some 0, idleEn := 0xF })
  s.setHost 0 { s.hostFn 0 with ltrReq := false }
theorem wit_idle : (resting id).pwr.idleSince = some 0 ∧ (resting id).pwr.trans = false ∧ (resting id).idle = true ∧ (resting id).cfg.cfgDone = true
    ∧ (resting id).mayEnter 1 0 = true ∧ (resting (fun p => { p with idleEn := 8 })).mayEnter 4 0 = true ∧ vm.pwr.idleSince = none
    ∧ (∀ j ∈ [1, 2, 3], (resting (fun p => { p with idleEn := 8 })).mayEnter j 0 = false)
    ∧ (resting (fun p => { p with state := 4, held := [.hdmRead 0 0] })).wakeDue = true ∧ (resting id).wakeDue = false
    ∧ (resting (fun p => { p with state := 1 })).regOpen .h0 = true ∧ (resting (fun p => { p with state := 1 })).asleep = true
    ∧ needsPath (.enable .h0 0) = true ∧ writerOf (.enable .h0 0) = some .h0 ∧ (resting (fun p => { p with state := 2 })).dieStopped = true
    ∧ (resting (fun p => { p with state := 4, exiting := true })).pwr.held = [] := by decide +kernel
theorem test_idle_entry : (after .idleEntry (resting id)).pwr.target = 1 ∧ (after .idleEntry (resting (fun p => { p with idleEn := 8 }))).pwr.target = 4 := by
  decide +kernel
theorem test_idle_tick_entry : (match step (resting (fun p => { p with trans := true, target := 2 })) with
    | .next t => t.pwr.state == 2 && !t.pwr.trans | _ => false) = true := by decide +kernel
theorem test_wake : (after .wake (resting (fun p => { p with state := 4, held := [.hdmRead 0 0] }))).pwr.exiting = true := by decide +kernel
theorem test_held_access : let t := after (.ctxSeedWrite .h0 0 7) (resting (fun p => { p with state := 1, trans := true, exiting := true }))
    t.pwr.held = [.access .h0 (.ctxSeedWrite .h0 0 7)] ∧ (t.ctx 0).seed = (vm.ctx 0).seed ∧ ((after .idleExitDone t).ctx 0).seed = 7 := by decide +kernel
theorem test_idle_exit : let t := after .idleExitDone { resting (fun p => { p with state := 4, exiting := true, trans := true }) with
      mem := { vm.mem with plat := [(0, 9)], platEra := 1 } }
    t.pwr.state = 0 ∧ t.mem.get (.plat 0 0) = 0 ∧ t.mem.get (.hbm 0) = 1 := by decide +kernel
theorem wit_sideband : ({ dev with pwr := { dev.pwr with thermCrit := true } } : State).boot.romOk = true ∧ State.reset.boot.romOk = false
    ∧ dev.pwr.thermCrit = false ∧ dev.pwr.holdExp = false ∧ dev.boot.phase ≠ 8 := by decide +kernel
theorem test_sb : (after .sbBootStat dev).pwr.sbResp = some (toLe 8 dev.bootStat) ∧ (after .sbBootStat State.reset).pwr.sbResp = none
    ∧ (after .sbGctlInventory State.reset).pwr.sbResp = none := by decide +kernel
theorem test_sb_power : (after .sbPwrStat dev).pwr.sbResp = some (toLe 8 dev.pwrStat) ∧ (after .sbPwrTemp dev).pwr.sbResp = some (toLe 8 dev.pwrTemp)
    ∧ (after .sbPwrSupply dev).pwr.sbResp = some (toLe 8 dev.pwrSupply) := by decide +kernel
theorem test_sb_alert : (after .sbAlertResponse { dev with pwr := { dev.pwr with thermCrit := true } }).pwr.sbResp = some [0x58]
    ∧ (after .sbAlertResponse dev).pwr.sbResp = none := by decide +kernel

/-! ## Observation -/

/-- An armed trace whose source MARK is enabled. -/
def tracing : State := let s := second vm
  { s with trc := { s.trc with en := true, sampleUs := 10, portEn := true } }
def markRec (v : Dword) : TrcRec := ⟨0x0C, Master.m.code, 0, 0, 0, tracing.time.now, BitVec.ofNat 64 (v.toNat % 2 ^ 63), 0⟩
theorem wit_trace : vm.regOpen .m = true ∧ (0x9 : Dword).toNat / 2 % 4 ≠ 3 ∧ (0x9 : Dword).toNat / 8 % 16 ≠ 0
    ∧ tracing.trc.emits false (markRec 5) = true ∧ vm.trc.emits false (markRec 5) = false
    ∧ tracing.trc.sampleAt.toNat + 1000 * tracing.trc.sampleUs ≤ tracing.time.clk.toNat ∧ vm.trc.sampleUs = 0
    ∧ tracing.trc.fifos = [] ∧ tracing.trc.share = none ∧ tracing.trc.mode ≠ 0
    ∧ tracing.inv.pllFailed.contains 24 = false ∧ tracing.trc.frozen = false ∧ tracing.trc.headGap.count = 0 ∧ tracing.trc.tailGap = none := by decide +kernel
theorem test_arm : (after (.arm .m 0x000A0009) tracing).trc.en = true ∧ (after (.arm .m 0x000A0009) tracing).trc.sampleUs = 10
    ∧ (after (.arm .h0 9) tracing).log.next = 1 := by decide +kernel
theorem test_mark : (tracing.trc.write 0 ⟨markRec 5, false⟩).buf.map (fun r => r.a) = [5] ∧ (tracing.trc.write 0 ⟨markRec 5, true⟩).triggered = true
    ∧ (tracing.trc.write 0 ⟨markRec 5, true⟩).share = some 8191 := by decide +kernel
/-- A full FIFO drops a record; the next one that finds room stands behind a GAP record of the source with the count (R476). -/
theorem test_fifo : let full : Fifo := ⟨List.replicate 64 ⟨markRec 1, false⟩, ⟨0, 0⟩⟩
    (full.offer ⟨markRec 2, false⟩).2 = 1 ∧ (full.offer ⟨markRec 2, false⟩).1.lost.count = 1
    ∧ ((Fifo.mk [] ⟨3, 7⟩).offer ⟨markRec 2, false⟩).1.recs.map (fun e => (e.rec_.type, e.rec_.src, e.rec_.a)) = [(0x0E, 8, 3), (0x0C, 8, 2)] := by decide +kernel
/-- `vm` whose log holds an entry of a misaligned access of host function 0, made `age` ns before `vm`'s time 2 ms. -/
def refused (age : Nat) : State :=
  { vm with time := { vm.time with now := 2000000 }
            log := { vm.log with next := 1, entries := [⟨0, 0x06, 1, 0, 7, BitVec.ofNat 64 (2000000 - age), 0x900001, 0, 0, 0, 0, 0⟩] } }
theorem wit_error_log : vm.regReady .h0 (offNeeds 0x900001) = true ∧ vm.regReady .m false = true ∧ bootHidden .h0 0x900001 = false ∧ pciHost .h0 0x900001 = none
    ∧ spotOf 0x900001 .w32 = .bad ∧ (refused 5).regReady .h0 false = true ∧ (refused 5).regReady .h1 false = false
    ∧ ((refused 5).log.entries[0]?.map (fun x => (x.status.toNat, x.unit, x.ctx, x.addr, x.host, x.seq.toNat))) = some (6, 7, 0, 0x900001, 0, 0)
    ∧ Tab.get 0 (refused 5).log.sel Master.h0.code = 0 ∧ (vm.hostFn 0).vectorOpen 0 = false
    ∧ ((vm.setHost 0 { vm.hostFn 0 with pci := [(0x80, 0x80000000)], msixTab := [(0, ⟨0, 0, false⟩)] }).hostFn 0).vectorOpen 0 = true := by decide +kernel
/-- A repeat is counted within 1 ms and makes an entry after it; the entry raises vector 0 of the function that it names (R411, R471). -/
theorem test_error_log : let acc : Access := ⟨0x900001, .w32⟩
    let t := after (.lowHalfRead .h0 acc) (refused 5)
    let u := after (.lowHalfRead .h0 acc) (refused 1000001)
    t.log.entries.map (·.rep) = [1] ∧ u.log.entries.map (fun e => (e.rep, e.host, e.master)) = [(0, 0, 1), (0, 0, 1)] ∧ (u.hostFn 0).msixPend = [0]
    ∧ (t.hostFn 0).msixPend = [] := by decide +kernel
theorem test_sample : (after .sample tracing).trc.sampleAt = 1000000000 := by decide +kernel
theorem test_sent : let s : State := { tracing with trc := { tracing.trc with buf := [markRec 1, markRec 2] } }
    (after .traceRecordSent s).trc.buf = [markRec 2] ∧ (after .traceRecordSent s).trc.sent = [markRec 1] := by decide +kernel
/-- A dump that has been written; one of a context whose watchdog started it. -/
def dumped (c : Option Nat) : State :=
  { vm with trc := { vm.trc with dump := { vm.trc.dump with busy := true, done := true, wdogCtx := c } } }
theorem wit_dump : vm.trc.dump.busy = false ∧ (0 : Dword).getLsbD 1 = false ∧ (dumped none).trc.dump.done = true ∧ (dumped none).trc.dump.held = []
    ∧ (dumped (some 0)).trc.dump.wdogCtx = some 0 ∧ ((dumped (some 0)).ctx 0).state = .on ∧ (∀ e ∈ vm.cmdList, e.2.outQ = [])
    ∧ frozen.trc.dump.busy = true ∧ frozen.trc.dump.done = false ∧ vm.trc.dump.autoBook = false := by decide +kernel
theorem test_go : (after (.go .m 0) vm).trc.dump.busy = true ∧ (after (.go .h0 0) vm).trc.dump.busy = false := by decide +kernel
theorem test_resume : (after (.resume .d 0) (dumped none)).trc.dump.busy = false ∧ ((after (.resume .m 0) (dumped (some 0))).ctx 0).fault = true
    ∧ (after (.resume .m 0) frozen).trc.dump.busy = true := by decide +kernel
theorem test_dump_done : let t := after .dumpDone { frozen with trc := { frozen.trc with dump := { frozen.trc.dump with image := [(0x20000, [7, 8])] } } }
    t.trc.dump.done = true ∧ t.mem.read (.hbm 0x20000) 2 = [7, 8] := by decide +kernel
theorem test_book : Tab.get 0 (after (.bookTimeout .leases) vm).cnt (cntDev 18) = 1
    ∧ (after (.bookTimeout .leases) { vm with trc := { vm.trc with dump := { vm.trc.dump with autoBook := true } } }).trc.dump.cause = 2 := by decide +kernel

/-! ## More witnesses: accesses that span or miss, units of work, packets that pass through -/

theorem wit_wide_access : dev.regOpen .m = true ∧ (∀ e ∈ [(4, Width.w64), (0x100014, .w64), (0x100012, .w32)], spotOf e.1 e.2 = .bad
    ∧ bootHidden .m e.1 = false ∧ pciHost .m e.1 = none) := by decide +kernel
/-- An invalidation of page 1 with a request of page 0, of page 1, that waits to be issued. -/
def invalWaits (vpn : Nat) : State :=
  (vm.setCmd 0 (some { cmd 7 .started [] with outQ := [{ (wag .read (.hbm 0)).req with va := 0x100 }] })).setInval .h0 (some ⟨0, false, vpn, 1, 4⟩)
theorem wit_inval_waits : (∀ x ∈ (invalWaits 1).waiting, x.2.1.ctx = 0 ∧ x.2.2.va ≠ 0 ∧ x.2.2.va / 65536 < 1) ∧ (invalWaits 1).waiting ≠ []
    ∧ (∃ x ∈ (invalWaits 0).waiting, x.2.1.ctx = 0 ∧ 0 ≤ x.2.2.va / 65536 ∧ x.2.2.va / 65536 < 0 + 1)
    ∧ (invalWaits 1).cmds.wagons = [] := by decide +kernel
/-- VECFN of two units, and ATTN_BWD of three work items. -/
def preempted (c : Cmd) : State := (vm.modCtx 0 (fun x => { x with state := .preempting, saveSize := 2 })).setCmd 0 (some c)
def vecPb : List Byte := block 256 [(0, [0, 4])]
theorem wit_unit : computes (preempted (cmd 5 .started vecPb)) 5 (cmd 5 .started vecPb) ⟨5, vecPb, [], [], []⟩ = true
    ∧ (cmd 5 .started vecPb).pos + 1 < (⟨5, vecPb, [], [], []⟩ : Stage).units := by
  decide +kernel
def items : Stage := ⟨4, block 256 [(0, [1]), (4, [1, 0, 1]), (8, [32])], [], [], block 32 [(4, [65]), (12, [1])]⟩
def itemCmd : Cmd := { cmd 4 .started items.pb with stages := [items] }
theorem wit_item : let s := preempted itemCmd
    let u : Win := ⟨0, 1⟩
    s.xlt.mig = [] ∧ s.workable 0 4 false = some itemCmd ∧ itemCmd.pos = 0 ∧ u.hi < items.units
    ∧ (match s.ready 0 itemCmd with
      | (s1, true) => (match s1.cmd? 0 with
        | some c => c.stages == [items] && !c.chained && c.phase == .started && c.info == 0 && c.outQ.isEmpty
            && s1.outFault c 0 (s1.bwdWork c items u) == none && (s1.outReqs 0 c 0 4 (s1.bwdWork c items u)).isEmpty
        | none => false)
      | _ => false) = true := by decide +kernel
/-- Outputs of a stage without streams go nowhere. -/
theorem no_streams (s : State) (slot : Nat) (c : Cmd) (i op : Nat) (w : WorkOut) (h : ∀ f, c.desc i f = none) (hd : w.direct = []) :
    s.outFault c i w = none ∧ s.outReqs slot c i op w = [] := by
  have hn : w.outs.findSome? (fun _ => (none : Option (Byte × FaultAt))) = none := List.findSome?_eq_none_iff.2 (fun _ _ => rfl)
  simp [State.outFault, State.outReqs, State.demandFault, h, hd, hn]
theorem upWork_direct (io : IO) (p : UpPar) (k : UpScal) (a b c d : Bool) (f : Nat → Nat) (u : Win) : (upWork io p k a b c d f u).direct = [] := by
  unfold upWork; split <;> rfl
/-- UPDATE of 2 × 65,536 elements. -/
def ranges : Cmd := { updater 0 with control := some [5, 0, 0, 0, 0, 0, 0, 0, 0, 0, 0x80, 0x3F, 0, 0, 0, 0], stages := [⟨12, block 256 [(0x81, [1]), (0x34, [0, 0, 0x80, 0x3F]), (0, [2]), (4, [0, 0, 1])], [], [], []⟩] }
def ranger : Stage := nth Stage.none ranges.stages 0
theorem wit_update_range : (preempted ranges).xlt.mig = [] ∧ (preempted ranges).workable 0 12 false = some ranges
    ∧ ranges.pos + 1 < ranger.units ∧ ranges.chained = false ∧ ranges.phase = .started
    ∧ ((preempted ranges).ready 0 ranges == ((preempted ranges), true)) = true := by decide +kernel
theorem wit_update_range_out (k : UpScal) (io : IO) (f : Nat → Nat) (u : Win) :
    let w := upWork io (upPar ranger.pb) k false false false false f u
    (preempted ranges).outFault ranges 0 w = none ∧ (preempted ranges).outReqs 0 ranges 0 12 w = [] :=
  no_streams _ _ _ _ _ _ (fun _ => rfl) (upWork_direct _ _ _ _ _ _ _ _ _)
/-- MIGRATE into a compressed arena whose header's reserved bytes are not zero. -/
theorem wit_migrate_arena : let c := movingIn 1 8 [0, 0, 0, 0x20] 1
    let s := migrating c
    let d := moving 1 8 [0, 0, 0, 0x20]
    s.xlt.mig = [] ∧ s.workable 0 8 false = some c ∧ s.migFault c (mgPar c.pb) = none ∧ (s.gather 0 c 0 (mgPar c.pb).demand == (s, true)) = true
    ∧ s.arenaBad c (mgPar c.pb) = true ∧ (migrating d).arenaBad d (mgPar d.pb) = false := by decide +kernel
/-- A packet for another node, which its port passes on; a CREDIT packet of the neighbour. -/
def passing : State := (ups pod [1]).setPort 0 { Port.reset with state := .up, rxSlots := (pkt 1 0 0 0 []).slots, rxRpl := [false] }
theorem wit_forward : headerBad (pkt 1 0 0 0 []).header = false ∧ (pkt 1 0 0 0 []).linkLocal = false ∧ (pkt 1 0 0 0 []).dst.toNat ≠ passing.cfg.node.node
    ∧ (pkt 1 0 0 0 []).dst.toNat < passing.cfg.node.count ∧ passing.mustWait (pkt 1 0 0 0 []) = false
    ∧ (match (passing.setPort 0 { passing.port 0 with rxSlots := [], rxRpl := [] }).sendPacket (pkt 1 0 0 0 []) none none (some (0, 0)) with
      | (_, .sent) => true | _ => false) = true := by decide +kernel
theorem wit_credit : headerBad (pkt 9 3 0 0 []).header = false ∧ (pkt 9 3 0 0 []).linkLocal = true
    ∧ (pkt 9 3 0 0 []).src.toNat = ((porting (fun p => { p with peerNode := 0 })).port 0).peerNode := by decide +kernel
theorem wit_not_returned : isReturned stXlate = true ∧ isReturned 0x0E = false ∧ isReturned 0 = false ∧ isReturned stFormat = true := by decide

/-! ## Encodings -/

theorem wit_encodings : (Flit.ftype data0 ≤ 2 ∧ data0.first < 16 ∧ data0.body.length = 256) ∧ (yfr 1 4 7).payload.length < 2 ^ 32
    ∧ (ringFrame 9 0 1 1 1 0 64).payload.length < 2 ^ 32
    ∧ [Enc.fp32, .bf16, .e4m3, .e5m2].map (fun E => match E.decode 1 with | .fin _ m _ => (m, decide (1 < 2 ^ E.width)) | _ => (0, false))
      = [(1, true), (1, true), (1, true), (1, true)] := by decide +kernel
/-- 1.0 of BF16 as FP32; the largest E4M3, to which a larger value saturates. -/
theorem test_encodings : (Enc.fp32.conv .rne true (Enc.bf16.decode 0x3F80)).bits = 0x3F800000 ∧ (Enc.e4m3.conv .rne true (Enc.fp32.decode 0x47800000)).bits = 0x7E := by
  decide +kernel

end Sys2Proof.Tests
end

/-!
PROOFS. Register accesses (R6–R9): what an access that is open to its master and need not wait does, where the register window holds a 64-bit
register, and the register writes of a context's window; from these, O3.
-/
namespace Sys2Proof.Machine

/-! ## Accesses that are open and need not wait -/

theorem State.regOpen_of_regReady {s : State} {mst : Master} {path : Bool} (h : s.regReady mst path = true) : s.regOpen mst = true := by
  simp only [State.regReady, Bool.and_eq_true] at h
  exact h.1

/-- A command that needs a path only where `path` does finds none of the waits of R454. -/
theorem State.mustHold_eq_false {s : State} {mst : Master} {path : Bool} {i : Instr} (h : s.regReady mst path = true)
    (hi : needsPath i = path) : s.mustHold mst i = false := by
  simp only [State.regReady, Bool.and_eq_true, Bool.not_eq_true'] at h
  simpa [State.mustHold, hi] using h.2

theorem State.busHeld_eq_false {s : State} {mst : Master} {path : Bool} {i : Instr} (off : Nat) (h : s.regReady mst path = true)
    (hi : needsPath i = path) : s.busHeld mst off i = false := by
  simp [State.busHeld, State.mustHold_eq_false h hi]

@[simp] theorem State.regOpen_clearBus (s : State) (mst other : Master) : (s.clearBus mst).regOpen other = s.regOpen other := rfl

section Ready
variable {mst : Master} {off : Nat} {s : State} (hr : s.regReady mst (offNeeds off) = true) (hb : bootHidden mst off = false)
  (hp : pciHost mst off = none)
include hr hb hp

/-- A write access reaches its register, with the low half that the last access left (R7, R8). -/
theorem busWrite_of_ready (width : Width) (v : Dword) :
    busWrite mst off width v s = spotWrite mst off (spotOf off width) v (s.holdOf mst) (s.clearBus mst) := by
  simp [busWrite, hp, hb, State.regOpen_of_regReady hr]

theorem exec_registerWrite_of_ready (width : Width) (v : Dword) :
    exec (.registerWrite mst off width v) s
      = .next (spotWrite mst off (spotOf off width) v (s.holdOf mst) (s.clearBus mst)) := by
  simp [exec, execRegisterWrite, State.busHeld_eq_false off hr (i := .registerWrite mst off width v) rfl, busWrite_of_ready hr hb hp]

theorem exec_lowHalfWrite_of_ready (v : Word) :
    exec (.lowHalfWrite mst off v) s
      = .next (spotWrite mst off (spot32 off) (v.setWidth 64) (s.holdOf mst) (s.clearBus mst)) := by
  simp [exec, execLowHalfWrite, State.busHeld_eq_false off hr (i := .lowHalfWrite mst off v) rfl, busWrite_of_ready hr hb hp, spotOf]

theorem exec_highHalfWrite_of_ready (v : Word) :
    exec (.highHalfWrite mst off v) s
      = .next (spotWrite mst off (spot32 off) (v.setWidth 64) (s.holdOf mst) (s.clearBus mst)) := by
  simp [exec, execHighHalfWrite, State.busHeld_eq_false off hr (i := .highHalfWrite mst off v) rfl, busWrite_of_ready hr hb hp, spotOf]

/-- A read access reaches its register, with the high half that the last access latched (R7, R8). -/
theorem exec_lowHalfRead_of_ready (width : Width) :
    exec (.lowHalfRead mst ⟨off, width⟩) s
      = .next (spotRead mst off (spotOf off width) (s.latchOf mst) (s.clearBus mst)) := by
  simp [exec, execLowHalfRead, State.busHeld_eq_false off hr (i := .lowHalfRead mst ⟨off, width⟩) rfl, busRead, hp, hb,
    State.regOpen_of_regReady hr]

end Ready

/-! ## The latch and the held half -/

@[simp] theorem State.latchOf_clearBus (s : State) (mst : Master) : (s.clearBus mst).latchOf mst = none := by simp [State.latchOf]
@[simp] theorem State.holdOf_clearBus (s : State) (mst : Master) : (s.clearBus mst).holdOf mst = none := by simp [State.holdOf]
@[simp] theorem State.latchOf_setLatch (s : State) (mst : Master) (l : Latch) : (s.setLatch mst l).latchOf mst = some l := by
  simp [State.latchOf]
@[simp] theorem State.holdOf_setLatch (s : State) (mst : Master) (l : Latch) : (s.setLatch mst l).holdOf mst = s.holdOf mst := rfl
@[simp] theorem State.holdOf_setHold (s : State) (mst : Master) (l : Latch) : (s.setHold mst l).holdOf mst = some l := by
  simp [State.holdOf]
@[simp] theorem State.latchOf_setHold (s : State) (mst : Master) (l : Latch) : (s.setHold mst l).latchOf mst = s.latchOf mst := rfl
@[simp] theorem State.latchOf_answer (s : State) (mst : Master) (v : Nat) : (s.answer v).latchOf mst = s.latchOf mst := rfl
@[simp] theorem State.holdOf_answer (s : State) (mst : Master) (v : Nat) : (s.answer v).holdOf mst = s.holdOf mst := rfl

/-- The next access of a master discards the half that it held. -/
theorem State.clearBus_setHold_clearBus (s : State) (mst : Master) (l : Latch) :
    ((s.clearBus mst).setHold mst l).clearBus mst = s.clearBus mst := by
  simp [State.clearBus, State.setHold]

/-- Whether an access waits does not depend on the bus (R454). -/
theorem State.regReady_setHold_clearBus (s : State) (mst : Master) (l : Latch) (path : Bool) :
    ((s.clearBus mst).setHold mst l).regReady mst path = s.regReady mst path := rfl

/-- An access that leaves a half on the bus, or answers, changes the bus alone. -/
theorem State.frame_bus (s : State) (b : BusSt) : Frame [.bus] s { s with bus := b } := by
  intro g hg
  cases g
  case bus => exact absurd (List.mem_singleton_self _) hg
  all_goals rfl

/-- The low half of a 64-bit register is answered and its high half latched. -/
theorem spotRead_low (mst : Master) (off : Nat) (r : Reg) (l : Option Latch) (s : State) :
    spotRead mst off (.low r) l s
      = (s.setLatch mst ⟨r.off, BitVec.ofNat 32 (hiHalf (s.regRead mst r))⟩).answer (s.regRead mst r % 2 ^ 32) := rfl

theorem spotRead_high_latched (mst : Master) (off : Nat) (r : Reg) (h : Word) (s : State) :
    spotRead mst off (.high r) (some ⟨r.off, h⟩) s = s.answer h.toNat := by simp [spotRead]

/-- Without a latch of this register, its high half is read as it is now. -/
theorem spotRead_high_unlatched (mst : Master) (off : Nat) (r : Reg) (l : Option Latch) (s : State) (hl : ∀ x, l = some x → x.reg ≠ r.off) :
    spotRead mst off (.high r) l s = s.answer (hiHalf (s.regRead mst r)) := by
  cases l with
  | none => rfl
  | some x => simp [spotRead, hl x rfl]

/-- The word that a 32-bit write carries. -/
theorem ofNat_toNat_setWidth (w : Word) : BitVec.ofNat 32 (w.setWidth 64).toNat = w := by bv_omega

theorem spotWrite_low (mst : Master) (off : Nat) (r : Reg) (lo : Word) (l : Option Latch) (s : State) :
    spotWrite mst off (.low r) (lo.setWidth 64) l s = s.setHold mst ⟨r.off, lo⟩ := by
  simp only [spotWrite, ofNat_toNat_setWidth]

/-- The high half commits the register with the low half that is held. -/
theorem spotWrite_high_held (mst : Master) (off : Nat) (r : Reg) (lo hi : Word) (s : State) :
    spotWrite mst off (.high r) (hi.setWidth 64) (some ⟨r.off, lo⟩) s = regWrite mst r (hi ++ lo) s := by
  simp only [spotWrite, ofNat_toNat_setWidth, ofHalves, if_true]

theorem spotWrite_high_unheld (mst : Master) (off : Nat) (r : Reg) (v : Dword) (l : Option Latch) (s : State)
    (hl : ∀ x, l = some x → x.reg ≠ r.off) : spotWrite mst off (.high r) v l s = s.logReg mst off := by
  cases l with
  | none => rfl
  | some x => simp [spotWrite, hl x rfl]

/-! ## Where the registers stand -/

/-- The blocks of registers end at 0xB00000 (R9). -/
theorem regAt_lt {off : Nat} {r : Reg} (h : regAt off = some r) : off < 0xB00000 := by
  unfold regAt at h
  grind

/-- The registers of BAR0 lie below the configuration space and the other BARs (R401). -/
theorem pciHost_eq_none {off : Nat} (mst : Master) (h : off < 2 ^ 32) : pciHost mst off = none := by
  have hz : pciRegion off = 0 := Nat.div_eq_of_lt h
  simp [pciHost, inPci, hz]

theorem spot32_eq_low {off : Nat} {r : Reg} (h : spot32 off = .low r) : regAt off = some r := by
  unfold spot32 at h
  grind

theorem spot32_eq_high {off : Nat} {r : Reg} (h : spot32 off = .high r) : off % 8 = 4 ∧ regAt (off - 4) = some r := by
  unfold spot32 at h
  grind

theorem spot32_of_wide {off : Nat} {r : Reg} (h : regAt off = some r) (hw : r.wide = true) (ho : off % 8 = 0) : spot32 off = .low r := by
  have ho4 : off % 4 = 0 := by omega
  simp [spot32, ho4, h, hw]

theorem spot32_of_narrow {off : Nat} {r : Reg} (h : regAt off = some r) (hw : r.wide = false) (ho : off % 4 = 0) :
    spot32 off = .whole r := by
  simp [spot32, ho, h, hw]

theorem spot64_of_wide {off : Nat} {r : Reg} (h : regAt off = some r) (hw : r.wide = true) (ho : off % 8 = 0) : spot64 off = .whole r := by
  simp [spot64, ho, h, hw]

/-! ## No register begins inside a 64-bit register (R8) -/

theorem gctlAt_add_four {o : Nat} {r : Reg} (h : gctlAt o = some r) (hw : r.wide = true) (ho : o % 8 = 0) : gctlAt (o + 4) = none := by
  unfold gctlAt at h
  split at h
  · have ha : 0x40 ≤ o + 4 ∧ o + 4 < 0x70 := by omega
    have hb : (o + 4) % 8 ≠ 0 := by omega
    simp [gctlAt, ha, hb]
  · split at h <;> cases h
    -- GCTL_ID, which GCTL_PROFILE follows, has 32 bits.
    any_goals rfl
    cases hw

theorem ctxRegAt_add_four {o : Nat} {r : CtxReg} (h : ctxRegAt o = some r) (hw : r.wide = true) (ho : o % 8 = 0) :
    ctxRegAt (o + 4) = none := by
  unfold ctxRegAt at h
  split at h
  · split at h <;> cases h
    · have ha : 0x40 ≤ o + 4 ∧ o + 4 < 0x80 := by omega
      have hb : (o + 4) % 0x10 = 4 := by omega
      simp [ctxRegAt, ha, hb]
    · cases hw
    · cases hw
  · split at h <;> cases h
    -- CTX_CQ_HEAD, which CTX_CQ_TAIL follows, has 32 bits; CTX_CQ_TAIL does not begin at a multiple of 8.
    any_goals rfl
    · cases hw
    · cases hw

theorem mbxAt_add_four {o : Nat} {r : Reg} (h : mbxAt o = some r) (hw : r.wide = true) : mbxAt (o + 4) = none := by
  unfold mbxAt at h
  split at h
  · obtain ⟨c, -, rfl⟩ := Option.map_eq_some_iff.1 h
    cases hw
  · split at h
    · split at h <;> cases h
      cases hw
    · split at h <;> cases h
      subst o
      rfl

theorem sigAt_add_four {o : Nat} {r : Reg} (h : sigAt o = some r) (hw : r.wide = true) : sigAt (o + 4) = none := by
  unfold sigAt at h
  split at h
  · split at h <;> cases h
    cases hw
  · split at h
    · split at h <;> cases h
      cases hw
    · split at h <;> cases h <;> rfl

/-! In the other blocks every register begins at a multiple of 8. -/

theorem pwrAt_aligned {o : Nat} {r : Reg} (h : pwrAt o = some r) : o % 8 = 0 := by
  unfold pwrAt at h
  split at h <;> grind

theorem cntAt_aligned {o : Nat} {r : Reg} (h : cntAt o = some r) : o % 8 = 0 := by
  unfold cntAt at h
  split at h <;> grind

theorem trcAt_aligned {o : Nat} {r : Reg} (h : trcAt o = some r) : o % 8 = 0 := by
  unfold trcAt at h
  split at h <;> grind

theorem fabAt_aligned {o : Nat} {r : Reg} (h : fabAt o = some r) : o % 8 = 0 := by
  unfold fabAt at h
  split at h <;> grind

theorem memAt_aligned {o : Nat} {r : Reg} (h : memAt o = some r) : o % 8 = 0 := by
  unfold memAt at h
  split at h <;> grind

theorem errAt_aligned {o : Nat} {r : Reg} (h : errAt o = some r) : o % 8 = 0 := by
  unfold errAt at h
  split at h <;> grind

theorem bootAt_aligned {o : Nat} {r : Reg} (h : bootAt o = some r) : o % 8 = 0 := by
  unfold bootAt at h
  split at h <;> grind

/-- A block whose registers begin at multiples of 8 has none four bytes after one. -/
theorem add_four_eq_none_of_aligned {f : Nat → Option Reg} (hf : ∀ {o r}, f o = some r → o % 8 = 0) {o : Nat} (ho : o % 8 = 0) :
    f (o + 4) = none := by
  cases hnext : f (o + 4) with
  | none => rfl
  | some r =>
    have halign : (o + 4) % 8 = 0 := hf hnext
    omega

/-- No register begins at the high half of a 64-bit register. -/
theorem regAt_add_four {off : Nat} {r : Reg} (h : regAt off = some r) (hw : r.wide = true) (ho : off % 8 = 0) : regAt (off + 4) = none := by
  have hblock : (off + 4) / 0x100000 = off / 0x100000 := by omega
  have hin : (off + 4) % 0x100000 = off % 0x100000 + 4 := by omega
  have ho' : off % 0x100000 % 8 = 0 := by omega
  unfold regAt at h
  simp only [regAt, hblock, hin]
  split at h
  · exact gctlAt_add_four h hw ho'
  · have hctx : (off % 0x100000 + 4) % 0x100 = off % 0x100000 % 0x100 + 4 := by omega
    obtain ⟨c, hc, rfl⟩ := Option.map_eq_some_iff.1 h
    have hnone : ctxRegAt (off % 0x100000 % 0x100 + 4) = none := ctxRegAt_add_four hc hw (by omega)
    simp only [hctx, hnone, Option.map_none]
  · exact mbxAt_add_four h hw
  · exact sigAt_add_four h hw
  · exact add_four_eq_none_of_aligned pwrAt_aligned ho'
  · exact add_four_eq_none_of_aligned cntAt_aligned ho'
  · exact add_four_eq_none_of_aligned trcAt_aligned ho'
  · exact add_four_eq_none_of_aligned fabAt_aligned ho'
  · exact add_four_eq_none_of_aligned memAt_aligned ho'
  · exact add_four_eq_none_of_aligned errAt_aligned ho'
  · exact add_four_eq_none_of_aligned bootAt_aligned ho'
  · cases h

/-- Four bytes into a 64-bit register an access reaches its high half. -/
theorem spot32_add_four {off : Nat} {r : Reg} (h : regAt off = some r) (hw : r.wide = true) (ho : off % 8 = 0) :
    spot32 (off + 4) = .high r := by
  have ho4 : (off + 4) % 4 = 0 := by omega
  have ho8 : (off + 4) % 8 = 4 := by omega
  simp [spot32, ho4, ho8, regAt_add_four h hw ho, h, hw]

/-- Both halves of a 64-bit register lie in the same region of R454. -/
theorem offNeeds_add_four {off : Nat} (ho : off % 8 = 0) : offNeeds (off + 4) = offNeeds off := by
  have hd : (off + 4) / 8 = off / 8 := by omega
  have h1 : 0x100000 ≤ off + 4 ↔ 0x100000 ≤ off := by omega
  have h2 : off + 4 < 0x200000 ↔ off < 0x200000 := by omega
  have h3 : 0x500000 ≤ off + 4 ↔ 0x500000 ≤ off := by omega
  have h4 : off + 4 < 0x512800 ↔ off < 0x512800 := by omega
  have h5 : 0x520000 ≤ off + 4 ↔ 0x520000 ≤ off := by omega
  have h6 : off + 4 < 0x560000 ↔ off < 0x560000 := by omega
  simp only [offNeeds, hd, h1, h2, h3, h4, h5, h6]

theorem bootHidden_add_four (mst : Master) {off : Nat} (ho : off % 8 = 0) : bootHidden mst (off + 4) = bootHidden mst off := by
  have hblock : (off + 4) / 0x100000 = off / 0x100000 := by omega
  simp only [bootHidden, hblock]

/-! ## The register writes of a context's window (R292–R294, R304, R307) -/

/-- A register write whose registers are not open to its master, or whose master need not wait. -/
theorem regRow_of_path {i : Instr} {mst : Master} {s : State} (f : State → State) (hi : needsPath i = true)
    (hs : s.regOpen mst = false ∨ s.regReady mst true = true) :
    regRow i mst s f = .next (if s.regOpen mst then f (s.clearBus mst) else s.clearBus mst) := by
  rcases hs with hclosed | hready
  · simp [regRow, hclosed]
  · simp [regRow, State.mustHold_eq_false hready hi]

theorem exec_registerWrite_of_closed {mst : Master} {off : Nat} {s : State} (width : Width) (v : Dword) (hclosed : s.regOpen mst = false)
    (hp : pciHost mst off = none) : exec (.registerWrite mst off width v) s = .next (s.clearBus mst) := by
  simp [exec, execRegisterWrite, State.busHeld, busWrite, hclosed, hp]

theorem regAt_ctx {ctx o : Nat} {r : CtxReg} (hc : ctx < 4096) (ho : o < 0x100) (hr : ctxRegAt o = some r) :
    regAt (0x100000 + 0x100 * ctx + o) = some (.ctx ctx r) := by
  have hblock : (0x100000 + 0x100 * ctx + o) / 0x100000 = 1 := by omega
  have hwin : (0x100000 + 0x100 * ctx + o) % 0x100000 / 0x100 = ctx := by omega
  have hin : (0x100000 + 0x100 * ctx + o) % 0x100000 % 0x100 = o := by omega
  simp only [regAt, hblock, hwin, hin, hr, Option.map_some]

/-- The widths in which a context's register is written at once. -/
def CtxReg.width (r : CtxReg) : Width := if r.wide then .w64 else .w32

theorem spotOf_ctx {ctx o : Nat} {r : CtxReg} (hc : ctx < 4096) (ho : o < 0x100) (hr : ctxRegAt o = some r)
    (halign : if r.wide then o % 8 = 0 else o % 4 = 0) : spotOf (0x100000 + 0x100 * ctx + o) r.width = .whole (.ctx ctx r) := by
  have hreg := regAt_ctx hc ho hr
  by_cases hw : r.wide = true
  · rw [if_pos hw] at halign
    rw [CtxReg.width, if_pos hw]
    exact spot64_of_wide hreg hw (by omega)
  · rw [if_neg hw] at halign
    rw [CtxReg.width, if_neg hw]
    exact spot32_of_narrow hreg (Bool.eq_false_iff.2 hw) (by omega)

/-- A row `i` whose effect is a write of a context's register does what the register write does. -/
theorem exec_registerWrite_ctx {mst : Master} {ctx off : Nat} {r : CtxReg} {s : State} {v : Dword} {f : State → State} (o : Nat) (i : Instr)
    (hc : ctx < 4096) (hs : s.regOpen mst = false ∨ s.regReady mst true = true) (ho : o < 0x100) (hr : ctxRegAt o = some r)
    (halign : if r.wide then o % 8 = 0 else o % 4 = 0) (hoff : off = 0x100000 + 0x100 * ctx + o) (hi : needsPath i = true)
    (hf : ctxRegWrite mst ctx r v = f) :
    exec (.registerWrite mst off r.width v) s = regRow i mst s (ctxWrite mst ctx r.off f) := by
  have hlo : 0x100000 ≤ off := by omega
  have hhi : off < 0x200000 := by omega
  have hp : pciHost mst off = none := pciHost_eq_none mst (by omega)
  rw [regRow_of_path _ hi hs, ← hf]
  rcases hs with hclosed | hready
  · simp [exec_registerWrite_of_closed _ v hclosed hp, hclosed]
  · have hn : offNeeds off = true := by simp [offNeeds, hlo, hhi]
    have hblock : off / 0x100000 = 1 := by omega
    have hb : bootHidden mst off = false := by simp [bootHidden, hblock]
    rw [exec_registerWrite_of_ready (hn ▸ hready) hb hp, hoff, spotOf_ctx hc ho hr halign, State.regOpen_of_regReady hready, if_pos rfl,
      spotWrite, regWrite]

theorem ctxRegAt_sqTail {q : Nat} (hq : q < 4) : ctxRegAt (0x48 + 0x10 * q) = some (.sqTail q) := by
  have hrange : 0x40 ≤ 0x48 + 0x10 * q ∧ 0x48 + 0x10 * q < 0x80 := by omega
  have hqueue : (0x48 + 0x10 * q - 0x40) / 0x10 = q := by omega
  have hin : (0x48 + 0x10 * q) % 0x10 = 8 := by omega
  simp only [ctxRegAt, hrange, hqueue, hin, and_self, if_true]

theorem ctxRegWrite_sqTail (mst : Master) (c q : Nat) (w : Word) : ctxRegWrite mst c (.sqTail q) (w.setWidth 64) = tailWrite mst c q w := by
  funext s
  simp only [ctxRegWrite, ofNat_toNat_setWidth]

theorem ctxRegWrite_cqHead (mst : Master) (c : Nat) (w : Word) : ctxRegWrite mst c .cqHead (w.setWidth 64) = cqHeadWrite mst c w := by
  funext s
  simp only [ctxRegWrite, ofNat_toNat_setWidth]

theorem ctxRegWrite_prof (mst : Master) (c : Nat) (w : Word) : ctxRegWrite mst c .prof (w.setWidth 64) = profWrite mst c w := by
  funext s
  simp only [ctxRegWrite, ofNat_toNat_setWidth]

/-- CTX_ABORT holds the queue in its low half, the sequence number in its high half (R318). -/
theorem ctxRegWrite_abort (mst : Master) (c : Nat) {q : Nat} (w : Word) (hq : q < 4) :
    ctxRegWrite mst c .abort (w ++ BitVec.ofNat 32 q) = abortHeld mst c q w := by
  have hv : (w ++ BitVec.ofNat 32 q).toNat = w.toNat * 2 ^ 32 + q := by
    rw [BitVec.toNat_append, BitVec.toNat_ofNat, Nat.mod_eq_of_lt (by omega), ← Nat.shiftLeft_add_eq_or_of_lt (by omega), Nat.shiftLeft_eq]
  have hqueue : field (w.toNat * 2 ^ 32 + q) 1 0 = q := by simp only [field]; omega
  have hseq : BitVec.ofNat 32 (field (w.toNat * 2 ^ 32 + q) 63 32) = w := by
    have : field (w.toNat * 2 ^ 32 + q) 63 32 = w.toNat := by simp only [field]; omega
    rw [this, BitVec.ofNat_toNat, BitVec.setWidth_eq]
  funext s
  simp only [ctxRegWrite, hv, hqueue, hseq]

/-! ## The parts of O3 -/

section Halves
variable {mst : Master} {off : Nat} {r : Reg} {s : State} (hr : s.regReady mst (offNeeds off) = true) (hb : bootHidden mst off = false)
include hr hb

/-- Reading and writing the low half (R8). -/
theorem exec_low_half (hlow : spot32 off = .low r) :
    (∃ t, exec (.lowHalfRead mst ⟨off, .w32⟩) s = .next t ∧ t.bus.resp = BitVec.ofNat 64 ((s.clearBus mst).regRead mst r % 2 ^ 32)
      ∧ t.latchOf mst = some ⟨r.off, BitVec.ofNat 32 (hiHalf ((s.clearBus mst).regRead mst r))⟩ ∧ t.holdOf mst = none ∧ Frame [.bus] s t)
    ∧ (∀ lo : Word, ∃ t, exec (.lowHalfWrite mst off lo) s = .next t ∧ t.holdOf mst = some ⟨r.off, lo⟩ ∧ t.latchOf mst = none
      ∧ Frame [.bus] s t) := by
  have hp : pciHost mst off = none := pciHost_eq_none mst (by have := regAt_lt (spot32_eq_low hlow); omega)
  constructor
  · refine ⟨_, exec_lowHalfRead_of_ready hr hb hp .w32, ?_⟩
    rw [spotOf, hlow, spotRead_low]
    exact ⟨rfl, by simp, by simp, State.frame_bus s _⟩
  · intro lo
    refine ⟨_, exec_lowHalfWrite_of_ready hr hb hp lo, ?_⟩
    rw [hlow, spotWrite_low]
    exact ⟨by simp, by simp, State.frame_bus s _⟩

/-- Reading and writing the high half, after an access of the low half and without one (R8). -/
theorem exec_high_half (hhigh : spot32 off = .high r) :
    (∀ h : Word, s.latchOf mst = some ⟨r.off, h⟩ →
      exec (.lowHalfRead mst ⟨off, .w32⟩) s = .next ((s.clearBus mst).answer h.toNat))
    ∧ ((∀ l, s.latchOf mst = some l → l.reg ≠ r.off) →
      exec (.lowHalfRead mst ⟨off, .w32⟩) s = .next ((s.clearBus mst).answer (hiHalf ((s.clearBus mst).regRead mst r))))
    ∧ (∀ lo hi : Word, s.holdOf mst = some ⟨r.off, lo⟩ →
      exec (.highHalfWrite mst off hi) s = .next (regWrite mst r (hi ++ lo) (s.clearBus mst)))
    ∧ (∀ hi : Word, (∀ l, s.holdOf mst = some l → l.reg ≠ r.off) →
      exec (.highHalfWrite mst off hi) s = .next ((s.clearBus mst).logReg mst off)) := by
  have hp : pciHost mst off = none := pciHost_eq_none mst (by have := regAt_lt (spot32_eq_high hhigh).2; omega)
  have hread := exec_lowHalfRead_of_ready hr hb hp .w32
  have hwrite := exec_highHalfWrite_of_ready hr hb hp
  rw [spotOf, hhigh] at hread
  simp only [hhigh] at hwrite
  refine ⟨fun h hl => ?_, fun hl => ?_, fun lo hi hl => ?_, fun hi hl => ?_⟩
  · rw [hread, hl, spotRead_high_latched]
  · rw [hread, spotRead_high_unlatched _ _ _ _ _ hl]
  · rw [hwrite, hl, spotWrite_high_held]
  · rw [hwrite, spotWrite_high_unheld _ _ _ _ _ _ hl]

/-- The two halves of a 64-bit register, and the register at once (R8). -/
theorem exec_two_halves (lo hi : Word) (hreg : regAt off = some r) (hw : r.wide = true) (ho : off % 8 = 0) :
    ∃ t, exec (.lowHalfWrite mst off lo) s = .next t
      ∧ exec (.highHalfWrite mst (off + 4) hi) t = exec (.registerWrite mst off .w64 (hi ++ lo)) s
      ∧ exec (.registerWrite mst off .w64 (hi ++ lo)) s = .next (regWrite mst r (hi ++ lo) (s.clearBus mst))
      ∧ exec (.lowHalfRead mst ⟨off, .w64⟩) s
        = .next (((s.clearBus mst).afterRead mst r).answer ((s.clearBus mst).regRead mst r)) := by
  have hlt := regAt_lt hreg
  have hp : pciHost mst off = none := pciHost_eq_none mst (by omega)
  have hp4 : pciHost mst (off + 4) = none := pciHost_eq_none mst (by omega)
  have hb4 : bootHidden mst (off + 4) = false := (bootHidden_add_four mst ho).trans hb
  have hwhole : exec (.registerWrite mst off .w64 (hi ++ lo)) s = .next (regWrite mst r (hi ++ lo) (s.clearBus mst)) := by
    rw [exec_registerWrite_of_ready hr hb hp, spotOf, spot64_of_wide hreg hw ho, spotWrite]
  refine ⟨(s.clearBus mst).setHold mst ⟨r.off, lo⟩, ?_, ?_, hwhole, ?_⟩
  · rw [exec_lowHalfWrite_of_ready hr hb hp, spot32_of_wide hreg hw ho, spotWrite_low]
  · have hr4 : ((s.clearBus mst).setHold mst ⟨r.off, lo⟩).regReady mst (offNeeds (off + 4)) = true := by
      rw [offNeeds_add_four ho, State.regReady_setHold_clearBus]
      exact hr
    rw [hwhole, exec_highHalfWrite_of_ready hr4 hb4 hp4, spot32_add_four hreg hw ho, State.holdOf_setHold, State.clearBus_setHold_clearBus,
      spotWrite_high_held]
  · rw [exec_lowHalfRead_of_ready hr hb hp, spotOf, spot64_of_wide hreg hw ho, spotRead]

/-- An access that R7 forbids is logged and has no other effect; a read of it answers zero. -/
theorem exec_bad_access (hp : pciHost mst off = none) (width : Width) (v : Dword) (hbad : spotOf off width = .bad) :
    exec (.lowHalfRead mst ⟨off, width⟩) s = .next (((s.clearBus mst).logReg mst off).answer 0)
    ∧ exec (.registerWrite mst off width v) s = .next ((s.clearBus mst).logReg mst off) := by
  rw [exec_lowHalfRead_of_ready hr hb hp, exec_registerWrite_of_ready hr hb hp, hbad]
  exact ⟨rfl, rfl⟩

end Halves

/-- Settles O3: each kind of access by its own lemma, the rows of a context's window by the offsets of their registers. -/
theorem wideRegistersAreWrittenInHalves : Obligations.WideRegistersAreWrittenInHalves := by
  refine ⟨fun mst off r s hr hb => ⟨exec_low_half hr hb, exec_high_half hr hb⟩,
    fun mst off r lo hi s hr hb => exec_two_halves hr hb lo hi,
    fun mst off width v s hr hb hp => exec_bad_access hr hb hp width v, ?_⟩
  intro mst ctx q v w s hc hq hs
  have row {off : Nat} {v : Dword} {f : State → State} (r : CtxReg) (o : Nat) (i : Instr) :=
    exec_registerWrite_ctx (mst := mst) (off := off) (r := r) (v := v) (f := f) o i hc hs
  refine ⟨?_, ?_, ?_, ?_, ?_, ?_, ?_, ?_, ?_, ?_, ?_⟩
  · exact row .seed 0x10 (.ctxSeedWrite mst ctx v) (by decide) rfl rfl (by omega) rfl rfl
  · exact row .step 0x18 (.ctxStepWrite mst ctx v) (by decide) rfl rfl (by omega) rfl rfl
  · exact row .share 0x28 (.ctxShareWrite mst ctx v) (by decide) rfl rfl (by omega) rfl rfl
  · exact row .prof 0x98 (.ctxProfWrite mst ctx w) (by decide) rfl rfl (by omega) rfl (ctxRegWrite_prof mst ctx w)
  · have halign : (0x48 + 0x10 * q) % 4 = 0 := by omega
    exact row (.sqTail q) (0x48 + 0x10 * q) (.sqDoorbell mst ctx q w) (by omega) (ctxRegAt_sqTail hq) halign (by omega) rfl
      (ctxRegWrite_sqTail mst ctx q w)
  · exact row .cqHead 0x88 (.cqHeadWrite mst ctx w) (by decide) rfl rfl (by omega) rfl (ctxRegWrite_cqHead mst ctx w)
  · exact row .abort 0x30 (.abort mst ctx q w) (by decide) rfl rfl (by omega) rfl (ctxRegWrite_abort mst ctx w hq)
  · exact row .ctrl 0x08 (.enable mst ctx) (by decide) rfl rfl (by omega) rfl rfl
  · exact row .ctrl 0x08 (.preempt mst ctx) (by decide) rfl rfl (by omega) rfl rfl
  · exact row .ctrl 0x08 (.restore mst ctx) (by decide) rfl rfl (by omega) rfl rfl
  · exact row .ctrl 0x08 (.reset mst ctx) (by decide) rfl rfl (by omega) rfl rfl

end Sys2Proof.Machine

/-!
PROOFS. Invalidation of translations (R229): what marking the waiting requests and giving up the tiles fetched ahead make of each command,
which wagons and requests an invalidation waits for; from these, O26.
-/
namespace Sys2Proof.Machine

/-! ## Frames -/

theorem Frame.refl (gs : List Group) (s : State) : Frame gs s s := by intro g _; cases g <;> rfl

theorem Group.same_trans {s t u : State} {g : Group} (hst : g.same s t) (htu : g.same t u) : g.same s u := by
  cases g <;> exact htu.trans hst

theorem Frame.trans {gs : List Group} {s t u : State} (hst : Frame gs s t) (htu : Frame gs t u) : Frame gs s u :=
  fun g hg => Group.same_trans (hst g hg) (htu g hg)

theorem State.frame_modCmd (s : State) (slot : Nat) (f : Cmd → Cmd) : Frame [.cmds] s (s.modCmd slot f) := by
  intro g hg
  cases g
  case cmds => exact absurd (List.mem_singleton_self _) hg
  all_goals simp [Group.same]

theorem frame_foldl {α : Type} {gs : List Group} {f : State → α → State} (hf : ∀ s x, Frame gs s (f s x)) (l : List α) (s : State) :
    Frame gs s (l.foldl f s) := by
  induction l generalizing s with
  | nil => exact Frame.refl gs s
  | cons x l ih => exact (hf s x).trans (ih (f s x))

/-! ## Commands under a change of each -/

theorem State.cmd?_modCmd (s : State) (k slot : Nat) (f : Cmd → Cmd) :
    (s.modCmd k f).cmd? slot = if slot = k then (s.cmd? slot).map f else s.cmd? slot := by
  unfold State.modCmd
  by_cases h : slot = k
  · subst h
    cases hc : s.cmd? slot with
    | none => simp [hc]
    | some c => simp [State.cmd?]
  · cases s.cmd? k with
    | none => simp [h]
    | some c => simp [h, State.cmd?, Tab.get_set]

theorem Tab.mem_of_get {α : Type} {d v : α} {t : Tab α} {k : Nat} (h : Tab.get d t k = v) (hv : v ≠ d) : (k, v) ∈ t := by
  induction t with
  | nil => exact absurd h.symm hv
  | cons e t ih =>
    obtain ⟨j, w⟩ := e
    by_cases hj : j = k
    · simp_all [Tab.get]
    · exact List.mem_cons_of_mem _ (ih (by simpa [Tab.get, hj] using h))

theorem State.mem_cmdList {s : State} {slot : Nat} {c : Cmd} (h : s.cmd? slot = some c) : (slot, c) ∈ s.cmdList :=
  List.mem_filterMap.2 ⟨(slot, some c), Tab.mem_of_get h (Option.some_ne_none c), rfl⟩

section Sweep
variable {p : Nat × Cmd → Prop} [DecidablePred p] {f : Cmd → Cmd} {g : State → Nat × Cmd → State}
  (hg : ∀ s e, g s e = if p e then s.modCmd e.1 f else s)
include hg

/-- A sweep that changes some commands by `f` leaves a command that `f` leaves. -/
theorem State.cmd?_sweep_of_fixed {slot : Nat} {c : Cmd} (hc : f c = c) (l : List (Nat × Cmd)) {s : State} (hs : s.cmd? slot = some c) :
    (l.foldl g s).cmd? slot = some c := by
  induction l generalizing s with
  | nil => exact hs
  | cons e l ih =>
    refine ih ?_
    rw [hg]
    split
    · rw [State.cmd?_modCmd, hs, Option.map_some, hc, ite_self]
    · exact hs

/-- A sweep changes by `f` a command that it visits; a second visit, of a slot that the table lists twice, leaves it, for `f` is idempotent. -/
theorem State.cmd?_sweep (hf : ∀ c, f (f c) = f c) {slot : Nat} {c : Cmd} {l : List (Nat × Cmd)} {s : State} (hs : s.cmd? slot = some c)
    (hl : ∃ e ∈ l, e.1 = slot ∧ p e) : (l.foldl g s).cmd? slot = some (f c) := by
  induction l generalizing s with
  | nil => simp at hl
  | cons e l ih =>
    rw [List.foldl_cons]
    by_cases he : e.1 = slot ∧ p e
    · refine State.cmd?_sweep_of_fixed hg (hf c) l ?_
      rw [hg, if_pos he.2, State.cmd?_modCmd, if_pos he.1.symm, hs, Option.map_some]
    · have hrest : ∃ x ∈ l, x.1 = slot ∧ p x := by
        obtain ⟨x, hx, hvisit⟩ := hl
        rcases List.mem_cons.1 hx with rfl | hx
        · exact absurd hvisit he
        · exact ⟨x, hx, hvisit⟩
      refine ih ?_ hrest
      rw [hg]
      split
      · next hp => rw [State.cmd?_modCmd, if_neg (fun h => he ⟨h.symm, hp⟩), hs]
      · exact hs

end Sweep

/-! ## What an invalidation waits for -/

/-- An address under a translation of the range of an invalidation, as far as a request tells: one that records no address counts always. -/
def Inval.inRange (i : Inval) (va : Nat) : Prop :=
  i.all = true ∨ va = 0 ∨ (i.vpn ≤ va / 65536 ∧ va / 65536 < i.vpn + i.pages)

theorem Inval.holds_iff (i : Inval) (ctx : Nat) (r : WagonReq) : i.holds ctx r = true ↔ ctx = i.ctx ∧ i.inRange r.va := by
  simp [Inval.holds, Inval.inRange, or_assoc]

theorem Inval.covers_iff (i : Inval) (w : Wagon) :
    i.covers w = true ↔ w.ctx = i.ctx ∧ (w.id < i.upTo ∨ w.req.old = true) ∧ i.inRange w.req.va := by
  simp [Inval.covers, Inval.inRange, or_assoc, and_assoc]

theorem Inval.not_inRange_iff (i : Inval) (va : Nat) :
    ¬i.inRange va ↔ i.all = false ∧ va ≠ 0 ∧ (va / 65536 < i.vpn ∨ i.vpn + i.pages ≤ va / 65536) := by
  rw [Inval.inRange, not_or, not_or, Classical.not_and_iff_not_or_not, Bool.not_eq_true, Nat.not_le, Nat.not_lt]

/-- Marking a request again changes nothing. -/
theorem Inval.mark_mark (i : Inval) (ctx : Nat) (r : WagonReq) :
    let mark (r : WagonReq) : WagonReq := if i.holds ctx r then { r with old := true } else r
    mark (mark r) = mark r := by
  by_cases h : i.holds ctx r = true
  · have hmarked : i.holds ctx { r with old := true } = true := h
    simp [h, hmarked]
  · simp [h]

/-- The requests of a command that wait under a translation of the range are marked (R229). -/
theorem State.cmd?_markOld (i : Inval) {s : State} {slot : Nat} {c : Cmd} (hc : s.cmd? slot = some c) :
    (s.markOld i).cmd? slot = some { c with outQ := c.outQ.map (fun r => if i.holds c.ctx r then { r with old := true } else r) } := by
  refine State.cmd?_sweep (p := fun _ => True) (f := fun c : Cmd => { c with outQ := c.outQ.map _ }) (fun s e => (if_pos trivial).symm) ?_ hc
    ⟨_, State.mem_cmdList hc, rfl, trivial⟩
  intro c
  simp only [List.map_map]
  exact congrArg (fun q => { c with outQ := q }) (List.map_congr_left fun r _ => i.mark_mark c.ctx r)

theorem State.frame_markOld (s : State) (i : Inval) : Frame [.cmds] s (s.markOld i) :=
  frame_foldl (fun s _ => s.frame_modCmd _ _) _ s

/-- The tiles that a command of the context has fetched ahead are given up (R229). -/
theorem State.cmd?_dropAhead {s : State} {slot : Nat} {c : Cmd} (hc : s.cmd? slot = some c) :
    (s.dropAhead c.ctx).cmd? slot = some { c with tiles := c.tiles.map (fun t => if t.use = .ahead then t.dropped else t) } := by
  refine State.cmd?_sweep (p := fun e => e.2.ctx = c.ctx) (f := fun c : Cmd => { c with tiles := c.tiles.map _ }) (fun s e => rfl) ?_ hc
    ⟨_, State.mem_cmdList hc, rfl, rfl⟩
  intro c
  have hdrop (t : Tile) : (if t.use = .ahead then t.dropped else t).use = t.use := by split <;> rfl
  simp only [List.map_map]
  refine congrArg (fun q => { c with tiles := q }) (List.map_congr_left fun t _ => ?_)
  simp only [Function.comp_apply, hdrop]
  split <;> rfl

/-! ## The two rows -/

/-- The invalidation that a value of MEM_XLT_INVAL asks for. -/
def State.newInval (s : State) (mst : Master) (v : Dword) : Inval :=
  ⟨s.xltSel mst, v.getLsbD 16, v.toNat / 2 ^ 17 % 2 ^ 36, v.toNat % 2 ^ 16 + 1, s.cmds.nextId⟩

theorem bitAt_toNat {w : Nat} (v : BitVec w) (n : Nat) : bitAt v.toNat n = v.getLsbD n := by
  rw [bitAt, ← BitVec.testBit_toNat, Nat.testBit_eq_decide_div_mod_eq]
  rfl

theorem invalWrite_of_free {mst : Master} {s : State} (v : Dword) (hmay : s.mayCtx mst (s.xltSel mst) = true)
    (hfree : s.xltInval mst = none) : invalWrite mst v s = (s.markOld (s.newInval mst v)).setInval mst (some (s.newInval mst v)) := by
  simp [invalWrite, hmay, hfree, bitAt_toNat, field, State.newInval]

theorem invalWrite_of_busy {mst : Master} {s : State} (v : Dword) (hbusy : (s.xltInval mst).isSome = true) :
    invalWrite mst v s = s.logReg mst 0x800010 := by
  simp [invalWrite, hbusy]

theorem exec_xltInval {mst : Master} {s : State} (v : Dword) (hr : s.regReady mst false = true) :
    exec (.xltInval mst v) s = .next (invalWrite mst v (s.clearBus mst)) := by
  simp [exec, execXltInval, regRow, State.mustHold_eq_false hr (i := .xltInval mst v) rfl, State.regOpen_of_regReady hr]

section Complete
variable {mst : Master} {s : State} {i : Inval} (hi : s.xltInval mst = some i)
include hi

theorem exec_xltInvalComplete_of_over (hw : ∀ w ∈ s.cmds.wagons, ¬i.covers w = true)
    (hq : ∀ x ∈ s.waiting, ¬i.holds x.2.1.ctx x.2.2 = true) :
    exec (.xltInvalComplete mst) s = .next ((s.dropAhead i.ctx).setInval mst none) := by
  have hwagons : s.cmds.wagons.any i.covers = false := List.any_eq_false.2 hw
  have hwaiting : s.waiting.any (fun x => i.holds x.2.1.ctx x.2.2) = false := List.any_eq_false.2 hq
  simp [exec, execXltInvalComplete, invalDone, hi, hwagons, hwaiting]

theorem exec_xltInvalComplete_of_waits
    (h : (∃ w ∈ s.cmds.wagons, i.covers w = true) ∨ ∃ x ∈ s.waiting, i.holds x.2.1.ctx x.2.2 = true) :
    exec (.xltInvalComplete mst) s = .next s := by
  have hsome : s.cmds.wagons.any i.covers = true ∨ s.waiting.any (fun x => i.holds x.2.1.ctx x.2.2) = true :=
    h.imp List.any_eq_true.2 List.any_eq_true.2
  simp only [exec, execXltInvalComplete, invalDone, hi, if_pos hsome]

end Complete

/-- Settles O26: an accepted write marks by a sweep over the commands, a refused one is logged, and the completion waits for what
`Inval.covers` and `Inval.holds` say. -/
theorem invalidationWaitsForWagons : Obligations.InvalidationWaitsForWagons := by
  intro mst v s
  refine ⟨fun hr hmay hfree => ⟨?_, fun slot c hc => ?_, s.frame_markOld _⟩, fun hr hbusy => ?_, fun i hi => ⟨fun hw hq => ?_, ?_, ?_⟩⟩
  · rw [exec_xltInval v hr, invalWrite_of_free v (s := s.clearBus mst) hmay hfree]
    rfl
  · rw [State.cmd?_markOld _ (s := s.clearBus mst) hc]
    simp only [Inval.holds_iff, Inval.inRange]
  · rw [exec_xltInval v hr, invalWrite_of_busy v (s := s.clearBus mst) hbusy]
  · refine exec_xltInvalComplete_of_over hi (fun w hmem => ?_) (fun x hmem => ?_)
    · rw [Inval.covers_iff]
      rintro ⟨hctx, hold, hin⟩
      exact (i.not_inRange_iff _).2 (hw w hmem hctx hold) hin
    · rw [Inval.holds_iff]
      rintro ⟨hctx, hin⟩
      exact (i.not_inRange_iff _).2 (hq x hmem hctx) hin
  · rintro slot c hc hctx
    rw [← hctx]
    exact State.cmd?_dropAhead hc
  · rintro (⟨w, hmem, hctx, hold, hin⟩ | ⟨x, hmem, hctx, hin⟩)
    · exact exec_xltInvalComplete_of_waits hi (.inl ⟨w, hmem, (i.covers_iff w).2 ⟨hctx, hold, .inr (.inr hin)⟩⟩)
    · exact exec_xltInvalComplete_of_waits hi (.inr ⟨x, hmem, (i.holds_iff _ _).2 ⟨hctx, .inr (.inr hin)⟩⟩)

end Sys2Proof.Machine

/-!
PROOFS. The lines that the shunting engine writes (R247): it writes whole lines, so the last is padded with zero bytes; from this, O30 fails.
-/
namespace Sys2Proof.Machine

/-- A state after reset whose HBM holds 0x05 at address 1. -/
def resetWithByte : State := { State.reset with mem := State.reset.mem.set (.hbm 1) 5 }

/-- Moving one byte to HBM 0 clears the byte behind it: `State.landLoc` pads the line with zeros. -/
theorem landLoc_clears_next_byte :
    resetWithByte.mem.get (.hbm 1) = 5 ∧ (resetWithByte.landLoc (.hbm 0) [1]).mem.get (.hbm 1) = 0 := by
  decide +kernel

/-- Refutes O30, in its last part, which lets the moved bytes end inside a line: one byte moved to HBM 0 is not all that changes, for the byte
at HBM 1, which held 0x05, becomes 0. (A MIGRATE itself moves a whole page, or a record into space rounded up to 4 KiB: R247.) -/
theorem not_migrateMovesPages : ¬Obligations.MigrateMovesPages := by
  rintro ⟨-, -, hland⟩
  obtain ⟨-, hother⟩ := hland (.hbm 0) [1] resetWithByte (fun node pa => Loc.noConfusion)
  have hkept := hother (.hbm 1) rfl (by simp [Loc.add])
  obtain ⟨hbefore, hafter⟩ := landLoc_clears_next_byte
  rw [hafter, hbefore] at hkept
  exact absurd hkept (by decide)

end Sys2Proof.Machine

/-!
PROOFS. Frames of the small operations, and of the sending of packets (R350, R354–R359).
-/
namespace Sys2Proof.Machine

/-! ## Frames of the small operations -/

theorem Frame.mono {gs hs : List Group} {s t : State} (h : Frame gs s t) (hsub : gs ⊆ hs) : Frame hs s t :=
  fun g hg => h g (fun hmem => hg (hsub hmem))

theorem State.frame_bump (s : State) (off n : Nat) : Frame [.cnt] s (s.bump off n) := by
  intro g hg
  cases g <;> simp_all [Group.same]

theorem State.frame_setCmd (s : State) (slot : Nat) (c : Option Cmd) : Frame [.cmds] s (s.setCmd slot c) := by
  intro g hg
  cases g <;> simp_all [Group.same]

theorem State.frame_setPort (s : State) (k : Nat) (p : Port) : Frame [.fab] s (s.setPort k p) := by
  intro g hg
  cases g <;> simp_all [Group.same]

theorem State.frame_setHost (s : State) (k : Nat) (h : HostFn) : Frame [.hosts] s (s.setHost k h) := by
  intro g hg
  cases g <;> simp_all [Group.same]

theorem State.frame_hostPush (s : State) (k : Nat) (m : HostMsg) : Frame [.hosts] s (s.hostPush k m) := s.frame_setHost _ _

theorem State.frame_trace (s : State) (x : Bool) (r : TrcRec) : Frame [.trc] s (s.trace x r) := by
  intro g hg
  cases g <;> simp_all [Group.same]

theorem State.frame_logNew (s : State) (a : LogArg) : Frame logGroups s (s.logNew a).1 := by
  intro g hg
  cases g <;> simp_all [Group.same, logGroups]

theorem State.frame_logSeq (s : State) (a : LogArg) : Frame logGroups s (s.logSeq a).1 := by
  intro g hg
  cases g <;> simp_all [Group.same, logGroups]

theorem State.frame_logErr (s : State) (a : LogArg) : Frame logGroups s (s.logErr a) := s.frame_logSeq a

theorem State.frame_logPort (s : State) (k : Nat) (st : Byte) (x y : Nat) : Frame logGroups s (s.logPort k st x y) := s.frame_logErr _

/-! ## What sending a packet leaves unchanged (R350, R354–R359) -/

/-- The groups that a packet which leaves, waits or is lost changes. -/
def sendGroups : List Group := .cnt :: aheadGroups

theorem State.frame_giveBack (s : State) (t : TxPkt) : Frame [.fab] s (s.giveBack t) := by
  unfold State.giveBack
  split
  · exact Frame.refl _ s
  · exact s.frame_setPort _ _

theorem State.frame_pumpPort (k fuel : Nat) (s : State) : Frame [.cnt, .fab] s (State.pumpPort k fuel s) := by
  induction fuel generalizing s with
  | zero => exact Frame.refl _ s
  | succ fuel ih =>
    have hsent (q : Port) (t : TxPkt) (n : Nat) : Frame [.cnt, .fab] s (((s.setPort k q).giveBack t).bump (cntPort k 0) n) :=
      (((s.frame_setPort k q).trans (State.frame_giveBack _ t)).mono (by simp)).trans ((State.frame_bump _ _ _).mono (by simp))
    simp only [State.pumpPort]
    split
    · split
      · exact Frame.refl _ s
      · refine Frame.trans ?_ (ih _)
        split
        · exact (hsent _ _ _).trans ((State.frame_bump _ _ _).mono (by simp))
        · exact hsent _ _ _
    · exact Frame.refl _ s

theorem State.frame_enqueue (s : State) (k vc : Nat) (t : TxPkt) : Frame [.cnt, .fab] s (s.enqueue k vc t) :=
  ((s.frame_setPort k _).mono (by simp)).trans (State.frame_pumpPort k _ _)

theorem State.frame_sendOn (s : State) (r : Route) (p : Packet) (wagon slot : Option Nat) (inPort : Option (Nat × Nat)) :
    Frame sendGroups s (s.sendOn r p wagon slot inPort).1 := by
  have hlog (k : Nat) (a : Nat) : Frame sendGroups s (s.logPort k stRange a 0) := (s.frame_logPort k _ _ _).mono (by decide)
  have hdrop (k a : Nat) : Frame sendGroups s ((s.logPort k stRange a 0).bump (cntPort k 5) 1) :=
    (hlog k a).trans ((State.frame_bump _ _ _).mono (by decide))
  unfold State.sendOn
  split
  · exact hlog _ _
  · cases r with
    | here =>
      intro g hg
      cases g <;> simp_all [Group.same, sendGroups, aheadGroups]
    | unreachable => exact Frame.refl _ s
    | port k =>
      simp only
      split
      · exact Frame.refl _ s
      · split
        · exact hdrop _ _
        · split
          · exact hdrop _ _
          · exact (s.frame_enqueue _ _ _).mono (by decide)

theorem State.frame_sendPacket (s : State) (p : Packet) (wagon slot : Option Nat) (inPort : Option (Nat × Nat)) :
    Frame sendGroups s (s.sendPacket p wagon slot inPort).1 := s.frame_sendOn _ p wagon slot inPort

theorem State.frame_respond (s : State) (p : Packet) : Frame sendGroups s (s.respond p) := by
  simp only [State.respond]
  split
  · exact (s.frame_logPort _ _ _ _).mono (by decide)
  · exact s.frame_sendPacket _ _ _ _

theorem State.frame_errRsp (s : State) (p : Packet) (st : Byte) : Frame sendGroups s (s.errRsp p st) := s.frame_respond _

end Sys2Proof.Machine

/-!
PROOFS. Watched writes (R273–R277), and the requests of peers (R360).
-/
namespace Sys2Proof.Machine

/-! ## Watched writes (R273–R277) -/

theorem State.frame_wagons (s : State) (ws : List Wagon) : Frame [.cmds] s { s with cmds := { s.cmds with wagons := ws } } := by
  intro g hg
  cases g <;> simp_all [Group.same]

theorem State.frame_hitCmd (s : State) (slot : Nat) (c : Cmd) (l : Loc) (lo hi : Nat) : Frame [.cmds, .cnt] s (s.hitCmd slot c l lo hi) := by
  simp only [State.hitCmd]
  split
  · exact Frame.refl _ s
  · refine Frame.trans ?_ (frame_foldl (fun s k => (s.frame_bump _ _).mono (by simp)) _ _)
    refine Frame.trans ?_ (frame_foldl (fun s t => (s.frame_bump _ _).mono (by simp)) _ _)
    exact Frame.trans ((s.frame_wagons _).mono (by simp)) ((State.frame_setCmd _ _ _).mono (by simp))

theorem State.frame_watch (s : State) (writer : Option Nat) (l : Loc) (lo hi : Nat) : Frame [.cmds, .cnt] s (s.watch writer l lo hi) := by
  refine frame_foldl (fun s e => ?_) _ s
  split
  · exact Frame.refl _ s
  · split
    · exact s.frame_hitCmd _ _ _ _ _
    · exact Frame.refl _ s

theorem State.frame_watchBytes (s : State) (writer : Option Nat) (line : Loc) (bytes : List (Nat × Byte)) :
    Frame [.cmds, .cnt] s (s.watchBytes writer line bytes) := by
  unfold State.watchBytes
  split
  · exact Frame.refl _ s
  · exact s.frame_watch _ _ _ _

theorem State.frame_mem (s : State) (m : Memories) : Frame [.mem] s { s with mem := m } := by
  intro g hg
  cases g <;> simp_all [Group.same]

theorem State.frame_landLine (s : State) (writer : Option Nat) (line : Loc) (bytes : List (Nat × Byte)) :
    Frame [.cmds, .cnt, .mem] s (s.landLine writer line bytes) := by
  simp only [State.landLine]
  split
  · exact Frame.refl _ s
  · exact ((s.frame_mem _).mono (by simp)).trans ((State.frame_watchBytes _ _ _ _).mono (by simp))

/-- Noting what the codes find changes no byte (R235). -/
theorem Memories.sameBytes_setEcc (m : Memories) (l : Loc) (e : EccEvent) : SameBytes m (m.setEcc l e) := by
  intro x
  unfold Memories.setEcc
  split
  · cases x <;> rfl
  · rfl

theorem Memories.eccAt_setEcc_hbm (m : Memories) (pa : Nat) (e : EccEvent) : (m.setEcc (.hbm pa) e).eccAt (.hbm pa) = e := by
  simp [Memories.eccAt, Memories.setEcc, eccKey]

/-- The bytes that a landed write leaves in memory are those that it names (R210). -/
theorem State.sameBytes_landLine (s : State) (writer : Option Nat) (line : Loc) (bytes : List (Nat × Byte)) :
    SameBytes (s.mem.writeMasked line bytes) (s.landLine writer line bytes).mem := by
  cases bytes with
  | nil => exact fun _ => rfl
  | cons b bs =>
    have hmem : (s.landLine writer line (b :: bs)).mem
        = if 512 ≤ (b :: bs).length then (s.mem.writeMasked line (b :: bs)).setEcc line .clean else s.mem.writeMasked line (b :: bs) :=
      State.frame_watchBytes _ writer line (b :: bs) .mem (by simp)
    rw [hmem]
    split
    · exact Memories.sameBytes_setEcc _ _ _
    · exact fun _ => rfl

/-! ## Requests of peers (R360) -/

theorem State.orWait_of_busy {s : State} {p : Packet} (f : State → State) (hbusy : s.trc.dump.busy = true)
    (hk : p.kind = 1 ∨ p.kind = 2 ∨ p.kind = 3) : s.orWait p f = { s with fab := { s.fab with loop := s.fab.loop ++ [p] } } := by
  have hwait : s.mustWait p = true := by
    rcases hk with h | h | h <;> simp [State.mustWait, hbusy, h]
  simp [State.orWait, hwait]

theorem State.orWait_of_awake {s : State} (p : Packet) (f : State → State) (hawake : s.asleep = false) (hbusy : s.trc.dump.busy = false) :
    s.orWait p f = f s := by
  simp [State.orWait, State.mustWait, hawake, hbusy]

theorem rdReqOp_of_refused {p : Packet} {s : State} (h : s.peerOk p false = false) : rdReqOp p s = s.errRsp p stXlate := by
  simp [rdReqOp, h]

theorem wrReqOp_of_refused {p : Packet} {s : State} (h : s.peerOk p true = false) : wrReqOp p s = s.errRsp p stXlate := by
  simp [wrReqOp, h]

theorem rdReqOp_of_clean {p : Packet} {s : State} (h : s.peerOk p false = true) (hecc : s.mem.eccAt (.hbm p.addr.toNat) = .clean) :
    rdReqOp p s = (s.bump (cntStack (s.stackOf p.addr.toNat) 1) 1).respond
      (s.mkPacket p.src.toNat 4 p.addr.toNat p.tag.toNat (s.mem.read (.hbm p.addr.toNat) 512)) := by
  simp [rdReqOp, h, State.readCodes, hecc, worseEcc]
  rfl

theorem rdReqOp_of_uncorrectable {p : Packet} {s : State} (h : s.peerOk p false = true)
    (hecc : s.mem.eccAt (.hbm p.addr.toNat) = .uncorrectable) :
    SameBytes s.mem (rdReqOp p s).mem ∧ (rdReqOp p s).mem.eccAt (.hbm p.addr.toNat) = .uncorrectable
      ∧ Frame [.log, .cnt, .trc, .mem, .fab, .hosts] s (rdReqOp p s) := by
  let s1 := (s.bump (cntStack (s.stackOf p.addr.toNat) 9) 1).setEcc (.hbm p.addr.toNat) .uncorrectable
  let s2 := s1.bump (cntStack (s.stackOf p.addr.toNat) 1) 1
  let s3 := (s2.logNew (s.lineArg stEcc p.addr.toNat)).1
  have hop : rdReqOp p s = s3.errRsp p stEcc := by
    simp [rdReqOp, h, State.readCodes, hecc, worseEcc, s1, s2, s3]
  have hsent : Frame sendGroups s3 (rdReqOp p s) := by
    rw [hop]
    exact s3.frame_errRsp p stEcc
  have hmem : (rdReqOp p s).mem = s.mem.setEcc (.hbm p.addr.toNat) .uncorrectable := by
    rw [hsent .mem (by decide)]
    exact State.logNew_mem _ _
  refine ⟨?_, ?_, ?_⟩
  · rw [hmem]
    exact s.mem.sameBytes_setEcc _ _
  · rw [hmem, Memories.eccAt_setEcc_hbm]
  · have hnoted : Frame [.log, .cnt, .trc, .mem, .fab, .hosts] s s3 := by
      intro g hg
      cases g <;> simp_all [Group.same, s1, s2, s3]
    exact hnoted.trans (hsent.mono (by decide))

theorem wrReqOp_of_served {p : Packet} {s : State} (h : s.peerOk p true = true) :
    SameBytes (s.mem.writeMasked (.hbm p.addr.toNat) (wrBytesOf p)) (wrReqOp p s).mem
      ∧ Frame [.log, .cnt, .trc, .mem, .cmds, .fab, .hosts] s (wrReqOp p s) := by
  let s1 := s.landLine none (.hbm p.addr.toNat) (wrBytesOf p)
  let s2 := s1.bump (cntStack (s.stackOf p.addr.toNat) 2) 1
  have hop : wrReqOp p s = s2.respond (s2.mkPacket p.src.toNat 5 p.addr.toNat p.tag.toNat []) := by
    simp [wrReqOp, h, s1, s2]
  rw [hop]
  have hsent := s2.frame_respond (s2.mkPacket p.src.toNat 5 p.addr.toNat p.tag.toNat [])
  constructor
  · rw [hsent .mem (by decide)]
    exact s.sameBytes_landLine none _ _
  · refine Frame.trans ?_ (hsent.mono (by decide))
    refine Frame.trans ?_ ((s1.frame_bump _ _).mono (by decide))
    exact (s.frame_landLine _ _ _).mono (by decide)

end Sys2Proof.Machine

/-!
PROOFS. How a started command ends with an error (R306, R308), and the responses of peers (R349, R354, R360); from these, O42.
-/
namespace Sys2Proof.Machine

/-! ## Commands under watched writes, migrations and log entries -/

@[simp] theorem State.cmd?_setCmd (s : State) (k slot : Nat) (c : Option Cmd) :
    (s.setCmd k c).cmd? slot = if slot = k then c else s.cmd? slot := by
  simp [State.cmd?, Tab.get_set]

theorem State.cmd?_setCmd_self (s : State) (slot : Nat) (c : Option Cmd) : (s.setCmd slot c).cmd? slot = c := by simp

theorem State.cmd?_eq_of_frame {gs : List Group} {s t : State} (h : Frame gs s t) (hg : Group.cmds ∉ gs) (slot : Nat) :
    t.cmd? slot = s.cmd? slot := by
  have hcmds : t.cmds = s.cmds := h .cmds hg
  simp [State.cmd?, hcmds]

theorem State.cmd?_bump (s : State) (off n slot : Nat) : (s.bump off n).cmd? slot = s.cmd? slot := rfl

theorem State.cmd?_foldl_of_frame {α : Type} {f : State → α → State} (l : List α) (s : State) (slot : Nat)
    (hf : ∀ s x, Frame [.cnt] s (f s x)) : (l.foldl f s).cmd? slot = s.cmd? slot :=
  State.cmd?_eq_of_frame (frame_foldl hf l s) (by decide) slot

/-- A command as watched writes, log entries and the outcomes of its pages leave it: its tiles, requests, counts, pages and first log entry may
have changed. -/
def Cmd.Steady (c c' : Cmd) : Prop :=
  ∃ tiles outQ acc mig errSeq, c' = { c with tiles := tiles, outQ := outQ, acc := acc, mig := mig, errSeq := errSeq }

theorem Cmd.Steady.refl (c : Cmd) : c.Steady c := ⟨_, _, _, _, _, rfl⟩

theorem Cmd.Steady.trans {a b c : Cmd} (hab : a.Steady b) (hbc : b.Steady c) : a.Steady c := by
  obtain ⟨_, _, _, _, _, rfl⟩ := hab
  obtain ⟨_, _, _, _, _, rfl⟩ := hbc
  exact ⟨_, _, _, _, _, rfl⟩

theorem Cmd.Steady.started_eq {c c' : Cmd} (h : c.Steady c') : c'.started = c.started := by
  obtain ⟨_, _, _, _, _, rfl⟩ := h
  rfl

theorem Cmd.Steady.st_eq {c c' : Cmd} (h : c.Steady c') : c'.st = c.st := by
  obtain ⟨_, _, _, _, _, rfl⟩ := h
  rfl

theorem Cmd.Steady.ended_eq {c c' : Cmd} (h : c.Steady c') : c'.ended = c.ended := by
  obtain ⟨_, _, _, _, _, rfl⟩ := h
  rfl

theorem Cmd.ended_eq_false {c : Cmd} (h : isError c.st = false) : c.ended = false := by simp [Cmd.ended, h]

/-- Every command stays in its slot, and steady. -/
def State.Steady (s t : State) : Prop := ∀ slot c, s.cmd? slot = some c → ∃ c', t.cmd? slot = some c' ∧ c.Steady c'

theorem State.Steady.refl (s : State) : s.Steady s := fun _ c h => ⟨c, h, .refl c⟩

theorem State.Steady.trans {s t u : State} (hst : s.Steady t) (htu : t.Steady u) : s.Steady u := by
  intro slot c hc
  obtain ⟨c1, hc1, h1⟩ := hst slot c hc
  obtain ⟨c2, hc2, h2⟩ := htu slot c1 hc1
  exact ⟨c2, hc2, h1.trans h2⟩

theorem State.Steady.of_slots {s t : State} (h : t.cmds.slots = s.cmds.slots) : s.Steady t := fun _ c hc =>
  ⟨c, by rw [← hc, State.cmd?, State.cmd?, h], .refl c⟩

theorem State.Steady.of_frame {gs : List Group} {s t : State} (h : Frame gs s t) (hg : Group.cmds ∉ gs) : s.Steady t :=
  .of_slots (congrArg CmdSt.slots (h .cmds hg))

theorem State.Steady.foldl {α : Type} {f : State → α → State} (hf : ∀ (s : State) x, s.Steady (f s x)) (l : List α) (s : State) :
    s.Steady (l.foldl f s) := by
  induction l generalizing s with
  | nil => exact .refl s
  | cons x l ih => exact (hf s x).trans (ih (f s x))

theorem State.Steady.setCmd {s : State} {k : Nat} {c c' : Cmd} (hc : s.cmd? k = some c) (h : c.Steady c') : s.Steady (s.setCmd k (some c')) := by
  intro slot d hd
  rw [State.cmd?_setCmd]
  by_cases hk : slot = k
  · subst hk
    obtain rfl : c = d := Option.some_inj.1 (hc.symm.trans hd)
    exact ⟨c', if_pos rfl, h⟩
  · exact ⟨d, by rw [if_neg hk, hd], .refl d⟩

theorem State.Steady.modCmd {s : State} {k : Nat} {f : Cmd → Cmd} (hf : ∀ c : Cmd, c.Steady (f c)) : s.Steady (s.modCmd k f) := by
  unfold State.modCmd
  split
  next c hc => exact .setCmd hc (hf c)
  next => exact .refl s

theorem State.steady_hitCmd {s : State} {slot : Nat} {c : Cmd} (hc : s.cmd? slot = some c) (l : Loc) (lo hi : Nat) :
    s.Steady (s.hitCmd slot c l lo hi) := by
  simp only [State.hitCmd]
  split
  · exact .refl s
  · refine .trans ?_ (.foldl (fun s k => .of_frame (s.frame_bump _ _) (by simp)) _ _)
    refine .trans ?_ (.foldl (fun s t => .of_frame (s.frame_bump _ _) (by simp)) _ _)
    refine .trans (.of_slots rfl) (.setCmd (c := c) hc ?_)
    exact ⟨_, _, _, _, _, rfl⟩

theorem State.steady_watch (s : State) (writer : Option Nat) (l : Loc) (lo hi : Nat) : s.Steady (s.watch writer l lo hi) := by
  refine .foldl (fun s e => ?_) _ s
  split
  · exact .refl s
  · split
    next c hc => exact s.steady_hitCmd hc _ _ _
    next => exact .refl s

theorem State.steady_watchBytes (s : State) (writer : Option Nat) (line : Loc) (bytes : List (Nat × Byte)) :
    s.Steady (s.watchBytes writer line bytes) := by
  unfold State.watchBytes
  split
  · exact .refl s
  · exact s.steady_watch _ _ _ _

theorem State.steady_landLine (s : State) (writer : Option Nat) (line : Loc) (bytes : List (Nat × Byte)) :
    s.Steady (s.landLine writer line bytes) := by
  simp only [State.landLine]
  split
  · exact .refl s
  · refine .trans ?_ (State.steady_watchBytes _ _ _ _)
    exact .of_slots rfl

theorem State.steady_landOut (s : State) (writer : Option Nat) (line : Loc) (bytes : List (Nat × Byte)) :
    s.Steady (s.landOut writer line bytes) := by
  refine .trans ?_ (State.steady_landLine _ writer line bytes)
  split
  · exact .of_frame (s.frame_hostPush _ _) (by simp)
  · exact .refl s

theorem State.steady_count (s : State) (slot : Nat) (o : Oc) (n : Nat) : s.Steady (s.count slot o n) := by
  have hacc : s.Steady (s.modAcc slot (fun a => { a with oc := addOc o n a.oc })) := .modCmd (fun c => ⟨_, _, _, _, _, rfl⟩)
  simp only [State.count]
  split
  · exact .refl s
  · split
    · exact hacc.trans (.of_frame (State.frame_bump _ _ _) (by simp))
    · exact hacc

theorem State.steady_shuntVa (s : State) (slot ctx va : Nat) (bytes : List Byte) : s.Steady (s.shuntVa slot ctx va bytes) := by
  refine .foldl (fun s r => ?_) _ s
  split
  · exact .modCmd (fun c => ⟨_, _, _, _, _, rfl⟩)
  · exact s.steady_landOut _ _ _

theorem State.steady_migOutcome (s : State) (slot page out : Nat) : s.Steady (s.migOutcome slot page out) := by
  simp only [State.migOutcome]
  split
  · exact .refl s
  · refine .trans ?_ (.modCmd (fun c => ⟨_, _, _, _, _, rfl⟩))
    split
    · refine .trans ?_ (.of_frame (State.frame_bump _ _ _) (by simp))
      exact .trans (s.steady_shuntVa _ _ _ _) (State.steady_count _ _ _ _)
    · exact s.steady_shuntVa _ _ _ _

theorem State.steady_swapMigs (hs : List MigHold) (s : State) : s.Steady (State.swapMigs hs s).1 := by
  induction hs generalizing s with
  | nil => exact .refl s
  | cons h t ih =>
    refine .trans ?_ (ih _)
    split
    · exact s.steady_landLine _ _ _
    · exact .refl s

theorem State.steady_settleMigs (s : State) : s.Steady s.settleMigs := by
  unfold State.settleMigs
  split
  · exact .refl s
  · refine .trans ?_ (.foldl (fun s x => s.steady_migOutcome _ _ _) _ _)
    refine .trans ?_ (State.steady_swapMigs _ _)
    exact .of_slots rfl

theorem State.steady_endMigrate (s : State) (slot : Nat) : s.Steady (s.endMigrate slot) := by
  simp only [State.endMigrate]
  split
  · exact .refl s
  · split
    · split
      · exact s.steady_settleMigs.trans (.foldl (fun s k => s.steady_migOutcome _ _ _) _ _)
      · exact s.steady_settleMigs
    · exact .refl s

theorem State.steady_logCmd (s : State) (slot : Nat) (a : LogArg) : s.Steady (s.logCmd slot a) := by
  simp only [State.logCmd]
  split
  · exact .of_frame (s.frame_logErr _) (by decide)
  · exact .trans (.of_frame (s.frame_logSeq _) (by decide)) (.modCmd (fun c => ⟨_, _, _, _, _, rfl⟩))

/-! ## The end of a started command (R306, R308) -/

theorem State.frame_sendEach (s : State) (slot : Nat) (ps : List Packet) : Frame sendGroups s (s.sendEach slot ps) :=
  frame_foldl (fun s _ => s.frame_sendPacket _ _ _ _) ps s

theorem State.frame_sendCancels (s : State) (slot : Nat) (c : Cmd) : Frame sendGroups s (s.sendCancels slot c) := by
  unfold State.sendCancels
  split
  · exact s.frame_sendEach _ _
  · exact frame_foldl (fun s e => (s.frame_sendOn _ _ _ _ _).trans (State.frame_sendOn _ _ _ _ _ _)) _ s

/-- An error takes the place of a status that is none (R11). -/
theorem Cmd.mark_status {c : Cmd} {st : Byte} (detail : Byte) (hc : isError c.st = false) (hst : isError st = true) :
    (c.mark st detail).status = some (st, detail) := by
  unfold Cmd.mark
  cases hs : c.status with
  | none => rfl
  | some x =>
    obtain ⟨old, d⟩ := x
    have hold : isError old = false := by simpa [Cmd.st, hs] using hc
    have hrank : stRank old < stRank st := by
      simp only [stRank, hold, hst, Bool.false_eq_true, if_false, if_true]
      split
      · decide
      · split <;> decide
    simp [hrank]

theorem Cmd.mark_eq_with_status (c : Cmd) (st detail : Byte) : c.mark st detail = { c with status := (c.mark st detail).status } := by
  unfold Cmd.mark
  split
  · split <;> rfl
  · rfl

/-- What cancelling leaves of a command (R278): of a MIGRATE the outcome bytes, of any other no request. -/
theorem State.cmd?_cancel {s : State} {slot : Nat} {c : Cmd} (hc : s.cmd? slot = some c) :
    ∃ acc dual, (s.cancel slot).cmd? slot = some { c with
      tiles := [], eaten := 0, bursts := [], outQ := if c.op = 8 then c.outQ.filter (fun r => r.kind != .read) else [], paged := [], acc := acc
      dual := dual } := by
  simp only [State.cancel, hc]
  rw [State.cmd?_foldl_of_frame, State.cmd?_foldl_of_frame, State.cmd?_bump, State.cmd?_setCmd_self]
  · exact ⟨_, _, rfl⟩
  · intro s t
    split
    · exact s.frame_bump _ _
    · exact Frame.refl _ s
  · exact fun s k => s.frame_bump _ _

/-- How a started command that ends with an error stands: its work is over, its streams are cancelled, and of a MIGRATE the outcome bytes
alone still leave (R248, R278, R306). `c` is the command before. -/
structure Stopped (c c' : Cmd) (st detail : Byte) : Prop where
  status : isError c.st = false → isError st = true → c'.status = some (st, detail)
  phase : c'.phase = .worked
  queue : ∀ r ∈ c'.outQ, c'.op = 8 ∧ r.kind ≠ .read
  paged : c'.paged = []
  tiles : c'.tiles = []

theorem Stopped.ended {s : State} {slot : Nat} {c c' : Cmd} {st detail : Byte} (h : Stopped c c' st detail) (hc : s.cmd? slot = some c')
    (he : isError c.st = false) (hst : isError st = true) : Ended s slot st detail :=
  ⟨c', hc, h.status he hst, h.phase, h.queue, h.paged, h.tiles⟩

/-- A started command with the status of its end, before its streams are cancelled (R222, R306, R308). -/
def Cmd.ending (c : Cmd) (st detail : Byte) (stage : Nat) : Cmd :=
  { (c.mark st detail) with failStage := stage, indStage := c.indStage || c.beforeMain, indLine := false
                            indMask := c.indMask ||| c.earlyMask st }

theorem Cmd.started_ending {c : Cmd} (st detail : Byte) (stage : Nat) (hs : c.started = true) : (c.ending st detail stage).started = true := by
  rw [Cmd.ending, c.mark_eq_with_status]
  exact hs

/-- A started command that ends: its pages under migration are settled, its streams are cancelled, and its work is over. -/
theorem State.endQuiet_of_started {s : State} {slot : Nat} {c c1 : Cmd} (st detail : Byte) (stage : Nat)
    (hc : (s.endMigrate slot).cmd? slot = some c) (hs : c.started = true) (hend : c.ended = false) (hc1 : c1 = c.ending st detail stage) :
    ∃ acc dual, s.endQuiet slot st detail stage = (((s.endMigrate slot).setCmd slot (some c1)).cancel slot).setCmd slot (some { c1 with
      tiles := [], eaten := 0, bursts := [], outQ := if c1.op = 8 then c1.outQ.filter (fun r => r.kind != .read) else [], paged := [], acc := acc
      dual := dual, phase := .worked }) := by
  obtain ⟨acc, dual, hcancel⟩ := State.cmd?_cancel (State.cmd?_setCmd_self (s.endMigrate slot) slot (some c1))
  have hs1 : c1.started = true := hc1 ▸ Cmd.started_ending st detail stage hs
  have hcount : (s.endMigrate slot).countWaits slot c = s.endMigrate slot := by simp [State.countWaits, hs]
  subst hc1
  unfold Cmd.ending at hcancel
  refine ⟨acc, dual, ?_⟩
  simp only [State.endQuiet, hc, hend, hcount, Option.getD_some, Bool.false_eq_true, if_false]
  rw [hcancel]
  exact if_pos hs1

theorem State.endQuiet_stops {s : State} {slot : Nat} {c : Cmd} (st detail : Byte) (stage : Nat) (hc : s.cmd? slot = some c)
    (hs : c.started = true) (hend : c.ended = false) : ∃ c', (s.endQuiet slot st detail stage).cmd? slot = some c' ∧ Stopped c c' st detail := by
  obtain ⟨c0, hc0, hsteady⟩ := s.steady_endMigrate slot slot c hc
  obtain ⟨acc, dual, hquiet⟩ :=
    State.endQuiet_of_started st detail stage hc0 (hsteady.started_eq.trans hs) (hsteady.ended_eq.trans hend) rfl
  refine ⟨_, by rw [hquiet, State.cmd?_setCmd_self], ?_⟩
  refine ⟨fun he hst => c0.mark_status detail (hsteady.st_eq ▸ he) hst, rfl, fun r hr => ?_, rfl, rfl⟩
  by_cases hop : (c0.ending st detail stage).op = 8
  · simp only [hop, if_true] at hr
    exact ⟨hop, by simpa using (List.mem_filter.1 hr).2⟩
  · simp [hop] at hr

/-- A started command that has not ended stops at a failure (R306, R308). -/
theorem State.failCmd_stops {s : State} {slot : Nat} {c : Cmd} (st detail : Byte) (stage : Nat) (a : LogArg)
    (hc : s.cmd? slot = some c) (hs : c.started = true) (hend : c.ended = false) :
    ∃ c', (s.failCmd slot st detail stage a).cmd? slot = some c' ∧ Stopped c c' st detail := by
  obtain ⟨c1, hc1, hsteady⟩ := s.steady_logCmd slot { a with status := st, detail := detail.toNat } slot c hc
  have hend1 : c1.ended = false := hsteady.ended_eq.trans hend
  have hcancels := (State.cmd?_eq_of_frame (State.frame_sendCancels (s.logCmd slot { a with status := st, detail := detail.toNat }) slot c1)
    (by decide) slot).trans hc1
  obtain ⟨c2, hc2, hstop⟩ := State.endQuiet_stops st detail stage hcancels (hsteady.started_eq.trans hs) hend1
  refine ⟨c2, ?_, fun he => hstop.status (hsteady.st_eq ▸ he), hstop.phase, hstop.queue, hstop.paged, hstop.tiles⟩
  simpa only [State.failCmd, hc, hend, State.endCmd, hc1, hend1, Bool.false_eq_true, if_false] using hc2

/-! ## Responses of peers (R349, R354, R360) -/

theorem State.answered_eq_none {s : State} {p : Packet} (ok : Wagon → Bool)
    (h : ∀ w ∈ s.cmds.wagons, w.served = true ∨ w.tag ≠ p.tag.toNat) : s.answered p ok = none := by
  have hnone : s.cmds.wagons.filter (fun w => w.peerOf.isSome && !w.served && w.tag == p.tag.toNat && ok w) = [] := by
    rw [List.filter_eq_nil_iff]
    intro w hw
    rcases h w hw with hserved | htag
    · simp [hserved]
    · simp [htag]
  simp [State.answered, hnone]

section Only
variable {s : State} {p : Packet} {before after : List Wagon} {w : Wagon} (hws : s.cmds.wagons = before ++ w :: after)
  (hothers : ∀ x ∈ before ++ after, x.tag ≠ p.tag.toNat) (htag : w.tag = p.tag.toNat) (hserved : w.served = false)
  (hline : w.req.line = .peer p.src.toNat p.addr.toNat)
include hws hothers htag hserved hline

/-- A response whose TAG one wagon alone holds names that wagon (R349). -/
theorem State.answered_of_only (ok : Wagon → Bool) : s.answered p ok = if ok w then some w else none := by
  have hpeer : w.peerOf = some (p.src.toNat, p.addr.toNat) := by simp [Wagon.peerOf, hline]
  have hnil (l : List Wagon) (hl : ∀ x ∈ l, x ∈ before ++ after) :
      l.filter (fun x => x.peerOf.isSome && !x.served && x.tag == p.tag.toNat && ok x) = [] := by
    rw [List.filter_eq_nil_iff]
    intro x hx
    simp [hothers x (hl x hx)]
  have hfilter : s.cmds.wagons.filter (fun x => x.peerOf.isSome && !x.served && x.tag == p.tag.toNat && ok x) = if ok w then [w] else [] := by
    rw [hws, List.filter_append, hnil before (fun x hx => List.mem_append_left _ hx), List.nil_append, List.filter_cons,
      hnil after (fun x hx => List.mem_append_right _ hx)]
    simp [hpeer, hserved, htag]
  simp only [State.answered, hfilter]
  cases ok w <;> simp [hpeer]

theorem rdRspOp_of_only (k : Nat) : rdRspOp k p s = if w.req.kind = .read
    then s.modWagon w.id (fun x => { x with served := true, data := slice p.data 0 512 }) else s.discardPacket k p := by
  have hpeer : w.peerOf = some (p.src.toNat, p.addr.toNat) := by simp [Wagon.peerOf, hline]
  rw [rdRspOp, State.answered_of_only hws hothers htag hserved hline]
  by_cases hk : w.req.kind = .read <;> simp [hk, hpeer]

theorem wrAckOp_of_only (k : Nat) : wrAckOp k p s = if w.req.kind = .read then s.discardPacket k p
    else (s.watchBytes (some w.req.slot) w.req.line w.req.bytes).modWagon w.id (fun x => { x with served := true }) := by
  have hpeer : w.peerOf = some (p.src.toNat, p.addr.toNat) := by simp [Wagon.peerOf, hline]
  rw [wrAckOp, State.answered_of_only hws hothers htag hserved hline]
  by_cases hk : w.req.kind = .read <;> simp [hk, hpeer]

/-- ERR_RSP ends the command of a write with its STATUS (R354, R360). -/
theorem errRspOp_ends {c : Cmd} (k : Nat) (hk : w.req.kind = .write) (hret : isReturned p.status = true) (hdiscard : w.discard = false)
    (hto : w.timedOut = false) (hfield : w.req.field ≠ loadField) (hc : s.cmd? w.req.slot = some c) (hs : c.started = true)
    (he : isError c.st = false) : Ended (errRspOp k p s) w.req.slot p.status 0 := by
  have hst : isError p.status = true := by
    simp only [isReturned, isError, Bool.and_eq_true, decide_eq_true_eq] at hret ⊢
    omega
  have hmig (s1 : State) : s1.failMig w p.status = s1 := by
    unfold State.failMig
    split <;> simp [hk]
  have hread : ¬(w.req.kind = .read ∧ w.req.spec = true) := by simp [hk]
  have hstopped : ¬(w.discard = true ∨ w.timedOut = true) := by simp [hdiscard, hto]
  simp only [errRspOp, hret, State.answered_of_only hws hothers htag hserved hline, hmig, if_neg hread, if_neg hstopped, hfield,
    Bool.not_true, Bool.false_eq_true, false_and, if_false, if_true]
  obtain ⟨c', hc', hstop⟩ := State.failCmd_stops (s := s.modWagon w.id (fun x => { x with served := true, arrived := true })) p.status 0
    w.req.stage { status := p.status, unit := uPort, where_ := k, addr := w.req.line.addr } hc hs (Cmd.ended_eq_false he)
  exact hstop.ended hc' he hst

end Only

theorem errRspOp_of_not_returned {p : Packet} (k : Nat) (s : State) (h : isReturned p.status = false) :
    errRspOp k p s = s.discardPacket k p := by simp [errRspOp, h]

/-- A response that names no wagon is discarded and logged (R349). -/
theorem rsp_of_unanswered {s : State} {p : Packet} (k : Nat) (h : ∀ w ∈ s.cmds.wagons, w.served = true ∨ w.tag ≠ p.tag.toNat) :
    rdRspOp k p s = s.discardPacket k p ∧ wrAckOp k p s = s.discardPacket k p ∧ errRspOp k p s = s.discardPacket k p := by
  simp [rdRspOp, wrAckOp, errRspOp, State.answered_eq_none _ h]

/-! ## The rows of peer requests -/

theorem exec_rdReq_of_awake {s : State} (k : Nat) (p : Packet) (hawake : s.asleep = false) (hbusy : s.trc.dump.busy = false) :
    exec (.rdReq k p) s = .next (rdReqOp { p with kind := 1 } s) := congrArg Host.Outcome.next (State.orWait_of_awake _ _ hawake hbusy)

/-- WR and WR_MASK, each with the KIND of its row. -/
theorem exec_wr_of_awake {s : State} {k : Nat} {p wr : Packet} {i : Instr}
    (hi : (wr, i) ∈ [({ p with kind := 2 }, .wr k p), ({ p with kind := 3 }, .wrMask k p)]) (hawake : s.asleep = false)
    (hbusy : s.trc.dump.busy = false) : exec i s = .next (wrReqOp wr s) := by
  simp only [List.mem_cons, Prod.mk.injEq, List.not_mem_nil, or_false] at hi
  rcases hi with ⟨rfl, rfl⟩ | ⟨rfl, rfl⟩
  · exact congrArg Host.Outcome.next (State.orWait_of_awake _ _ hawake hbusy)
  · exact congrArg Host.Outcome.next (State.orWait_of_awake _ _ hawake hbusy)

/-- Settles O42: a request is served or refused by `State.peerOk`, a response goes to the one wagon of its TAG, and an ERR_RSP ends the
command of a write as `State.failCmd_stops` says. -/
theorem peerRequestsAndResponsesAreServed : Obligations.PeerRequestsAndResponsesAreServed := by
  refine ⟨fun k p s hbusy => ?_, fun k p s hawake hbusy => ⟨fun h => ?_, fun h hecc => ?_, fun h hecc => ?_, fun wr i hi => ⟨fun h => ?_,
    fun h => ?_⟩⟩, fun k p s => ⟨fun h => ?_, fun before after w hws hothers htag hserved hline => ⟨fun hk => ?_, fun hk => ?_, ?_, fun h => ?_⟩⟩⟩
  · exact ⟨congrArg Host.Outcome.next (State.orWait_of_busy _ hbusy (.inl rfl)),
      congrArg Host.Outcome.next (State.orWait_of_busy _ hbusy (.inr (.inl rfl))),
      congrArg Host.Outcome.next (State.orWait_of_busy _ hbusy (.inr (.inr rfl)))⟩
  · rw [exec_rdReq_of_awake k p hawake hbusy, rdReqOp_of_refused h]
  · rw [exec_rdReq_of_awake k p hawake hbusy, rdReqOp_of_clean h hecc]
  · exact ⟨_, exec_rdReq_of_awake k p hawake hbusy, rdReqOp_of_uncorrectable h hecc⟩
  · rw [exec_wr_of_awake hi hawake hbusy, wrReqOp_of_refused h]
  · have haddr : wr.addr = p.addr := by
      simp only [List.mem_cons, Prod.mk.injEq, List.not_mem_nil, or_false] at hi
      rcases hi with ⟨rfl, -⟩ | ⟨rfl, -⟩ <;> rfl
    exact ⟨_, exec_wr_of_awake hi hawake hbusy, haddr ▸ wrReqOp_of_served h⟩
  · obtain ⟨hrd, hack, herr⟩ := rsp_of_unanswered k h
    exact ⟨congrArg Host.Outcome.next hrd, congrArg Host.Outcome.next hack, congrArg Host.Outcome.next herr⟩
  · exact ⟨congrArg Host.Outcome.next ((rdRspOp_of_only hws hothers htag hserved hline k).trans (if_pos hk)),
      congrArg Host.Outcome.next ((wrAckOp_of_only hws hothers htag hserved hline k).trans (if_pos hk))⟩
  · exact ⟨congrArg Host.Outcome.next ((wrAckOp_of_only hws hothers htag hserved hline k).trans (if_neg hk)),
      congrArg Host.Outcome.next ((rdRspOp_of_only hws hothers htag hserved hline k).trans (if_neg hk))⟩
  · intro c hk hret hdiscard hto hfield hc hs he
    exact ⟨_, rfl, errRspOp_ends hws hothers htag hserved hline k hk hret hdiscard hto hfield hc hs he⟩
  · exact congrArg Host.Outcome.next (errRspOp_of_not_returned k s h)

end Sys2Proof.Machine

/-!
PROOFS. Issuing the requests of a command (R262, R263).
-/
namespace Sys2Proof.Machine

/-! ## The order in which requests leave (R263) -/

theorem mem_insertTurn {x y : (Nat × Nat) × WagonReq} {l : List ((Nat × Nat) × WagonReq)} : y ∈ insertTurn x l ↔ y = x ∨ y ∈ l := by
  induction l with
  | nil => simp [insertTurn]
  | cons z l ih =>
    unfold insertTurn
    split
    · simp
    · simp [ih, or_left_comm]

theorem mem_foldl_insertTurn {y : (Nat × Nat) × WagonReq} (xs acc : List ((Nat × Nat) × WagonReq)) :
    y ∈ xs.foldl (fun a x => insertTurn x a) acc ↔ y ∈ xs ∨ y ∈ acc := by
  induction xs generalizing acc with
  | nil => simp
  | cons x xs ih => simp [ih, mem_insertTurn, or_assoc, or_left_comm]

/-- Turns order the requests of a command and lose none. -/
theorem State.mem_inTurn (s : State) (l : List WagonReq) (r : WagonReq) : r ∈ s.inTurn l ↔ r ∈ l := by
  simp only [State.inTurn, List.mem_map, mem_foldl_insertTurn, List.not_mem_nil, or_false]
  constructor
  · rintro ⟨_, ⟨e, he, rfl⟩, rfl⟩
    exact List.fst_mem_of_mem_zipIdx he
  · intro h
    obtain ⟨i, hi, rfl⟩ := List.getElem_of_mem h
    exact ⟨_, ⟨(l[i], i), List.mem_zipIdx_iff_getElem?.2 (List.getElem?_eq_getElem hi), rfl⟩, rfl⟩

/-! ## One request (R262, R263) -/

/-- A request that does not go to peer HBM. -/
def WagonReq.near (r : WagonReq) : Prop := ∀ node pa, r.line ≠ .peer node pa

theorem noPeer_iff (rs : List WagonReq) : NoPeer rs ↔ ∀ r ∈ rs, r.near := Iff.rfl

theorem State.frame_countIssue (s : State) (c : Cmd) (r : WagonReq) : Frame [.cnt] s (s.countIssue c r) := by
  simp only [State.countIssue]
  split
  · exact (s.frame_bump _ _).trans (State.frame_bump _ _ _)
  · exact s.frame_bump _ _

/-- What an attempt to issue a wagon does: it leaves the command slots; it adds the wagon or none; a port that is down concerns peer HBM alone. -/
structure Issues (gs : List Group) (r : WagonReq) (s t : State) (res : IssueRes) : Prop where
  frame : Frame gs s t
  slots : t.cmds.slots = s.cmds.slots
  wagons : t.cmds.wagons = s.cmds.wagons ∨ ∃ w, t.cmds.wagons = s.cmds.wagons ++ [w] ∧ w.req = r
  issued : res = .issued → ∃ w ∈ t.cmds.wagons, w.req = r
  down : res = .down → ¬r.near

theorem Issues.of_down {gs : List Group} {r : WagonReq} {s t : State} (hf : Frame gs s t) (hs : t.cmds = s.cmds) (hr : ¬r.near) :
    Issues gs r s t .down where
  frame := hf
  slots := by rw [hs]
  wagons := .inl (by rw [hs])
  issued h := nomatch h
  down _ := hr

/-- The groups that a request changes which stays on this device, or goes to a host. -/
def issueGroups : List Group := [.cmds, .cnt, .hosts]

theorem State.frame_cmds (s : State) (x : CmdSt) : Frame [.cmds] s { s with cmds := x } := by
  intro g hg
  cases g <;> simp_all [Group.same]

section
variable {gs : List Group} {r : WagonReq} {s : State}

theorem Issues.of_added (hg : Group.cmds ∈ gs) {x : CmdSt} (w : Wagon) (hs : x.slots = s.cmds.slots) (hw : x.wagons = s.cmds.wagons ++ [w])
    (hr : w.req = r) : Issues gs r s { s with cmds := x } .issued where
  frame := (s.frame_cmds x).mono (by simpa using hg)
  slots := hs
  wagons := .inr ⟨w, hw, hr⟩
  issued _ := ⟨w, by simp [hw], hr⟩
  down h := nomatch h

theorem Issues.then {hs : List Group} {t u : State} {res : IssueRes} (h : Issues gs r s t res) (hf : Frame hs t u) (hsub : hs ⊆ gs)
    (hc : Group.cmds ∉ hs) : Issues gs r s u res := by
  have hcmds : u.cmds = t.cmds := hf .cmds hc
  refine ⟨h.frame.trans (hf.mono hsub), ?_, ?_, ?_, h.down⟩ <;> rw [hcmds]
  · exact h.slots
  · exact h.wagons
  · exact h.issued

theorem State.issue_issues (hbase : issueGroups ⊆ gs) (s : State) (c : Cmd) (r : WagonReq)
    (hp : r.near ∨ sendGroups ⊆ gs) : Issues gs r s (s.issue c r).1 (s.issue c r).2 := by
  have hg : Group.cmds ∈ gs := hbase (by decide)
  have hcnt : [Group.cnt] ⊆ gs := by simpa using hbase (show Group.cnt ∈ issueGroups by decide)
  have hhosts : [Group.hosts] ⊆ gs := by simpa using hbase (show Group.hosts ∈ issueGroups by decide)
  simp only [State.issue]
  split
  · exact ⟨Frame.refl _ s, rfl, .inl rfl, nofun, nofun⟩
  · split
    next n pa hline =>
      have hfar : ¬r.near := fun h => h n pa hline
      have hsend : sendGroups ⊆ gs := hp.resolve_left hfar
      split
      · refine Issues.then ?_ (State.frame_countIssue _ c r) hcnt (by decide)
        refine Issues.then ?_ (State.frame_sendPacket _ _ _ _ _) hsend (by decide)
        exact .of_added hg _ rfl rfl rfl
      · split
        · exact .of_down ((s.frame_sendPacket _ _ _ _).mono hsend) (s.frame_sendPacket _ _ _ _ .cmds (by decide)) hfar
        · exact .of_down (Frame.refl _ s) rfl hfar
    next k a hline =>
      refine Issues.then ?_ (State.frame_countIssue _ c r) hcnt (by decide)
      split
      · exact .of_added hg _ rfl rfl rfl
      · refine Issues.then ?_ (State.frame_hostPush _ _ _) hhosts (by decide)
        exact .of_added hg _ rfl rfl rfl
    next =>
      refine Issues.then ?_ (State.frame_countIssue _ c r) hcnt (by decide)
      exact .of_added hg _ rfl rfl rfl

end

/-! ## The requests of a command -/

/-- The requests of a command of which none can make it end: a port that is down ends the command of a request that is not speculative. -/
def Calm (rs : List WagonReq) : Prop := ∀ r ∈ rs, r.near ∨ r.spec = true

/-- The command in a slot goes on from `s` to `t` without a change of its work: its streams have run ahead, and requests of it have left.
Only the groups `gs` have changed, and of the commands this one. -/
structure Ahead (gs : List Group) (slot : Nat) (c c' : Cmd) (s t : State) : Prop where
  cmd : t.cmd? slot = some c'
  kept : c' = { c with tiles := c'.tiles, bursts := c'.bursts, outQ := c'.outQ, indMask := c'.indMask
                       acc := { c.acc with specFault := c'.acc.specFault } }
  mask : (∀ r ∈ c.outQ, r.kind = .read) → c'.indMask = c.indMask
  queue : ∀ r ∈ c'.outQ, r ∈ c.outQ ∨ (r.kind = .read ∧ r.spec = true)
  left : ∀ r ∈ c.outQ, r.near → r ∈ c'.outQ ∨ ∃ w ∈ t.cmds.wagons, w.req = r
  wagons : s.cmds.wagons ⊆ t.cmds.wagons
  others : OtherSlots slot s t
  frame : Frame gs s t

section
variable {gs : List Group} {slot : Nat} {a b c : Cmd} {s t u : State}

theorem Ahead.refl (gs : List Group) (h : s.cmd? slot = some c) : Ahead gs slot c c s s where
  cmd := h
  kept := rfl
  mask _ := rfl
  queue _ hr := .inl hr
  left _ hr _ := .inl hr
  wagons := List.Subset.refl _
  others _ _ := rfl
  frame := Frame.refl gs s

theorem Ahead.trans (h1 : Ahead gs slot a b s t) (h2 : Ahead gs slot b c t u) : Ahead gs slot a c s u where
  cmd := h2.cmd
  kept := by
    rw [h2.kept, h1.kept]
  mask hr := by
    refine (h2.mask fun r hb => ?_).trans (h1.mask hr)
    rcases h1.queue r hb with ha | ⟨hk, -⟩
    · exact hr r ha
    · exact hk
  queue r hr := (h2.queue r hr).elim (h1.queue r) .inr
  left r hr hn := by
    rcases h1.left r hr hn with hb | ⟨w, hw, hreq⟩
    · exact h2.left r hb hn
    · exact .inr ⟨w, h2.wagons hw, hreq⟩
  wagons := List.Subset.trans h1.wagons h2.wagons
  others k hk := (h2.others k hk).trans (h1.others k hk)
  frame := h1.frame.trans h2.frame

theorem Ahead.calm (h : Ahead gs slot a b s t) (hq : Calm a.outQ) : Calm b.outQ := fun r hr =>
  (h.queue r hr).elim (hq r) (fun hread => .inr hread.2)

end

/-- What issuing a list of requests of a command does: only what waits is left of them, and calm ones meet no port that is down. -/
structure IssuedAll (gs : List Group) (slot : Nat) (c : Cmd) (rs : List WagonReq) (s : State) (q : State × List WagonReq × Bool) : Prop where
  cmd : ∃ m, q.1.cmd? slot = some { c with indMask := m } ∧ ((∀ r ∈ rs, r.kind = .read) → m = c.indMask)
  waits : q.2.1 ⊆ rs
  up : Calm rs → q.2.2 = false
  left : ∀ r ∈ rs, r.near → r ∈ q.2.1 ∨ ∃ w ∈ q.1.cmds.wagons, w.req = r
  wagons : s.cmds.wagons ⊆ q.1.cmds.wagons
  others : OtherSlots slot s q.1
  frame : Frame gs s q.1

/-- Noting the output of an issued wagon touches the mask of indeterminate outputs alone, and that of no read (R308). -/
theorem Cmd.noteIssue_eq (c : Cmd) (r : WagonReq) :
    ∃ m, c.noteIssue r = { c with indMask := m } ∧ (r.kind = .read → m = c.indMask) := by
  unfold Cmd.noteIssue
  split
  next => exact ⟨_, rfl, fun _ => rfl⟩
  next h => exact ⟨_, rfl, fun hk => absurd (.inl hk) h⟩

@[simp] theorem State.modCmd_wagons (s : State) (slot : Nat) (f : Cmd → Cmd) : (s.modCmd slot f).cmds.wagons = s.cmds.wagons := by
  unfold State.modCmd
  split <;> rfl

theorem State.otherSlots_modCmd (s : State) (slot : Nat) (f : Cmd → Cmd) : OtherSlots slot s (s.modCmd slot f) := by
  intro k hk
  rw [State.cmd?_modCmd, if_neg hk]

theorem State.otherSlots_setCmd (s : State) (slot : Nat) (c : Option Cmd) : OtherSlots slot s (s.setCmd slot c) := by
  intro k hk
  rw [State.cmd?_setCmd, if_neg hk]

theorem State.cmd?_eq_of_slots {s t : State} (h : t.cmds.slots = s.cmds.slots) (slot : Nat) : t.cmd? slot = s.cmd? slot := by
  rw [State.cmd?, State.cmd?, h]

section
variable {gs : List Group} {slot : Nat} {c : Cmd} {s : State} (hbase : issueGroups ⊆ gs) (hc : s.cmd? slot = some c)
include hbase hc

/-- One request of a command is issued, and noted in the command. -/
theorem State.issue_note (r : WagonReq) (hp : r.near ∨ sendGroups ⊆ gs) :
    let q := s.issue c r
    let s1 := if q.2 = .issued then q.1.modCmd slot (Cmd.noteIssue · r) else q.1
    (∃ m, s1.cmd? slot = some { c with indMask := m } ∧ (r.kind = .read → m = c.indMask))
      ∧ s1.cmds.wagons = q.1.cmds.wagons ∧ OtherSlots slot s s1 ∧ Frame gs s s1 := by
  intro q s1
  have h : Issues gs r s q.1 q.2 := State.issue_issues hbase s c r hp
  have hslot (k : Nat) : q.1.cmd? k = s.cmd? k := State.cmd?_eq_of_slots h.slots k
  have hg : [Group.cmds] ⊆ gs := by simpa using hbase (show Group.cmds ∈ issueGroups by decide)
  simp only [s1]
  split
  · obtain ⟨m, hm, hread⟩ := c.noteIssue_eq r
    refine ⟨⟨m, ?_, hread⟩, State.modCmd_wagons _ _ _, fun k hk => ?_, h.frame.trans ((State.frame_modCmd _ _ _).mono hg)⟩
    · rw [State.cmd?_modCmd, if_pos rfl, hslot, hc, Option.map_some, hm]
    · rw [State.otherSlots_modCmd _ _ _ k hk, hslot]
  · exact ⟨⟨c.indMask, by rw [hslot, hc], fun _ => rfl⟩, rfl, fun k _ => hslot k, h.frame⟩

end

theorem IssuedAll.cons {gs : List Group} {slot : Nat} {c : Cmd} {m : Word} {r : WagonReq} {rs ws : List WagonReq} {s s1 : State}
    {u : State × List WagonReq × Bool} {down : Bool} (hm : r.kind = .read → m = c.indMask) (hw : s.cmds.wagons ⊆ s1.cmds.wagons)
    (ho : OtherSlots slot s s1) (hf : Frame gs s s1) (h : IssuedAll gs slot { c with indMask := m } rs s1 u) (hws : ws ⊆ r :: rs)
    (hmore : u.2.1 ⊆ ws) (hdown : Calm (r :: rs) → down = false) (hleft : r.near → r ∈ ws ∨ ∃ w ∈ s1.cmds.wagons, w.req = r) :
    IssuedAll gs slot c (r :: rs) s (u.1, ws, down) where
  cmd := by
    obtain ⟨m', hcmd, hreads⟩ := h.cmd
    refine ⟨m', hcmd, fun hr => ?_⟩
    rw [hreads (fun x hx => hr x (List.mem_cons_of_mem _ hx)), hm (hr r List.mem_cons_self)]
  waits := hws
  up := hdown
  left x hx hn := by
    rcases List.mem_cons.1 hx with rfl | hx
    · exact (hleft hn).imp_right fun ⟨w, hw, hreq⟩ => ⟨w, h.wagons hw, hreq⟩
    · exact (h.left x hx hn).imp_left (@hmore x)
  wagons := List.Subset.trans hw h.wagons
  others k hk := (h.others k hk).trans (ho k hk)
  frame := hf.trans h.frame

theorem State.issueAll_issuedAll {gs : List Group} {slot : Nat} (hbase : issueGroups ⊆ gs) (rs : List WagonReq) {s : State} {c : Cmd}
    (hc : s.cmd? slot = some c) (hp : NoPeer rs ∨ sendGroups ⊆ gs) : IssuedAll gs slot c rs s (State.issueAll slot rs s) := by
  induction rs generalizing s c with
  | nil => exact ⟨⟨c.indMask, hc, fun _ => rfl⟩, List.Subset.refl _, fun _ => rfl, nofun, List.Subset.refl _, fun _ _ => rfl, Frame.refl gs s⟩
  | cons r rs ih =>
    have hr : r.near ∨ sendGroups ⊆ gs := hp.imp_left (fun h => h r List.mem_cons_self)
    have hissue : Issues gs r s (s.issue c r).1 (s.issue c r).2 := State.issue_issues hbase s c r hr
    obtain ⟨⟨m, hc1, hm⟩, hws, hothers, hframe⟩ := State.issue_note hbase hc r hr
    have hrest := ih hc1 (hp.imp_left fun h x hx => h x (List.mem_cons_of_mem _ hx))
    simp only [State.issueAll, hc]
    generalize hs1 : (if (s.issue c r).2 = .issued then (s.issue c r).1.modCmd slot (Cmd.noteIssue · r) else (s.issue c r).1) = s1 at *
    have hw : s.cmds.wagons ⊆ s1.cmds.wagons := by
      rw [hws]
      rcases hissue.wagons with h | ⟨w, h, -⟩ <;> simp [h]
    have hup : Calm (r :: rs) → (State.issueAll slot rs s1).2.2 = false := fun h => hrest.up fun x hx => h x (List.mem_cons_of_mem _ hx)
    have hskip : rs ⊆ r :: rs := List.subset_cons_self r rs
    rcases hres : (s.issue c r).2 with _ | _ | _
    · exact .cons hm hw hothers hframe hrest (List.Subset.trans hrest.waits hskip) (List.Subset.refl _) hup
        (fun _ => .inr (hws ▸ hissue.issued hres))
    · exact .cons hm hw hothers hframe hrest (List.cons_subset_cons r hrest.waits) (List.subset_cons_self r _) hup
        (fun _ => .inl List.mem_cons_self)
    · refine .cons hm hw hothers hframe hrest (List.Subset.trans hrest.waits hskip) (List.Subset.refl _) (fun hcalm => ?_)
        (fun hn => absurd hn (hissue.down hres))
      have hspec : r.spec = true := (hcalm r List.mem_cons_self).resolve_left (hissue.down hres)
      simp [hup hcalm, hspec]

/-- A command without a request that could make it end issues what may leave (R263). -/
theorem State.pumpCmd_ahead {gs : List Group} {slot : Nat} {s : State} {c : Cmd} (hbase : issueGroups ⊆ gs) (hc : s.cmd? slot = some c)
    (hcalm : Calm c.outQ) (hp : NoPeer c.outQ ∨ sendGroups ⊆ gs) : ∃ c', Ahead gs slot c c' s (s.pumpCmd slot) ∧ c'.tiles = c.tiles := by
  have hg : [Group.cmds] ⊆ gs := by simpa using hbase (show Group.cmds ∈ issueGroups by decide)
  simp only [State.pumpCmd, hc]
  split
  · exact ⟨c, .refl gs hc, rfl⟩
  · split
    · exact ⟨c, .refl gs hc, rfl⟩
    · let s0 := s.setCmd slot (some { c with outQ := [] })
      have hrs (r : WagonReq) : r ∈ s.inTurn c.outQ ↔ r ∈ c.outQ := s.mem_inTurn c.outQ r
      have h : IssuedAll gs slot { c with outQ := [] } (s.inTurn c.outQ) s0 (State.issueAll slot (s.inTurn c.outQ) s0) :=
        State.issueAll_issuedAll hbase _ (State.cmd?_setCmd_self _ _ _) (hp.imp_left fun hn r hr => hn r ((hrs r).1 hr))
      obtain ⟨m, hcmd, hreads⟩ := h.cmd
      rw [h.up fun r hr => hcalm r ((hrs r).1 hr), if_neg Bool.false_ne_true]
      refine ⟨{ c with indMask := m, outQ := (State.issueAll slot (s.inTurn c.outQ) s0).2.1 }, ⟨?_, rfl, fun hr => ?_, fun r hr => ?_,
        fun r hr hn => ?_, ?_, fun k hk => ?_, ?_⟩, rfl⟩
      · rw [State.cmd?_modCmd, if_pos rfl, hcmd, Option.map_some]
        exact congrArg (fun q => some { c with indMask := m, outQ := q }) (List.append_nil _)
      · exact hreads fun r hmem => hr r ((hrs r).1 hmem)
      · exact .inl ((hrs r).1 (h.waits hr))
      · rw [State.modCmd_wagons]
        exact h.left r ((hrs r).2 hr) hn
      · rw [State.modCmd_wagons]
        exact h.wagons
      · rw [State.otherSlots_modCmd _ _ _ k hk, h.others k hk, State.otherSlots_setCmd _ _ _ k hk]
      · exact (((s.frame_setCmd _ _).mono hg).trans h.frame).trans ((State.frame_modCmd _ _ _).mono hg)

end Sys2Proof.Machine

/-!
PROOFS. Streams that run ahead of their consumers (R267).
-/
namespace Sys2Proof.Machine

/-! ## Fetching ahead (R267, R270, R271, R273) -/

section
variable {gs : List Group} {slot : Nat} {c c' : Cmd} {s t u : State}

/-- A change of groups other than the commands does not touch what streams that run ahead leave. -/
theorem Ahead.then {hs : List Group} (h : Ahead gs slot c c' s t) (hf : Frame hs t u) (hsub : hs ⊆ gs) (hcmds : Group.cmds ∉ hs) :
    Ahead gs slot c c' s u where
  cmd := (State.cmd?_eq_of_frame hf hcmds slot).trans h.cmd
  kept := h.kept
  mask := h.mask
  queue := h.queue
  left := by rw [show u.cmds = t.cmds from hf .cmds hcmds]; exact h.left
  wagons := by rw [show u.cmds = t.cmds from hf .cmds hcmds]; exact h.wagons
  others k hk := (State.cmd?_eq_of_frame hf hcmds k).trans (h.others k hk)
  frame := h.frame.trans (hf.mono hsub)

/-- A stream takes up tiles and asks for their lines. -/
theorem Ahead.of_fetched (hg : Group.cmds ∈ gs) (tiles : List Tile) (bursts : List (Nat × Nat)) {rs : List WagonReq}
    (hrs : ∀ r ∈ rs, r.kind = .read ∧ r.spec = true) : Ahead gs slot c { c with tiles := tiles, bursts := bursts, outQ := c.outQ ++ rs } s
      (s.setCmd slot (some { c with tiles := tiles, bursts := bursts, outQ := c.outQ ++ rs })) where
  cmd := State.cmd?_setCmd_self _ _ _
  kept := rfl
  mask _ := rfl
  queue r hr := (List.mem_append.1 hr).imp_right (hrs r)
  left r hr _ := .inl (List.mem_append_left _ hr)
  wagons := List.Subset.refl _
  others := s.otherSlots_setCmd _ _
  frame := (s.frame_setCmd _ _).mono (by simpa using hg)

end

/-- Whatever command is in the slot goes on as `Ahead` says. -/
def Advances (gs : List Group) (slot : Nat) (s t : State) : Prop := ∀ c, s.cmd? slot = some c → ∃ c', Ahead gs slot c c' s t

theorem Advances.refl (gs : List Group) (slot : Nat) (s : State) : Advances gs slot s s := fun c hc => ⟨c, .refl gs hc⟩

theorem Advances.trans {gs : List Group} {slot : Nat} {s t u : State} (hst : Advances gs slot s t) (htu : Advances gs slot t u) :
    Advances gs slot s u := by
  intro c hc
  obtain ⟨c1, h1⟩ := hst c hc
  obtain ⟨c2, h2⟩ := htu c1 h1.cmd
  exact ⟨c2, h1.trans h2⟩

theorem Advances.foldl {α : Type} {gs : List Group} {slot : Nat} {f : State → α → State} (hf : ∀ s x, Advances gs slot s (f s x)) (l : List α)
    (s : State) : Advances gs slot s (l.foldl f s) := by
  induction l generalizing s with
  | nil => exact .refl gs slot s
  | cons x l ih => exact (hf s x).trans (ih (f s x))

/-- A suppressed fault of a tile that is dropped (R270). -/
theorem Advances.of_suppressed {gs : List Group} (hg : Group.cmds ∈ gs) (s : State) (slot : Nat) :
    Advances gs slot s (s.modAcc slot (fun a => { a with specFault := a.specFault + 1 })) := fun c hc => by
  refine ⟨{ c with acc := { c.acc with specFault := c.acc.specFault + 1 } }, ?_, rfl, fun _ => rfl, fun r hr => .inl hr, fun r hr _ => .inl hr,
    ?_, s.otherSlots_modCmd _ _, (s.frame_modCmd _ _).mono (by simpa using hg)⟩
  · rw [State.modAcc, State.cmd?_modCmd, if_pos rfl, hc, Option.map_some]
  · rw [State.modAcc, State.modCmd_wagons]
    exact List.Subset.refl _

section
variable {gs : List Group} (hbase : issueGroups ⊆ gs)
include hbase

theorem State.advances_fetchTile (s : State) (slot stage f : Nat) (d : Desc) (ci t : Nat) :
    Advances gs slot s (s.fetchTile slot stage f d ci t).1 := by
  have hg : Group.cmds ∈ gs := hbase (by decide)
  have hcnt : [Group.cnt] ⊆ gs := by simpa using hbase (show Group.cnt ∈ issueGroups by decide)
  intro c hc
  simp only [State.fetchTile, hc]
  split
  · exact ⟨c, .refl gs hc⟩
  · split
    · have hdropped := Ahead.of_fetched (slot := slot) (c := c) (s := s) hg
        (c.tiles ++ [Tile.dropped ⟨stage, f, tileIdx ci t, [], 0, 0, .ahead⟩]) c.bursts (rs := []) nofun
      simp only [List.append_nil] at hdropped
      split
      · obtain ⟨c1, hcounted⟩ := Advances.of_suppressed hg _ slot _ hdropped.cmd
        exact ⟨c1, (hdropped.trans hcounted).then (State.frame_bump _ _ _) hcnt (by decide)⟩
      · exact ⟨_, hdropped⟩
    · split
      · exact ⟨c, .refl gs hc⟩
      · refine ⟨_, .of_fetched hg _ _ fun r hr => ?_⟩
        obtain ⟨u, -, hu⟩ := List.mem_flatMap.1 hr
        obtain ⟨e, -, rfl⟩ := List.mem_map.1 hu
        exact ⟨rfl, rfl⟩

theorem State.advances_fetchTiles (slot stage f : Nat) (d : Desc) (ci : Nat) (ts : List Nat) (s : State) :
    Advances gs slot s (State.fetchTiles slot stage f d ci ts s) := by
  induction ts generalizing s with
  | nil => exact .refl gs slot s
  | cons t ts ih =>
    have hfirst := s.advances_fetchTile hbase slot stage f d ci t
    simp only [State.fetchTiles]
    split
    · exact hfirst.trans (ih _)
    · exact hfirst

theorem State.advances_fetchStream (s : State) (slot : Nat) (steps : List UnitStep) (tiles : List Tile) (stage : Nat) (st : Stage) (f : Nat)
    (d : Desc) : Advances gs slot s (s.fetchStream slot steps tiles stage st f d) :=
  .foldl (fun s ci => State.advances_fetchTiles hbase slot stage f d ci _ s) _ s

/-- Streams that run ahead change nothing else of their command, and no other command (R267). -/
theorem State.runAhead_ahead {slot : Nat} {s : State} {c : Cmd} (early : Bool) (hsend : sendGroups ⊆ gs) (hc : s.cmd? slot = some c)
    (hcalm : Calm c.outQ) : ∃ c', Ahead gs slot c c' s (s.runAhead slot early) := by
  simp only [State.runAhead, hc]
  generalize hfetched : List.foldl _ s c.stages.zipIdx = s1
  have hadv : Advances gs slot s s1 := by
    rw [← hfetched]
    exact .foldl (fun s e => .foldl (fun s d => s.advances_fetchStream hbase _ _ _ _ _ _ _) _ s) _ s
  obtain ⟨c1, h1⟩ := hadv c hc
  obtain ⟨c2, h2, -⟩ := State.pumpCmd_ahead hbase h1.cmd (h1.calm hcalm) (.inr hsend)
  exact ⟨c2, h1.trans h2⟩

end

end Sys2Proof.Machine

/-!
PROOFS. The start of a command (R305, R316, R390); from these, O13.
-/
namespace Sys2Proof.Machine

/-! ## Counting, and the lease entries (R390, R469) -/

/-- Counting touches the accumulators of the command alone, and of no other command. -/
theorem State.cmd?_count {s : State} {slot : Nat} {c : Cmd} (hc : s.cmd? slot = some c) (o : Oc) (n : Nat) :
    ∃ acc, (s.count slot o n).cmd? slot = some { c with acc := acc } := by
  have hacc : (s.modAcc slot (fun a => { a with oc := addOc o n a.oc })).cmd? slot = some { c with acc := { c.acc with oc := addOc o n c.acc.oc } } := by
    rw [State.modAcc, State.cmd?_modCmd, if_pos rfl, hc, Option.map_some]
  simp only [State.count]
  split
  · exact ⟨c.acc, hc⟩
  · split
    · exact ⟨_, hacc⟩
    · exact ⟨_, hacc⟩

theorem State.frame_count (s : State) (slot : Nat) (o : Oc) (n : Nat) : Frame [.cmds, .cnt] s (s.count slot o n) := by
  intro g hg
  cases g <;> simp_all [Group.same]

theorem State.otherSlots_count (s : State) (slot : Nat) (o : Oc) (n : Nat) : OtherSlots slot s (s.count slot o n) := by
  simp only [State.count]
  split
  · exact fun _ _ => rfl
  · split <;> exact s.otherSlots_modCmd _ _

theorem State.frame_setLease (s : State) (k : Nat) (l : Option Lease) : Frame [.yard] s (s.setLease k l) := by
  intro g hg
  cases g <;> simp_all [Group.same]

theorem State.frame_leaseTake (s : State) (c : Cmd) (take : Bool) : Frame [.yard] s (s.leaseTake c take) := by
  unfold State.leaseTake
  split
  · split
    · exact Frame.refl _ s
    · split <;> exact s.frame_setLease _ _
  · exact Frame.refl _ s

theorem State.frame_noteGen (s : State) (c : Cmd) : Frame [.yard] s (s.noteGen c) := by
  simp only [State.noteGen]
  split
  · split
    · exact Frame.refl _ s
    · split
      · exact s.frame_setLease _ _
      · exact Frame.refl _ s
  · exact Frame.refl _ s

theorem State.frame_leaseWait (s : State) (slot : Nat) (c : Cmd) (upd : Bool) : Frame [.cmds, .yard] s (s.leaseWait slot c upd) := by
  simp only [State.leaseWait]
  refine Frame.trans ?_ ((State.frame_setCmd _ _ _).mono (by decide))
  split
  · split
    · exact (s.frame_setLease _ _).mono (by decide)
    · exact Frame.refl _ s
  · exact Frame.refl _ s

/-- A command that waits on its lease entry, as `State.leaseWait` leaves it (R390; log 25). -/
theorem State.cmd?_leaseWait (s : State) (slot : Nat) (c : Cmd) (upd : Bool) : (s.leaseWait slot c upd).cmd? slot
    = some { c with leased := c.leased || upd, leaseAt := some (c.leaseAt.getD s.time.cmdClk)
                    waitAt := if c.leaseAt.isSome then c.waitAt else s.time.cmdClk } := State.cmd?_setCmd_self _ _ _

theorem State.otherSlots_leaseWait (s : State) (slot : Nat) (c : Cmd) (upd : Bool) : OtherSlots slot s (s.leaseWait slot c upd) := by
  intro k hk
  simp only [State.leaseWait]
  rw [State.otherSlots_setCmd _ _ _ k hk]
  split
  · split <;> rfl
  · rfl

/-! ## The start of a command (R305, R316) -/

theorem State.frame_missedStart (s : State) (c : Cmd) : Frame logGroups s (s.missedStart c) := by
  have htrace : Frame logGroups s (s.traceCmd c 0x08 c.crec.tStart.toNat 0) := (s.frame_trace _ _).mono (by decide)
  simp only [State.missedStart]
  split
  · exact htrace.trans (State.frame_logErr _ _)
  · exact htrace

/-- A command as its start leaves it, before its streams run ahead. -/
def State.startCmd (s : State) (c : Cmd) (take : Bool) : Cmd :=
  { c with phase := .started, startAt := s.time.cmdClk, stallBy := s.stallDue, held := [], leased := c.leased || take, leaseAt := none
           yard := c.yard.map (fun y => { y with gens := s.startGens c }) }

/-- The groups that the start of a command changes before its OPENs leave and its streams run ahead. -/
def startGroups : List Group := [.cmds, .trc, .yard, .cnt, .log, .hosts]

/-- The start of a command other than a PERMUTE: its tokens are used and its start is traced; then its OPENs leave and its streams run ahead. -/
theorem State.start_of_readable {s : State} {slot : Nat} {c : Cmd} (take : Bool) (hop : c.op ≠ 11) (hread : s.expectFault c = none) :
    ∃ (u : State) (acc : Accum), s.start slot c take = (u.sendOpens slot).runAhead slot false
      ∧ u.cmd? slot = some { s.startCmd c take with acc := acc } ∧ (c.op ≠ 10 → acc = c.acc) ∧ OtherSlots slot s u ∧ Frame startGroups s u := by
  let s1 := (s.leaseTake c take).noteGen c
  have hdrain : s1.endDrain c = s1 := by simp [State.endDrain, hop]
  let s2 := (s1.setCmd slot (some (s.startCmd c take))).traceCmd c 0x02 0 slot
  have hlease : Frame [.yard] s s1 := (s.frame_leaseTake c take).trans (State.frame_noteGen _ c)
  have hset : Frame startGroups s (s1.setCmd slot (some (s.startCmd c take))) :=
    (hlease.mono (by decide)).trans ((State.frame_setCmd _ _ _).mono (by decide))
  have hs2 : Frame startGroups s s2 := hset.trans ((State.frame_trace _ _ _).mono (by decide))
  have hcmd2 (k : Nat) : s2.cmd? k = if k = slot then some (s.startCmd c take) else s.cmd? k := by
    refine (State.cmd?_eq_of_frame (State.frame_trace (s1.setCmd slot (some (s.startCmd c take))) _ _) (by decide) k).trans ?_
    rw [State.cmd?_setCmd, State.cmd?_eq_of_frame hlease (by decide)]
  obtain ⟨s3, hs3, hlate⟩ : ∃ s3, Frame logGroups s2 s3 ∧
      (if (s.cfg.profile == .express && c.crec.startEn && decide (c.crec.tStart.toNat + 1000 < s.time.now.toNat)) then s2.missedStart c else s2)
        = s3 := by
    refine ⟨_, ?_, rfl⟩
    split
    · exact s2.frame_missedStart c
    · exact Frame.refl _ s2
  have hcmd3 (k : Nat) : s3.cmd? k = if k = slot then some (s.startCmd c take) else s.cmd? k := by
    rw [State.cmd?_eq_of_frame hs3 (by decide), hcmd2]
  have hothers3 : OtherSlots slot s s3 := fun k hk => by rw [hcmd3, if_neg hk]
  have hframe3 : Frame startGroups s s3 := hs2.trans (hs3.mono (by decide))
  by_cases h10 : c.op = 10
  · obtain ⟨acc, hacc⟩ := State.cmd?_count (s := s3) ((hcmd3 slot).trans (if_pos rfl)) .ydWaitUs
      ((c.leaseAt.map (fun t => (s.time.cmdClk - t).toNat / 1000)).getD 0)
    refine ⟨_, acc, ?_, hacc, fun h => absurd h10 h, fun k hk => ?_, hframe3.trans ((s3.frame_count _ _ _).mono (by decide))⟩
    · simp only [State.start, hread, if_pos h10]
      rw [hdrain, ← hlate]
      rfl
    · rw [s3.otherSlots_count _ _ _ k hk, hothers3 k hk]
  · refine ⟨s3, c.acc, ?_, (hcmd3 slot).trans (if_pos rfl), fun _ => rfl, hothers3, hframe3⟩
    simp only [State.start, hread, if_neg h10, if_neg hop]
    rw [hdrain, ← hlate]
    rfl

theorem State.sendOpens_of_no_yard {s : State} {slot : Nat} {c : Cmd} (hc : s.cmd? slot = some c) (hy : c.yard = none) :
    s.sendOpens slot = s := by
  simp [State.sendOpens, hc, hy]

/-- Frames that leave change no command. -/
theorem State.frame_sendPackets (slot via : Option Nat) (ps : List Packet) (s : State) :
    Frame sendGroups s (State.sendPackets slot via ps s).1 := by
  induction ps generalizing s with
  | nil => exact Frame.refl _ s
  | cons p ps ih =>
    refine Frame.trans ?_ (ih _)
    split
    · exact s.frame_sendOn _ _ _ _ _
    · exact s.frame_sendPacket _ _ _ _

theorem State.frame_sendYard (s : State) (slot via : Option Nat) (axis dest : Nat) (f : YardFrame) :
    Frame sendGroups s (s.sendYard slot via axis dest f).1 :=
  ((s.frame_bump _ _).mono (by decide)).trans (State.frame_sendPackets _ _ _ _)

/-- The OPENs of a Yard command whose ports are up leave, and are noted in its Yard state (R376). -/
theorem State.cmd?_sendOpens {s : State} {slot : Nat} {c : Cmd} {y : YardSt} (hc : s.cmd? slot = some c) (hy : c.yard = some y)
    (hup : s.yardDown c y = false) : ∃ yard, (s.sendOpens slot).cmd? slot = some { c with yard := yard } := by
  have hopen (ds : List Nat) : (s.modYard slot (fun y => { y with opened := ds, waitFrom := s.time.cmdClk })).cmd? slot
      = some { c with yard := some { y with opened := ds, waitFrom := s.time.cmdClk } } := by
    rw [State.modYard, State.cmd?_modCmd, if_pos rfl, hc, Option.map_some, hy, Option.map_some]
  simp only [State.sendOpens, hc, hy, hup, Bool.false_eq_true, if_false]
  refine ⟨_, (State.cmd?_eq_of_frame (frame_foldl (fun s d => s.frame_sendYard _ _ _ _ _) _ _) (by decide) slot).trans (hopen _)⟩

/-- Which ports a Yard command needs, and whether they are up, its start leaves (R395). -/
theorem State.yardDown_startCmd {s u : State} {c : Cmd} {y : YardSt} (take : Bool) (acc : Accum) (gens : List Nat) (hcfg : u.cfg = s.cfg)
    (hfab : u.fab = s.fab) : u.yardDown { s.startCmd c take with acc := acc } { y with gens := gens } = s.yardDown c y := by
  simp only [State.yardDown, State.yardPorts, State.port, hcfg, hfab]
  rfl

section Start
variable {slot : Nat} {s : State} {c : Cmd} (hslot : slot < 4096) (hc : s.cmd? slot = some c) (hmay : s.mayStart c = true)
  (hmain : c.beforeMain = false) (hready : c.phase = .ready) (hop : c.op ≠ 11)
include hslot hc hmay hmain hready hop

theorem exec_cmdStart_of_go {take : Bool} (hgo : s.leaseGo c = .go take) : exec (.cmdStart slot) s = .next (s.start slot c take) := by
  have hlow : ¬4096 ≤ slot := by omega
  simp [exec, execCmdStart, startOp, hc, hmay, hmain, hready, hop, hlow, hgo]

theorem exec_cmdStart_of_wait {upd : Bool} (hwait : s.leaseGo c = .wait upd) :
    exec (.cmdStart slot) s = .next (s.leaseWait slot c upd) := by
  have hlow : ¬4096 ≤ slot := by omega
  simp [exec, execCmdStart, startOp, hc, hmay, hmain, hready, hop, hlow, hwait]

end Start

/-- The groups that a start changes. -/
def startedGroups : List Group := [.cmds, .trc, .yard, .cnt, .fab, .log, .hosts]

/-- Settles O13: a start is `State.start_of_readable` and then the streams that run ahead. -/
theorem startUsesTheTokens : Obligations.StartUsesTheTokens := by
  intro slot s c hslot hc hmay hmain hready hop
  refine ⟨fun take h10 hy hq hgo => ?_, fun take y hy hq hgo hread hup => ?_, fun upd hwait => ?_⟩
  · have hread : s.expectFault c = none := by simp [State.expectFault, h10]
    obtain ⟨u, acc, hstart, hcmd, hacc, hothers, hframe⟩ := s.start_of_readable (slot := slot) take hop hread
    rw [hacc h10] at hcmd
    rw [exec_cmdStart_of_go hslot hc hmay hmain hready hop hgo, hstart, State.sendOpens_of_no_yard hcmd (by simp [State.startCmd, hy])]
    obtain ⟨c', h⟩ := State.runAhead_ahead (gs := startedGroups) (by decide) false (by decide) hcmd (by simp [State.startCmd, hq, Calm])
    refine ⟨_, c', rfl, h.cmd, ?_, ?_, fun r hr => ?_, fun k hk => (h.others k hk).trans (hothers k hk),
      (hframe.mono (by decide)).trans h.frame⟩
    · have hmask : c'.indMask = c.indMask := h.mask (by simp [State.startCmd, hq])
      rw [h.kept, hmask]
      simp [State.startCmd, hq, hy]
    · rw [h.kept]
    · exact (h.queue r hr).resolve_left (by simp [State.startCmd, hq])
  · obtain ⟨u, acc, hstart, hcmd, -, -, hframe⟩ := s.start_of_readable (slot := slot) take hop hread
    have hyard : Cmd.yard { s.startCmd c take with acc := acc } = some { y with gens := s.startGens c } := by simp [State.startCmd, hy]
    obtain ⟨yard, hopened⟩ := State.cmd?_sendOpens hcmd hyard
      (by rw [State.yardDown_startCmd take acc _ (hframe .cfg (by decide)) (hframe .fab (by decide)), hup])
    obtain ⟨c', h⟩ := State.runAhead_ahead (gs := startedGroups) (by decide) false (by decide) hopened (by simp [State.startCmd, hq, Calm])
    rw [exec_cmdStart_of_go hslot hc hmay hmain hready hop hgo, hstart]
    refine ⟨_, c', rfl, h.cmd, ?_⟩
    rw [h.kept]
    exact ⟨rfl, rfl, rfl, rfl, rfl, rfl⟩
  · exact ⟨_, exec_cmdStart_of_wait hslot hc hmay hmain hready hop hwait, s.cmd?_leaseWait slot c upd, s.otherSlots_leaseWait slot c upd,
      s.frame_leaseWait slot c upd⟩

end Sys2Proof.Machine

/-!
PROOFS. The consumption of tiles (R265, R267), during which no page comes under migration (R247).
-/
namespace Sys2Proof.Machine

/-! ## The consumption of tiles (R265, R267) -/

/-- What a command asks for is all there: asking has changed nothing. -/
theorem State.meet_of_there {s : State} {slot : Nat} {c : Cmd} {ws : List Want} (h : (s.meet slot c ws).2 = true) :
    (s.meet slot c ws).1 = s := by
  unfold State.meet at h ⊢
  split at h
  · exact absurd h Bool.false_ne_true
  · split at h
    · rfl
    · exact absurd h Bool.false_ne_true

/-- Consuming some steps whose tiles are all there passes the first of them, or ends with it. -/
theorem State.consume_cons {slot : Nat} {x : UnitStep} {rest : List UnitStep} {s t : State} {c : Cmd} (hc : s.cmd? slot = some c)
    (h : State.consume slot (x :: rest) s = (t, true)) : t = s ∨ State.consume slot rest (s.passStep slot c x rest) = (t, true) := by
  simp only [State.consume, hc] at h
  cases hmeet : (s.meet slot c (s.wantsOf c x)).2 with
  | false => simp [hmeet] at h
  | true =>
    rw [State.meet_of_there hmeet] at h
    simp only [hmeet, Bool.not_true, Bool.false_eq_true, if_false] at h
    split at h
    · exact .inl (congrArg Prod.fst h).symm
    · exact .inr h

/-- The groups that the consumption of tiles changes. -/
def eatGroups : List Group := [.cmds, .cnt] ++ aheadGroups

/-- A command that consumes tiles: its streams have run ahead, which asks for speculative reads alone. -/
structure Eats (slot : Nat) (c c' : Cmd) (s t : State) : Prop where
  cmd : t.cmd? slot = some c'
  kept : c' = { c with tiles := c'.tiles, bursts := c'.bursts, outQ := c'.outQ, eaten := c'.eaten
                       acc := { c.acc with specFault := c'.acc.specFault } }
  queue : ∀ r ∈ c'.outQ, r.kind = .read ∧ r.spec = true
  others : OtherSlots slot s t
  frame : Frame eatGroups s t

theorem Eats.trans {slot : Nat} {a b c : Cmd} {s t u : State} (h1 : Eats slot a b s t) (h2 : Eats slot b c t u) : Eats slot a c s u where
  cmd := h2.cmd
  kept := by rw [h2.kept, h1.kept]
  queue := h2.queue
  others k hk := (h2.others k hk).trans (h1.others k hk)
  frame := h1.frame.trans h2.frame

/-- The tiles of a step that has been consumed free their slots, for which the streams run ahead (R267). -/
theorem State.passStep_eats {slot : Nat} {c : Cmd} (hq : ∀ r ∈ c.outQ, r.kind = .read ∧ r.spec = true) (s : State) (x : UnitStep) (rest : List UnitStep) :
    ∃ c', Eats slot c c' s (s.passStep slot c x rest) := by
  let passed (t : Tile) : Option Tile := if x.asks t then t.after (rest ++ s.stepsLater c) (some { t with use := .past }) else some t
  obtain ⟨c', h⟩ := State.runAhead_ahead (gs := eatGroups) (by decide) false (by decide)
    (State.cmd?_setCmd_self s slot (some { c with eaten := c.eaten + 1, tiles := c.tiles.filterMap passed })) (fun r hr => .inr (hq r hr).2)
  refine ⟨c', h.cmd, ?_, fun r hr => (h.queue r hr).elim (hq r) id, fun k hk => (h.others k hk).trans (s.otherSlots_setCmd _ _ k hk),
    ((s.frame_setCmd _ _).mono (by decide)).trans h.frame⟩
  have hmask : c'.indMask = c.indMask := h.mask fun r hr => (hq r hr).1
  rw [h.kept, hmask]

section
variable {slot : Nat} {s : State} {c : Cmd} (hc : s.cmd? slot = some c) (hq : ∀ r ∈ c.outQ, r.kind = .read ∧ r.spec = true)
include hc hq

theorem Eats.refl : Eats slot c c s s := ⟨hc, rfl, hq, fun _ _ => rfl, Frame.refl _ s⟩

theorem State.consume_eats (xs : List UnitStep) {t : State} (h : State.consume slot xs s = (t, true)) : ∃ c', Eats slot c c' s t := by
  induction xs generalizing s c with
  | nil =>
    obtain rfl : s = t := congrArg Prod.fst h
    exact ⟨c, .refl hc hq⟩
  | cons x rest ih =>
    rcases State.consume_cons hc h with rfl | hrest
    · exact ⟨c, .refl hc hq⟩
    · obtain ⟨c1, h1⟩ := State.passStep_eats hq s x rest
      obtain ⟨c2, h2⟩ := ih h1.cmd h1.queue hrest
      exact ⟨c2, h1.trans h2⟩

end

/-! ## No page under migration (R247): a started command keeps it so -/

theorem State.settleMigs_of_none {s : State} (h : s.xlt.mig = []) : s.settleMigs = s := by simp [State.settleMigs, h]

/-- The groups that a write of one of the device's engines changes. -/
def landGroups : List Group := [.cmds, .cnt, .mem, .hosts]

theorem State.frame_landOut (s : State) (writer : Option Nat) (line : Loc) (bytes : List (Nat × Byte)) :
    Frame landGroups s (s.landOut writer line bytes) := by
  refine Frame.trans ?_ ((State.frame_landLine _ writer line bytes).mono (by decide))
  split
  · exact (s.frame_hostPush _ _).mono (by decide)
  · exact Frame.refl _ s

theorem State.frame_shuntVa (s : State) (slot ctx va : Nat) (bytes : List Byte) : Frame landGroups s (s.shuntVa slot ctx va bytes) := by
  refine frame_foldl (fun s r => ?_) _ s
  split
  · exact (s.frame_modCmd _ _).mono (by decide)
  · exact s.frame_landOut _ _ _

theorem State.frame_migOutcome (s : State) (slot page out : Nat) : Frame landGroups s (s.migOutcome slot page out) := by
  simp only [State.migOutcome]
  split
  · exact Frame.refl _ s
  · refine Frame.trans ?_ ((State.frame_modCmd _ _ _).mono (by decide))
    split
    · refine Frame.trans ?_ ((State.frame_bump _ _ _).mono (by decide))
      exact Frame.trans (s.frame_shuntVa _ _ _ _) ((State.frame_count _ _ _ _).mono (by decide))
    · exact s.frame_shuntVa _ _ _ _

theorem State.frame_endMigrate {s : State} (hmig : s.xlt.mig = []) (slot : Nat) : Frame landGroups s (s.endMigrate slot) := by
  simp only [State.endMigrate, State.settleMigs_of_none hmig]
  split
  · exact Frame.refl _ s
  · split
    · split
      · exact frame_foldl (fun s k => s.frame_migOutcome _ _ _) _ s
      · exact Frame.refl _ s
    · exact Frame.refl _ s

theorem State.frame_cancel (s : State) (slot : Nat) : Frame [.cmds, .cnt] s (s.cancel slot) := by
  simp only [State.cancel]
  split
  · exact Frame.refl _ s
  · refine Frame.trans ?_ (frame_foldl (fun s k => (s.frame_bump _ _).mono (by decide)) _ _)
    refine Frame.trans ?_ (frame_foldl (fun s t => ?_) _ _)
    · refine Frame.trans ?_ ((State.frame_bump _ _ _).mono (by decide))
      exact ((s.frame_wagons _).mono (by decide)).trans ((State.frame_setCmd _ _ _).mono (by decide))
    · split
      · exact (s.frame_bump _ _).mono (by decide)
      · exact Frame.refl _ s

theorem State.frame_logCmd (s : State) (slot : Nat) (a : LogArg) : Frame (.cmds :: logGroups) s (s.logCmd slot a) := by
  simp only [State.logCmd]
  split
  · exact (s.frame_logErr _).mono (by decide)
  · exact ((s.frame_logSeq _).mono (by decide)).trans ((State.frame_modCmd _ _ _).mono (by decide))

/-- A started command is in the slot, and no page is under migration. -/
structure Live (slot : Nat) (s : State) : Prop where
  settled : s.xlt.mig = []
  started : ∃ c, s.cmd? slot = some c ∧ c.started = true

section
variable {slot : Nat} {s : State}

theorem Live.of_frame {gs : List Group} {t : State} (h : Live slot s) (hf : Frame gs s t) (hx : Group.xlt ∉ gs) {c : Cmd}
    (hc : t.cmd? slot = some c) (hs : c.started = true) : Live slot t :=
  ⟨by rw [show t.xlt = s.xlt from hf .xlt hx, h.settled], c, hc, hs⟩

theorem Live.of_steady {gs : List Group} {t : State} (h : Live slot s) (hf : Frame gs s t) (hx : Group.xlt ∉ gs) (hst : s.Steady t) :
    Live slot t := by
  obtain ⟨c, hc, hs⟩ := h.started
  obtain ⟨c', hc', hsteady⟩ := hst slot c hc
  exact h.of_frame hf hx hc' (hsteady.started_eq.trans hs)

theorem Live.endQuiet (h : Live slot s) (st detail : Byte) (stage : Nat) : Live slot (s.endQuiet slot st detail stage) := by
  have hmigrated : Live slot (s.endMigrate slot) := h.of_steady (State.frame_endMigrate h.settled slot) (by decide) (s.steady_endMigrate slot)
  obtain ⟨c, hc, hs⟩ := hmigrated.started
  cases hend : c.ended with
  | true =>
    have hquiet : s.endQuiet slot st detail stage = s.endMigrate slot := by simp [State.endQuiet, hc, hend]
    rwa [hquiet]
  | false =>
    obtain ⟨acc, dual, hquiet⟩ := State.endQuiet_of_started st detail stage hc hs hend rfl
    have hframe : Frame [.cmds, .cnt] (s.endMigrate slot) (s.endQuiet slot st detail stage) := by
      rw [hquiet]
      refine Frame.trans ?_ ((State.frame_setCmd _ _ _).mono (by decide))
      exact Frame.trans ((State.frame_setCmd _ _ _).mono (by decide)) (State.frame_cancel _ _)
    exact hmigrated.of_frame hframe (by decide) (by rw [hquiet, State.cmd?_setCmd_self]) rfl

/-- A command that fails stays in its slot if it has started, and lets no page come under migration. -/
theorem Live.failCmd (h : Live slot s) (st detail : Byte) (stage : Nat) (a : LogArg) : Live slot (s.failCmd slot st detail stage a) := by
  have hlogged (b : LogArg) : Live slot (s.logCmd slot b) := h.of_steady (s.frame_logCmd slot b) (by decide) (s.steady_logCmd slot b)
  have hended (s1 : State) (h1 : Live slot s1) : Live slot (s1.endCmd slot st detail stage) := by
    simp only [State.endCmd]
    split
    · exact h1
    · split
      · exact h1
      · exact (h1.of_steady (s1.frame_sendCancels slot _) (by decide) (.of_frame (s1.frame_sendCancels slot _) (by decide))).endQuiet _ _ _
  simp only [State.failCmd]
  split
  · exact h
  · split
    · exact h
    · exact hended _ (hlogged _)

theorem Live.pumpCmd (h : Live slot s) : Live slot (s.pumpCmd slot) := by
  obtain ⟨c, hc, hs⟩ := h.started
  simp only [State.pumpCmd, hc]
  split
  · exact h
  · split
    · exact h
    · have hall := State.issueAll_issuedAll (gs := eatGroups) (by decide) (s.inTurn c.outQ)
        (State.cmd?_setCmd_self s slot (some { c with outQ := [] })) (.inr (by decide))
      obtain ⟨m, hcmd, -⟩ := hall.cmd
      generalize State.issueAll slot (s.inTurn c.outQ) (s.setCmd slot (some { c with outQ := [] })) = q at *
      have hissued : Live slot (q.1.modCmd slot fun c => { c with outQ := q.2.1 ++ c.outQ }) := by
        refine h.of_frame (gs := eatGroups) ?_ (by decide) 
          (((State.cmd?_modCmd _ _ _ _).trans (if_pos rfl)).trans (congrArg (Option.map _) hcmd)) hs
        refine Frame.trans ?_ ((State.frame_modCmd _ _ _).mono (by decide))
        exact ((s.frame_setCmd _ _).mono (by decide)).trans hall.frame
      split
      · exact hissued.failCmd _ _ _ _
      · exact hissued

theorem Live.of_advances {t : State} (h : Live slot s) (ha : Advances eatGroups slot s t) : Live slot t := by
  obtain ⟨c, hc, hs⟩ := h.started
  obtain ⟨c', h'⟩ := ha c hc
  refine h.of_frame h'.frame (by decide) h'.cmd ?_
  rw [h'.kept]
  exact hs

theorem Live.runAhead (h : Live slot s) (early : Bool) : Live slot (s.runAhead slot early) := by
  simp only [State.runAhead]
  split
  · exact h
  · refine (h.of_advances ?_).pumpCmd
    exact .foldl (fun s e => .foldl (fun s d => s.advances_fetchStream (by decide) _ _ _ _ _ _ _) _ s) _ s

theorem Live.consume (h : Live slot s) (xs : List UnitStep) {t : State} (hdone : State.consume slot xs s = (t, true)) : Live slot t := by
  induction xs generalizing s with
  | nil =>
    obtain rfl : s = t := congrArg Prod.fst hdone
    exact h
  | cons x rest ih =>
    obtain ⟨c, hc, hs⟩ := h.started
    rcases State.consume_cons hc hdone with rfl | hrest
    · exact h
    · refine ih (Live.runAhead ?_ false) hrest
      exact h.of_frame (s.frame_setCmd slot _) (by decide) (State.cmd?_setCmd_self _ _ _) hs

end

end Sys2Proof.Machine

/-!
PROOFS. The outputs of stages, handed to the write queues one after another (R74, R269): what one hands over changes no access of the next.
-/
namespace Sys2Proof.Machine

/-! ## What translation sees of the commands (R228) -/

/-- Replacing an entry by one that a test does not tell from it leaves the outcome of the test over the table. -/
theorem Tab.any_insert {α : Type} {d v w : α} {t : Tab α} {k : Nat} {p : Nat × α → Bool} (hget : Tab.get d t k = w) (hw : w ≠ d)
    (hp : p (k, v) = p (k, w)) : (Tab.insert t k v).any p = t.any p := by
  induction t with
  | nil => exact absurd hget.symm hw
  | cons e t ih =>
    obtain ⟨j, u⟩ := e
    by_cases hj : j = k
    · subst hj
      obtain rfl : u = w := by simpa [Tab.get] using hget
      simp [Tab.insert, hp]
    · by_cases hk : k < j
      · have hmem : (k, w) ∈ (j, u) :: t := Tab.mem_of_get hget hw
        have hold : p (k, w) = true → ((j, u) :: t).any p = true := fun h => List.any_eq_true.2 ⟨_, hmem, h⟩
        rw [Tab.insert, if_neg hj, if_pos hk, List.any_cons, hp]
        cases hpw : p (k, w) with
        | false => rfl
        | true => rw [hold hpw, Bool.or_true]
      · rw [Tab.insert, if_neg hj, if_neg hk, List.any_cons, List.any_cons, ih (by simpa [Tab.get, hj] using hget)]

/-- Accesses meet the same in two states: they differ in the commands and the counters alone, and the same Platform ranges are held. -/
structure SeesAlike (s t : State) : Prop where
  eq : t = { s with cmds := t.cmds, cnt := t.cnt }
  held : ∀ ctx core off len, t.platHeld ctx core off len = s.platHeld ctx core off len

theorem SeesAlike.refl (s : State) : SeesAlike s s := ⟨rfl, fun _ _ _ _ => rfl⟩

theorem SeesAlike.trans {s t u : State} (hst : SeesAlike s t) (htu : SeesAlike t u) : SeesAlike s u :=
  ⟨htu.eq.trans (by rw [hst.eq]), fun ctx core off len => (htu.held ctx core off len).trans (hst.held ctx core off len)⟩

/-- A command that keeps its context and its ranges. -/
theorem SeesAlike.of_setCmd {s : State} {slot : Nat} {c c' : Cmd} (hc : s.cmd? slot = some c) (hctx : c'.ctx = c.ctx) (hresv : c'.resv = c.resv) :
    SeesAlike s (s.setCmd slot (some c')) where
  eq := rfl
  held ctx core off len := Tab.any_insert hc (Option.some_ne_none c) (by simp only [hctx, hresv])

theorem SeesAlike.of_bump (s : State) (off n : Nat) : SeesAlike s (s.bump off n) := ⟨rfl, fun _ _ _ _ => rfl⟩

namespace SeesAlike
variable {s t : State} (h : SeesAlike s t)
include h

theorem frame : Frame [.cmds, .cnt] s t := by
  intro g hg
  rw [h.eq]
  cases g <;> simp_all [Group.same]

theorem mem_eq : t.mem = s.mem := h.frame .mem (by decide)
theorem time_eq : t.time = s.time := h.frame .time (by decide)
theorem walk (ctx va : Nat) : t.walk ctx va = s.walk ctx va := by rw [h.eq]; rfl
theorem hostOfCtx (ctx : Nat) : t.hostOfCtx ctx = s.hostOfCtx ctx := by rw [h.eq]; rfl
theorem siteEnabled (core : Nat) : t.siteEnabled core = s.siteEnabled core := by rw [h.eq]; rfl
theorem hbmInPart (k pa : Nat) : t.hbmInPart k pa = s.hbmInPart k pa := by rw [h.eq]; rfl
theorem depotInPart (k off : Nat) : t.depotInPart k off = s.depotInPart k off := by rw [h.eq]; rfl
theorem hostFn (k : Nat) : t.hostFn k = s.hostFn k := by rw [h.eq]; rfl
theorem lineStatus (l : Loc) : t.lineStatus l = s.lineStatus l := by rw [h.eq]; rfl

theorem compPage (l : Loc) : t.compPage l = s.compPage l := by
  simp only [State.compPage, State.compStream, h.mem_eq]

theorem compLine (l : Loc) : t.compLine l = s.compLine l := by
  simp only [State.compLine, h.mem_eq, h.lineStatus]

theorem locOk (ctx : Nat) (l : Loc) : t.locOk ctx l = s.locOk ctx l := by
  simp only [State.locOk, h.hostOfCtx, h.siteEnabled, h.held, h.hbmInPart, h.depotInPart, h.hostFn]

theorem acc (ctx va : Nat) (wr : Bool) : t.acc ctx va wr = s.acc ctx va wr := by
  simp only [State.acc, h.walk, h.locOk]

theorem rdBytes (ctx va n : Nat) : t.rdBytes ctx va n = s.rdBytes ctx va n := by
  simp only [State.rdBytes, State.rdByte, h.acc, h.compPage, h.mem_eq, h.time_eq]

theorem readStatus (ctx va : Nat) : t.readStatus ctx va = s.readStatus ctx va := by
  simp only [State.readStatus, State.readFault, h.acc, h.lineStatus, h.compLine, h.compPage]

theorem slocOf (ctx : Nat) (d : Desc) (o : Nat) : t.slocOf ctx d o = s.slocOf ctx d o := by
  simp only [State.slocOf, State.listEntry, h.readStatus, h.rdBytes]

theorem pieces (ctx : Nat) (d : Desc) (fuel o n : Nat) : t.pieces ctx d fuel o n = s.pieces ctx d fuel o n := by
  induction fuel generalizing o n with
  | zero => rfl
  | succ fuel ih => simp only [State.pieces, h.slocOf, ih]

theorem writeReqs (slot : Nat) (c : Cmd) (stage f o : Nat) (bytes : List Byte) :
    t.writeReqs slot c stage f o bytes = s.writeReqs slot c stage f o bytes := by
  simp only [State.writeReqs, State.piecesOf, h.pieces, h.acc]

theorem accReqs (slot : Nat) (c : Cmd) (stage f o : Nat) (bytes : List Byte) :
    t.accReqs slot c stage f o bytes = s.accReqs slot c stage f o bytes := by
  simp only [State.accReqs, State.piecesOf, h.pieces, h.acc]

theorem writeReqsVa (slot ctx stage f va : Nat) (bytes : List Byte) :
    t.writeReqsVa slot ctx stage f va bytes = s.writeReqsVa slot ctx stage f va bytes := by
  simp only [State.writeReqsVa, State.piecesOf, h.pieces, h.acc]

theorem outReqs (slot : Nat) (c : Cmd) (i op : Nat) (w : WorkOut) : t.outReqs slot c i op w = s.outReqs slot c i op w := by
  simp only [State.outReqs, h.accReqs, h.writeReqs, h.writeReqsVa]

theorem pagedReqs (c : Cmd) (i op : Nat) (w : WorkOut) : t.pagedReqs c i op w = s.pagedReqs c i op w := by rw [h.eq]; rfl

end SeesAlike

/-! ## Outputs are handed to the write queues (R74, R269) -/

/-- A command that hands over outputs: their wagons and paged writes join its queues. -/
structure Emitted (slot : Nat) (reqs : List WagonReq) (paged : List PagedReq) (c c' : Cmd) (s t : State) : Prop where
  cmd : t.cmd? slot = some c'
  kept : c' = { c with outQ := c.outQ ++ reqs, paged := c.paged ++ paged, indPart := c'.indPart, halves := c'.halves, zcUsed := c'.zcUsed
                       status := c'.status, acc := c'.acc }
  others : OtherSlots slot s t
  sees : SeesAlike s t

section
variable {slot : Nat} {rs rs' : List WagonReq} {ps ps' : List PagedReq} {a b c : Cmd} {s t u : State}

theorem Emitted.refl (hc : s.cmd? slot = some c) : Emitted slot [] [] c c s s :=
  ⟨hc, by simp only [List.append_nil], fun _ _ => rfl, .refl s⟩

theorem Emitted.trans (h1 : Emitted slot rs ps a b s t) (h2 : Emitted slot rs' ps' b c t u) : Emitted slot (rs ++ rs') (ps ++ ps') a c s u where
  cmd := h2.cmd
  kept := by
    rw [h2.kept, h1.kept]
    simp only [List.append_assoc]
  others k hk := (h2.others k hk).trans (h1.others k hk)
  sees := h1.sees.trans h2.sees

/-- What the rest of the work makes of a command is what it would have made of it before. -/
theorem Emitted.outReqs_eq (h : Emitted slot rs ps a b s t) (i op : Nat) (w : WorkOut) : t.outReqs slot b i op w = s.outReqs slot a i op w := by
  rw [h.sees.outReqs, h.kept]
  rfl

theorem Emitted.pagedReqs_eq (h : Emitted slot rs ps a b s t) (i op : Nat) (w : WorkOut) : t.pagedReqs b i op w = s.pagedReqs a i op w := by
  rw [h.sees.pagedReqs, h.kept]
  rfl

end

/-- Counting what a command of a slot has done: its accumulators alone change. -/
def Tallies (slot : Nat) (s t : State) : Prop := ∀ c, s.cmd? slot = some c → ∃ c', Emitted slot [] [] c c' s t

section
variable {slot : Nat} {s t u : State}

theorem Tallies.refl (slot : Nat) (s : State) : Tallies slot s s := fun c hc => ⟨c, .refl hc⟩

theorem Tallies.trans (hst : Tallies slot s t) (htu : Tallies slot t u) : Tallies slot s u := fun c hc => by
  obtain ⟨c1, h1⟩ := hst c hc
  obtain ⟨c2, h2⟩ := htu c1 h1.cmd
  exact ⟨c2, h1.trans h2⟩

theorem Tallies.foldl {α : Type} {f : State → α → State} (hf : ∀ s x, Tallies slot s (f s x)) (l : List α) (s : State) :
    Tallies slot s (l.foldl f s) := by
  induction l generalizing s with
  | nil => exact .refl slot s
  | cons x l ih => exact (hf s x).trans (ih (f s x))

theorem Tallies.of_bump (slot : Nat) (s : State) (off n : Nat) : Tallies slot s (s.bump off n) := fun c hc =>
  ⟨c, hc, by simp only [List.append_nil], fun _ _ => rfl, .of_bump s off n⟩

theorem Tallies.of_modAcc (slot : Nat) (s : State) (f : Accum → Accum) : Tallies slot s (s.modAcc slot f) := fun c hc => by
  have hset : s.modAcc slot f = s.setCmd slot (some { c with acc := f c.acc }) := by simp only [State.modAcc, State.modCmd, hc]
  rw [hset]
  exact ⟨_, State.cmd?_setCmd_self _ _ _, by simp only [List.append_nil], s.otherSlots_setCmd _ _, .of_setCmd hc rfl rfl⟩

theorem State.tallies_count (s : State) (slot : Nat) (o : Oc) (n : Nat) : Tallies slot s (s.count slot o n) := by
  simp only [State.count]
  split
  · exact .refl slot s
  · split
    · exact (Tallies.of_modAcc slot s _).trans (.of_bump slot _ _ _)
    · exact .of_modAcc slot s _

theorem State.tallies_countByCore (slot : Nat) (s : State) (cores : List Nat) (h : List (Nat × Health)) :
    Tallies slot s (s.countByCore cores h) := by
  refine .foldl (fun s e => ?_) _ s
  split
  · exact (Tallies.of_bump slot s _ _).trans (.of_bump slot _ _ _)
  · exact .refl slot s

theorem State.tallies_countWork (s : State) (slot : Nat) (st : Stage) (w : WorkOut) : Tallies slot s (s.countWork slot st w) := by
  refine .trans ?_ (.foldl (fun s z => (Tallies.of_bump slot s _ _).trans (.of_bump slot _ _ _)) _ _)
  refine .trans ?_ (.foldl (fun s o => s.tallies_count slot _ _) _ _)
  refine .trans ?_ (State.tallies_countByCore slot _ _ _)
  exact ((Tallies.of_modAcc slot s _).trans (.of_bump slot _ _ _)).trans (.of_bump slot _ _ _)

end

section
variable {slot : Nat} {s : State} {c : Cmd} (hc : s.cmd? slot = some c)
include hc

theorem State.emit_emitted (i : Nat) (st : Stage) (w : WorkOut) :
    ∃ c', Emitted slot (s.outReqs slot c i st.op w) (s.pagedReqs c i st.op w) c c' s (s.emit slot i st w) := by
  have hset (c1 : Cmd) (hkept : c1 = { c with outQ := c.outQ ++ s.outReqs slot c i st.op w, paged := c.paged ++ s.pagedReqs c i st.op w
                                              indPart := c1.indPart, halves := c1.halves, zcUsed := c1.zcUsed, status := c1.status }) :
      Emitted slot (s.outReqs slot c i st.op w) (s.pagedReqs c i st.op w) c c1 s (s.setCmd slot (some c1)) :=
    ⟨State.cmd?_setCmd_self _ _ _, by rw [hkept], s.otherSlots_setCmd _ _, .of_setCmd hc (by rw [hkept]) (by rw [hkept])⟩
  simp only [State.emit, hc]
  generalize hc2 : (if (getOc .attFm w.oc != 0) = true then _ else _) = c2
  have h2 := hset c2 (by
    rw [← hc2]
    split
    · rw [Cmd.mark_eq_with_status]
    · rfl)
  obtain ⟨c3, h3⟩ := State.tallies_countWork _ slot st w _ h2.cmd
  exact ⟨c3, by simpa only [List.append_nil] using h2.trans h3⟩

/-- The outputs of the stages of a command, one after another. -/
theorem State.emits_emitted (ws : List ((Stage × WorkOut) × Nat)) :
    ∃ c', Emitted slot (ws.flatMap fun e => s.outReqs slot c e.2 e.1.1.op e.1.2) (ws.flatMap fun e => s.pagedReqs c e.2 e.1.1.op e.1.2) c c' s
      (ws.foldl (fun s e => s.emit slot e.2 e.1.1 e.1.2) s) := by
  induction ws generalizing s c with
  | nil => exact ⟨c, .refl hc⟩
  | cons e ws ih =>
    obtain ⟨c1, h1⟩ := State.emit_emitted hc e.2 e.1.1 e.1.2
    obtain ⟨c2, h2⟩ := ih h1.cmd
    simp only [h1.outReqs_eq, h1.pagedReqs_eq] at h2
    exact ⟨c2, h1.trans h2⟩

end

end Sys2Proof.Machine

/-!
PROOFS. The work of a command, unit by unit (R74, R134, R185, R192, R265, R285); from these, O27.
-/
namespace Sys2Proof.Machine

/-! ## Bands land in the Depot (R285): the writer's own windows do not see them (R274) -/

theorem State.otherSlots_hitCmd (s : State) (slot : Nat) (c : Cmd) (l : Loc) (lo hi : Nat) : OtherSlots slot s (s.hitCmd slot c l lo hi) := by
  intro k hk
  simp only [State.hitCmd]
  split
  · rfl
  · rw [State.cmd?_foldl_of_frame _ _ _ (fun s k => s.frame_bump _ _), State.cmd?_foldl_of_frame _ _ _ (fun s t => s.frame_bump _ _),
      State.otherSlots_setCmd _ _ _ k hk]
    rfl

/-- A sweep of which no step touches the command of a slot leaves it. -/
theorem State.cmd?_foldl {α : Type} {f : State → α → State} {slot : Nat} (hf : ∀ (s : State) x, (f s x).cmd? slot = s.cmd? slot) (l : List α)
    (s : State) : (l.foldl f s).cmd? slot = s.cmd? slot := by
  induction l generalizing s with
  | nil => rfl
  | cons x l ih => exact (ih _).trans (hf s x)

/-- A watched write leaves the command that writes it. -/
theorem State.cmd?_watch_writer (s : State) (slot : Nat) (l : Loc) (lo hi : Nat) :
    (s.watch (some slot) l lo hi).cmd? slot = s.cmd? slot := by
  refine State.cmd?_foldl (fun s e => ?_) _ s
  split
  · rfl
  next hne =>
    split
    · exact s.otherSlots_hitCmd _ _ _ _ _ slot (fun h => hne (congrArg some h))
    · rfl

theorem State.cmd?_landOut_writer (s : State) (slot : Nat) (line : Loc) (bytes : List (Nat × Byte)) :
    (s.landOut (some slot) line bytes).cmd? slot = s.cmd? slot := by
  have hline (s : State) : (s.landLine (some slot) line bytes).cmd? slot = s.cmd? slot := by
    cases bytes with
    | nil => rfl
    | cons b bs => exact State.cmd?_watch_writer _ _ _ _ _
  refine (hline _).trans ?_
  split
  · exact State.cmd?_eq_of_frame (s.frame_hostPush _ _) (by decide) slot
  · rfl

/-- Where no page is under migration, the bands that a command writes touch what their bytes land in, and not the command itself. -/
theorem State.lands_bands {s : State} (hmig : s.xlt.mig = []) (slot ctx : Nat) (bands : List (Nat × List Byte)) :
    let t := bands.foldl (fun s b => s.landVa (some slot) ctx b.1 b.2) s
    Frame landGroups s t ∧ t.cmd? slot = s.cmd? slot := by
  induction bands generalizing s with
  | nil => exact ⟨Frame.refl _ s, rfl⟩
  | cons b bands ih =>
    have hframe : Frame landGroups s (s.landVa (some slot) ctx b.1 b.2) := by
      simp only [State.landVa, State.settleMigs_of_none hmig]
      exact frame_foldl (fun s r => s.frame_landOut _ _ _) _ s
    have hcmd : (s.landVa (some slot) ctx b.1 b.2).cmd? slot = s.cmd? slot := by
      simp only [State.landVa, State.settleMigs_of_none hmig]
      exact State.cmd?_foldl (fun s r => s.cmd?_landOut_writer _ _ _) _ s
    obtain ⟨hrest, hkept⟩ := ih (s := s.landVa (some slot) ctx b.1 b.2) (by rw [show _ = s.xlt from hframe .xlt (by decide), hmig])
    exact ⟨hframe.trans hrest, hkept.trans hcmd⟩

/-! ## Stages are computed in order (R280–R285) -/

theorem State.frame_writeParts (s : State) (ps : List (Nat × Nat × List Byte)) : Frame [.mem] s (s.writeParts ps) := s.frame_mem _

theorem State.frame_landPanels (s : State) (c : Cmd) : Frame [.mem] s (s.landPanels c) := s.frame_writeParts _

theorem State.frame_runStages (c : Cmd) (es : List (Stage × Nat)) (s : State) (done : List (Stage × WorkOut)) :
    Frame [.mem] s (State.runStages c es s done).1 := by
  induction es generalizing s done with
  | nil => exact Frame.refl _ s
  | cons e es ih =>
    simp only [State.runStages]
    split
    · exact Frame.refl _ s
    · exact (s.frame_writeParts _).trans (ih _ _)

theorem handPlanes_of_none {st : Stage} (h : handIns st = []) (done : List (Stage × WorkOut)) : handPlanes st done = fun _ => none := by
  funext f
  simp [handPlanes, h]

/-- A stage that takes nothing from another is computed from memory. -/
theorem State.runStages_of_one {s : State} {c : Cmd} {st : Stage} {w : WorkOut} (hst : c.stages = [st]) (hin : handIns st = [])
    (hw : s.stageWork c 0 st (c.window st) (fun _ => none) = some w) :
    State.runStages c c.stages.zipIdx s [] = (s.writeParts w.parts, some [(st, w)]) := by
  simp [hst, State.runStages, handPlanes_of_none hin, hw]

theorem bandWrites_of_one {st : Stage} (hin : handIns st = []) (done : List (Stage × WorkOut)) : bandWrites [st] done = [] := by
  simp [bandWrites, hin]

/-! ## The work is over, or goes on at the next unit (R267, R306) -/

/-- A command goes on: what it has handed over leaves or waits in its queue, its paged writes and its words for the retire point are kept. -/
structure WorksOn (gs : List Group) (slot : Nat) (c c' : Cmd) (s t : State) : Prop where
  cmd : t.cmd? slot = some c'
  left : Left t c' c.outQ
  paged : c'.paged = c.paged
  atRetire : c'.atRetire = c.atRetire
  others : OtherSlots slot s t
  frame : Frame gs s t

theorem WorksOn.of_ahead {gs : List Group} {slot : Nat} {c c1 c' : Cmd} {s s1 t : State} (h : Ahead gs slot c1 c' s1 t) (hq : c1.outQ = c.outQ)
    (hpaged : c1.paged = c.paged) (hretire : c1.atRetire = c.atRetire) (hp : NoPeer c.outQ) (ho : OtherSlots slot s s1) (hf : Frame gs s s1) :
    WorksOn gs slot c c' s t where
  cmd := h.cmd
  left r hr := h.left r (hq ▸ hr) (hp r hr)
  paged := by rw [h.kept, ← hpaged]
  atRetire := by rw [h.kept, ← hretire]
  others k hk := (h.others k hk).trans (ho k hk)
  frame := hf.trans h.frame

section
variable {slot : Nat} {s : State} {c : Cmd} {st : Stage} {w : Win} (hc : s.cmd? slot = some c) (hp : NoPeer c.outQ)
include hc hp

theorem State.doneTo_of_over (hover : st.units ≤ w.hi) :
    ∃ c', WorksOn issueGroups slot c c' s (s.doneTo slot st w) ∧ c'.phase = .worked ∧ c'.tiles = [] := by
  have hset : s.modCmd slot (fun c => { c with phase := .worked, tiles := [], stallBy := s.stallDue })
      = s.setCmd slot (some { c with phase := .worked, tiles := [], stallBy := s.stallDue }) := by simp only [State.modCmd, hc]
  simp only [State.doneTo, if_pos hover, State.worked, hset]
  obtain ⟨c', h, htiles⟩ := State.pumpCmd_ahead (gs := issueGroups) (by decide)
    (State.cmd?_setCmd_self s slot (some { c with phase := .worked, tiles := [], stallBy := s.stallDue })) (fun r hr => .inl (hp r hr)) (.inl hp)
  exact ⟨c', .of_ahead h rfl rfl rfl hp (s.otherSlots_setCmd _ _) ((s.frame_setCmd _ _).mono (by decide)), by rw [h.kept], htiles⟩

theorem State.doneTo_of_next (hnext : w.hi < st.units) :
    ∃ c', WorksOn (issueGroups ++ aheadGroups) slot c c' s (s.doneTo slot st w) ∧ c'.phase = c.phase ∧ c'.pos = w.hi ∧ c'.eaten = 0 := by
  simp only [State.doneTo, if_neg (Nat.not_le.2 hnext), hc]
  generalize hsteps : Cmd.dropTiles _ (s.stepsNow c) _ = c1
  have hc1 : c1 = { c with pos := w.hi, eaten := 0, stallBy := s.stallDue, tiles := c1.tiles } := by rw [← hsteps]; rfl
  have hq : c1.outQ = c.outQ := by rw [hc1]
  obtain ⟨c', h⟩ := State.runAhead_ahead (gs := issueGroups ++ aheadGroups) (by decide) false (by decide) (State.cmd?_setCmd_self s slot (some c1))
    (fun r hr => .inl (hp r (hq ▸ hr)))
  refine ⟨c', .of_ahead h hq (by rw [hc1]) (by rw [hc1]) hp (s.otherSlots_setCmd _ _) ((s.frame_setCmd _ _).mono (by decide)), ?_, ?_, ?_⟩ <;>
    rw [h.kept, hc1]

end

/-! ## What is computed is handed over -/

/-- The write wagons of the outputs of some stages. -/
def State.allReqs (s : State) (slot : Nat) (c : Cmd) (done : List (Stage × WorkOut)) : List WagonReq :=
  done.zipIdx.flatMap (fun e => s.outReqs slot c e.2 e.1.1.op e.1.2)

/-- The paged writes of the outputs of some stages. -/
def State.allPaged (s : State) (c : Cmd) (done : List (Stage × WorkOut)) : List PagedReq :=
  done.zipIdx.flatMap (fun e => s.pagedReqs c e.2 e.1.1.op e.1.2)

/-- The words for the retire point of some stages. -/
def Cmd.allWords (c : Cmd) (done : List (Stage × WorkOut)) : List RetireWord := done.zipIdx.flatMap (fun e => ckptRetire c e.1.1 e.1.2)

theorem State.allReqs_of_one (s : State) (slot : Nat) (c : Cmd) (st : Stage) (w : WorkOut) :
    s.allReqs slot c [(st, w)] = s.outReqs slot c 0 st.op w := by simp [State.allReqs]

theorem State.allPaged_of_one (s : State) (c : Cmd) (st : Stage) (w : WorkOut) : s.allPaged c [(st, w)] = s.pagedReqs c 0 st.op w := by
  simp [State.allPaged]

theorem Cmd.allWords_of_one (c : Cmd) (st : Stage) (w : WorkOut) : c.allWords [(st, w)] = ckptRetire c st w := by simp [Cmd.allWords]

/-- The last stage of a command. -/
def Cmd.lastStage (c : Cmd) : Stage := (c.stages.getLast?).getD Stage.none

/-- A command whose outputs have been handed over: their wagons, paged writes and words for the retire point join what it has. -/
structure HandedOver (slot : Nat) (reqs : List WagonReq) (paged : List PagedReq) (words : List RetireWord) (c c' : Cmd) (s t : State) : Prop where
  cmd : t.cmd? slot = some c'
  outQ : c'.outQ = c.outQ ++ reqs
  paged : c'.paged = c.paged ++ paged
  atRetire : c'.atRetire = c.atRetire ++ words
  phase : c'.phase = c.phase
  others : OtherSlots slot s t
  frame : Frame [.cmds, .cnt] s t

/-- A command that has done some work goes on: the wagons of the work leave or wait in its queue. -/
structure Delivers (gs : List Group) (slot : Nat) (reqs : List WagonReq) (paged : List PagedReq) (words : List RetireWord) (c c' : Cmd)
    (s t : State) : Prop where
  cmd : t.cmd? slot = some c'
  left : Left t c' reqs
  paged : c'.paged = c.paged ++ paged
  atRetire : c'.atRetire = c.atRetire ++ words
  others : OtherSlots slot s t
  frame : Frame gs s t

section
variable {gs : List Group} {slot : Nat} {reqs : List WagonReq} {paged : List PagedReq} {words : List RetireWord} {c c1 c2 : Cmd} {s t u : State}
  {st : Stage} {w : Win}

theorem HandedOver.delivers (h : HandedOver slot reqs paged words c c1 s t) (hbase : issueGroups ⊆ gs) (hw : WorksOn gs slot c1 c2 t u) :
    Delivers gs slot reqs paged words c c2 s u where
  cmd := hw.cmd
  left r hr := hw.left r (h.outQ ▸ List.mem_append_right _ hr)
  paged := hw.paged.trans h.paged
  atRetire := hw.atRetire.trans h.atRetire
  others k hk := (hw.others k hk).trans (h.others k hk)
  frame := (h.frame.mono (List.Subset.trans (by decide) hbase)).trans hw.frame

variable (h : HandedOver slot reqs paged words c c1 s t) (hp : NoPeer (c.outQ ++ reqs))
include h hp

theorem HandedOver.over (hover : st.units ≤ w.hi) :
    ∃ c', Delivers issueGroups slot reqs paged words c c' s (t.doneTo slot st w) ∧ c'.phase = .worked ∧ c'.tiles = [] := by
  obtain ⟨c', hw, hphase, htiles⟩ := State.doneTo_of_over h.cmd (h.outQ ▸ hp) hover
  exact ⟨c', h.delivers (List.Subset.refl _) hw, hphase, htiles⟩

theorem HandedOver.next (hnext : w.hi < st.units) : ∃ c', Delivers (issueGroups ++ aheadGroups) slot reqs paged words c c' s (t.doneTo slot st w)
    ∧ c'.phase = c.phase ∧ c'.pos = w.hi ∧ c'.eaten = 0 := by
  obtain ⟨c', hw, hphase, hpos, heaten⟩ := State.doneTo_of_next h.cmd (h.outQ ▸ hp) hnext
  exact ⟨c', h.delivers (by decide) hw, hphase.trans h.phase, hpos, heaten⟩

end

/-- Stages that have been computed, and whose outputs meet no fault, hand these over; then the work is over or goes on. -/
theorem State.computeReady_of_run {slot : Nat} {s s1 : State} {c : Cmd} {done : List (Stage × WorkOut)}
    (hrun : State.runStages c c.stages.zipIdx (s.landPanels c) [] = (s1, some done))
    (hsound : ∀ e ∈ done.zipIdx, s.outFault c e.2 e.1.2 = none ∧ tooLong c e.2 e.1.1 e.1.2 = false)
    (hc : (s1.landBands slot c done).cmd? slot = some c) :
    let s2 := s1.landBands slot c done
    ∃ u c1, s.computeReady slot c = u.doneTo slot c.lastStage (c.window c.lastStage)
      ∧ HandedOver slot (s2.allReqs slot c done) (s2.allPaged c done) (c.allWords done) c c1 s2 u := by
  intro s2
  obtain ⟨c1, h⟩ := State.emits_emitted hc done.zipIdx
  have hnofault : done.zipIdx.findSome? (fun e => (s.outFault c e.2 e.1.2).map (fun x => (e.2, e.1.1.op, x))) = none := by
    rw [List.findSome?_eq_none_iff]
    intro e he
    rw [(hsound e he).1, Option.map_none]
  have hfits : (done.zipIdx.any fun e => tooLong c e.2 e.1.1 e.1.2) = false :=
    List.any_eq_false.2 fun e he => by rw [(hsound e he).2]; exact Bool.false_ne_true
  refine ⟨(done.zipIdx.foldl (fun s e => s.emit slot e.2 e.1.1 e.1.2) s2).modCmd slot (fun d => { d with atRetire := d.atRetire ++ c.allWords done }),
    { c1 with atRetire := c1.atRetire ++ c.allWords done }, ?_, ?_, ?_, ?_, ?_, ?_, fun k hk => ?_, ?_⟩
  · simp only [State.computeReady, hrun, hnofault, hfits, Bool.false_eq_true, if_false]
    rfl
  · rw [State.cmd?_modCmd, if_pos rfl, h.cmd, Option.map_some]
  · rw [h.kept]
    rfl
  · rw [h.kept]
    rfl
  · rw [h.kept]
  · rw [h.kept]
  · rw [State.otherSlots_modCmd _ _ _ k hk, h.others k hk]
  · exact h.sees.frame.trans ((State.frame_modCmd _ _ _).mono (by decide))

/-- One stage that takes nothing from another does a unit of its work (R74). -/
theorem State.computeReady_of_one {slot : Nat} {s : State} {c : Cmd} {st : Stage} {w : WorkOut} (hc : s.cmd? slot = some c)
    (hst : c.stages = [st]) (hchained : c.chained = false) (hin : handIns st = [])
    (hwork : (s.landPanels c).stageWork c 0 st ⟨c.pos, c.pos + 1⟩ (fun _ => none) = some w) (hnofault : s.outFault c 0 w = none)
    (hfits : tooLong c 0 st w = false) :
    let s1 := (s.landPanels c).writeParts w.parts
    ∃ u c1, s.computeReady slot c = u.doneTo slot st ⟨c.pos, c.pos + 1⟩
      ∧ HandedOver slot (s1.outReqs slot c 0 st.op w) (s1.pagedReqs c 0 st.op w) (ckptRetire c st w) c c1 s1 u := by
  intro s1
  have hwindow : c.window st = ⟨c.pos, c.pos + 1⟩ := by simp [Cmd.window, hchained]
  have hrun : State.runStages c c.stages.zipIdx (s.landPanels c) [] = (s1, some [(st, w)]) :=
    State.runStages_of_one hst hin (hwindow ▸ hwork)
  have hmem : Frame [.mem] s s1 := (s.frame_landPanels c).trans (State.frame_writeParts _ _)
  have hbands : s1.landBands slot c [(st, w)] = s1 := by simp [State.landBands, hst, bandWrites_of_one hin]
  have hs1 : s1.cmd? slot = some c := (State.cmd?_eq_of_frame hmem (by decide) slot).trans hc
  clear_value s1
  obtain ⟨u, c1, hrow, h⟩ := State.computeReady_of_run hrun (by simp [hnofault, hfits]) (hbands.symm ▸ hs1)
  have hlast : c.lastStage = st := by simp [Cmd.lastStage, hst]
  rw [hlast, hwindow] at hrow
  simp only [hbands, State.allReqs_of_one, State.allPaged_of_one, Cmd.allWords_of_one] at h
  exact ⟨u, c1, hrow, h⟩

/-! ## The rows -/

theorem State.computeStages_of_ready {slot : Nat} {s0 s : State} {c0 c : Cmd} (hown : s0.strangeParts c0 = false)
    (hready : s0.ready slot c0 = (s, true)) (hc : s.cmd? slot = some c) : s0.computeStages slot c0 = s.computeReady slot c := by
  simp [State.computeStages, hown, hready, hc]

section
variable {slot op : Nat} {s : State} {c : Cmd} (hmig : s.xlt.mig = []) (hring : c.ring = none)
include hmig hring

theorem exec_compute {i : Instr} (hw : s.workable slot op false = some c)
    (hi : (op, i) ∈ [(1, .matmul slot), (2, .conv slot), (3, .attnFwd slot), (5, .vecfn slot), (6, .norm slot), (7, .copy slot)]) :
    exec i s = .next (s.computeStages slot c) := by
  have hcompute : computeOp op slot s = s.computeStages slot c := by simp [computeOp, State.settleMigs_of_none hmig, hw]
  have hattn : op = 3 → attnOp op slot s = s.computeStages slot c := fun h => by
    subst h
    simp [attnOp, State.settleMigs_of_none hmig, hw, hring]
  simp only [List.mem_cons, Prod.mk.injEq, List.not_mem_nil, or_false] at hi
  rcases hi with ⟨rfl, rfl⟩ | ⟨rfl, rfl⟩ | ⟨rfl, rfl⟩ | ⟨rfl, rfl⟩ | ⟨rfl, rfl⟩ | ⟨rfl, rfl⟩
  case inr.inr.inl => exact congrArg Host.Outcome.next (hattn rfl)
  all_goals exact congrArg Host.Outcome.next hcompute

theorem exec_chain (hw : s.workable slot 0 true = some c) : exec (.fusedChain slot) s = .next (s.computeStages slot c) := by
  have hchain : chainOp slot s = s.computeStages slot c := by simp [chainOp, State.settleMigs_of_none hmig, hw, hring]
  exact congrArg Host.Outcome.next hchain

end

theorem State.workable_started {s : State} {slot op : Nat} {chain : Bool} {c : Cmd} (h : s.workable slot op chain = some c) :
    s.cmd? slot = some c ∧ c.started = true := by
  unfold State.workable at h
  split at h
  · exact absurd h nofun
  next d hd =>
    split at h
    next hgo =>
      obtain rfl : d = c := Option.some_inj.1 h
      obtain ⟨-, -, hphase, -⟩ := hgo
      exact ⟨hd, by simp [Cmd.started, hphase]⟩
    · exact absurd h nofun

/-- Settles O27: a command consumes tiles as `Eats` says; its stages are computed as `State.computeReady_of_run` says, and the command goes
on as `Delivers` says. That no page comes under migration meanwhile is `Live`. -/
theorem computeRowsAndChainsDoTheirWork : Obligations.ComputeRowsAndChainsDoTheirWork := by
  refine ⟨fun slot s s1 c hc hq hready => ?_, ?_, ?_⟩
  · obtain ⟨c1, h⟩ := State.consume_eats hc hq _ hready
    refine ⟨c1, h.cmd, h.queue, ?_, ?_, h.others, h.frame⟩
    · rw [h.kept]
    · rw [h.kept]
  · intro slot op i s0 s c0 c st w hi hmig hw hring _ hop hin hown hready hc hst hchained hphase s1 u hwork hnofault hfits hnear
    subst hop
    obtain ⟨v, c1, hrow, h⟩ := State.computeReady_of_one hc hst hchained hin hwork hnofault hfits
    have hexec : exec i s0 = .next (v.doneTo slot st u) := by
      rw [exec_compute hmig hring hw hi, State.computeStages_of_ready hown hready hc, hrow]
    have hmem : Frame [.mem] s s1 := (s.frame_landPanels c).trans (State.frame_writeParts _ _)
    have hothers : OtherSlots slot s s1 := fun k _ => State.cmd?_eq_of_frame hmem (by decide) k
    rcases Nat.lt_or_ge u.hi st.units with hnext | hover
    · obtain ⟨c', hd, hph, hpos, heaten⟩ := h.next hnear hnext
      rw [if_pos hnext]
      exact ⟨_, c', hexec, hd.cmd, hd.left, fun hover => absurd hnext (Nat.not_lt.2 hover), fun _ => ⟨hph.trans hphase, hpos, heaten⟩,
        hd.paged, hd.atRetire, hd.frame .mem (by decide), fun k hk => (hd.others k hk).trans (hothers k hk),
        (hmem.mono (by decide)).trans (hd.frame.mono (by decide))⟩
    · obtain ⟨c', hd, hph, htiles⟩ := h.over hnear hover
      rw [if_neg (Nat.not_lt.2 hover)]
      exact ⟨_, c', hexec, hd.cmd, hd.left, fun _ => ⟨hph, htiles⟩, fun hnext => absurd hnext (Nat.not_lt.2 hover),
        hd.paged, hd.atRetire, hd.frame .mem (by decide), fun k hk => (hd.others k hk).trans (hothers k hk),
        (hmem.mono (by decide)).trans (hd.frame.mono (by decide))⟩
  · intro slot s0 s s1 c0 c done hmig hw hring hown hready hc hchained hrun hsound s2 reqs hnear
    obtain ⟨hc0, hstarted⟩ := State.workable_started hw
    have hlive : Live slot s := Live.consume ⟨hmig, c0, hc0, hstarted⟩ _ hready
    have hran := State.frame_runStages c c.stages.zipIdx (s.landPanels c) []
    rw [hrun] at hran
    have hmem : Frame [.mem] s s1 := (s.frame_landPanels c).trans hran
    have hs1 : s1.cmd? slot = some c := (State.cmd?_eq_of_frame hmem (by decide) slot).trans hc
    obtain ⟨hbands, hs2⟩ := State.lands_bands (s := s1) ((congrArg Xlt.mig (hmem .xlt (by decide))).trans hlive.settled) slot c.ctx
      (bandWrites c.stages done)
    obtain ⟨v, c1, hrow, h⟩ := State.computeReady_of_run hrun hsound (hs2.trans hs1)
    have hover (st : Stage) : st.units ≤ (c.window st).hi := by simp [Cmd.window, hchained]
    obtain ⟨c', hd, hph, htiles⟩ := h.over hnear (hover c.lastStage)
    refine ⟨_, c', ?_, hd.cmd, hph, htiles, hd.left, hd.paged, hd.frame .mem (by decide), fun hnone k hk => (hd.others k hk).trans ?_,
      (hmem.mono (by decide)).trans (Frame.trans (hbands.mono (by decide)) (hd.frame.mono (by decide)))⟩
    · rw [exec_chain hmig hring hw, State.computeStages_of_ready hown hready hc, hrow]
    · have hlanded : s1.landBands slot c done = s1 := by simp [State.landBands, hnone]
      rw [hlanded, State.cmd?_eq_of_frame hmem (by decide)]

end Sys2Proof.Machine
